-- ==== Sys2Proof/Word.lean ====
section
/-! DEFINITION. The widths the manual gives its quantities, and the plainest arithmetic on them. -/

namespace Sys2Proof

/-- One byte of show memory. -/
abbrev Byte := BitVec 8

/-- A claim number, a tag or the value of a show variable: 16 bits (R58, R77). -/
abbrev Half := BitVec 16

/-- A register of the register window, a stored address or a frame counter value: 32 bits. -/
abbrev Word := BitVec 32

/-- Show time: a 40-bit count of samples that wraps (R20). -/
abbrev Time := BitVec 40

/-- One channel of one sample frame: a signed 24-bit number (R152). -/
abbrev Audio := BitVec 24

/-- `x` held between `lo` and `hi`. -/
def clamp (lo hi x : Int) : Int := max lo (min hi x)

/-- The largest of a counter's values that `n` saturates at (a count that stops at `top`). -/
def saturate (top n : Nat) : Nat := min top n

/-- Show time `a` is earlier than show time `b` when `(b - a)` modulo 2^40 lies in 1 to 2^39 - 1 (R20). -/
def Time.earlier (a b : Time) : Bool :=
  1 ≤ (b - a).toNat && (b - a).toNat ≤ 2 ^ 39 - 1

end Sys2Proof
end

