-- ==== Sys2Proof/Syntax.lean ====
section
/-! DEFINITION. The commands of the part: one constructor of `Instr` for each row of spec/opcode_table.json,
with the operands that come from outside the part. The arguments of a slate request are NOT operands here:
they stand in the slot the part took (R42, R43), and the command is the taking of that request by its owner. -/

namespace Sys2Proof

/-- How a memory job ends (R138): what the console processor wrote to show memory before the end (the table
has no row for a console write, so it arrives with the next completion), whether the memory behind the port
signalled an error, and, for a write that failed, which of its bytes reached memory (bit `i` for byte `i`:
"may have written any subset of its bytes"). -/
structure JobEnd where
  console : List Host.Cell
  error : Bool
  landed : Nat
  deriving DecidableEq, Repr

/-- The levels the part samples from its inputs once per sample (R24, R119, R120, R176): trigger lines and
panel keys (1 is asserted or pressed), the tally wires as external equipment pulls them, and the frame reference. -/
structure Pins where
  lines : BitVec 16
  keys : BitVec 8
  tally : BitVec 16
  reference : Bool
  deriving DecidableEq, Repr

/-- The commands. The docstring of each names the row's rule. -/
inductive Instr where
  /-- RUN_SET (R37): the control word is written with RUN 1, WARM 0 and these enables (bit 0 REPORT, 1 SLATE, 2 FAULT). -/
  | runSet (enables : BitVec 3)
  /-- RUN_CLEAR (R39): the control word is written with RUN 0, WARM 0 and these enables. -/
  | runClear (enables : BitVec 3)
  /-- WARM_RESET (R41): the control word is written with WARM 1. -/
  | warmReset
  /-- COLD_RESET (R41). -/
  | coldReset
  /-- INTERRUPT_ENABLE_WRITE (R36): the control word is written with RUN as it stands, WARM 0 and these enables. -/
  | interruptEnableWrite (enables : BitVec 3)
  /-- INTERRUPT_FLAG_CLEAR (R36): the status word is written with this value. -/
  | interruptFlagClear (value : Word)
  /-- REGISTER_WRITE (R35): a write of the register window at this byte offset. -/
  | registerWrite (offset : Nat) (value : Word)
  /-- SAMPLE (R20): one period of the word clock ends and the next begins, with these input levels. -/
  | sample (pins : Pins)
  /-- REFERENCE_PULSE (R24). -/
  | referencePulse
  /-- PREDICTED_BOUNDARY (R23). -/
  | predictedBoundary
  /-- WINDOW_CLOSE (R28). -/
  | windowClose
  /-- LINE_EVENT (R122). -/
  | lineEvent (line : Fin 16)
  /-- KEY_EVENT (R120). -/
  | keyEvent (key : Fin 8)
  /-- QUEUED_EVENT_TAKEN (R123). -/
  | queuedEventTaken
  /-- HEADER_READ_DONE (R38). -/
  | headerReadDone (e : JobEnd)
  /-- SCENE_BUSY_CLEAR_DONE (R38 step 7): the busy 0 writes end; on an error `failing` is the scene whose write failed. -/
  | sceneBusyClearDone (e : JobEnd) (failing : Nat)
  /-- START_WRITTEN_TO_DONE (R38 step 9). -/
  | startWrittenToDone (e : JobEnd)
  /-- STOPPING_COMPLETE (R39). -/
  | stoppingComplete
  /-- SLATE_READ_DONE (R42). -/
  | slateReadDone (e : JobEnd)
  /-- TAKEN_WRITE_DONE (R42). -/
  | takenWriteDone (e : JobEnd)
  /-- COMPLETION_WRITE_DONE (R44). -/
  | completionWriteDone (e : JobEnd)
  /-- RESOLVER_TAKE (R57). -/
  | resolverTake
  /-- DESCRIPTOR_READ_DONE (R12). -/
  | descriptorReadDone (e : JobEnd)
  /-- CUE_READ_DONE (R12). -/
  | cueReadDone (e : JobEnd)
  /-- HEAD_JOB_DONE (R140). -/
  | headJobDone (e : JobEnd)
  /-- REFILL_JOB_DONE (R143). -/
  | refillJobDone (e : JobEnd)
  /-- PIN_JOB_DONE (R148). -/
  | pinJobDone (e : JobEnd)
  /-- SCENE_RECORD_READ_DONE (R172). -/
  | sceneRecordReadDone (e : JobEnd)
  /-- RULE_TABLE_READ_DONE (R172). -/
  | ruleTableReadDone (e : JobEnd)
  /-- BUSY_WRITE_DONE (R174). -/
  | busyWriteDone (e : JobEnd)
  /-- RETURNED_TO_READ_DONE (R181). -/
  | returnedToReadDone (e : JobEnd)
  /-- WRITTEN_TO_WRITE_DONE (R179). -/
  | writtenToWriteDone (e : JobEnd)
  /-- FATAL_WRITE_FAULT (R185). -/
  | fatalWriteFault (e : JobEnd)
  /-- EXACT_START (R69). -/
  | exactStart (voice : Fin 24)
  /-- FOLLOW_ON_REQUEST (R73). -/
  | followOnRequest (voice : Fin 24)
  /-- NATURAL_END (R87). -/
  | naturalEnd (voice : Fin 24)
  /-- RELEASE_COMPLETE (R89). -/
  | releaseComplete (voice : Fin 24)
  /-- HANDOVER_FADE_END (R90). -/
  | handoverFadeEnd (voice : Fin 24)
  /-- DUCK_STEP (R157). -/
  | duckStep (group : Fin 4)
  /-- FIRE (R60). -/
  | fire
  /-- PRIME (R61). -/
  | prime
  /-- PROBE (R19). -/
  | probe
  /-- GO (R72). -/
  | go
  /-- SET_VAR (R59). -/
  | setVar
  /-- RELEASE (R93). -/
  | release
  /-- CUT (R94). -/
  | cut
  /-- CUT_LAST (R95). -/
  | cutLast
  /-- UNLOOP (R96). -/
  | unloop
  /-- RELEASE_GROUP (R97). -/
  | releaseGroup
  /-- CANCEL (R117). -/
  | cancel
  /-- ARM_RULES (R131). -/
  | armRules
  /-- DISARM_RULES (R131). -/
  | disarmRules
  /-- REOPEN (R132). -/
  | reopen
  /-- PIN (R148). -/
  | pin
  /-- UNPIN (R149). -/
  | unpin
  /-- TRIM (R163). -/
  | trim
  /-- HOLD (R167). -/
  | hold
  /-- RESUME (R169). -/
  | resume
  /-- SCENE (R172). -/
  | scene
  /-- LINES_WRITE (R177). -/
  | linesWrite
  /-- LINES_MODIFY (R178). -/
  | linesModify
  /-- SET_RATE (R32). -/
  | setRate
  /-- ACK_FAULT (R184). -/
  | ackFault
  /-- MIRROR_WRITE_DONE (R45). -/
  | mirrorWriteDone (e : JobEnd)
  /-- REPORT_RECORD_WRITE_DONE (R182). -/
  | reportRecordWriteDone (e : JobEnd)
  /-- FAULT_RECORD_WRITE_DONE (R184). -/
  | faultRecordWriteDone (e : JobEnd)
  deriving DecidableEq, Repr

end Sys2Proof
end

