-- ==== Sys2Proof/Decode.lean ====
section
/-! DEFINITION. The command a word spells by the table's bits. spec/opcode_table.json gives no row any bits ("fields" is
empty in each and no row has a "fixed" pattern), since the commands come from outside or arise inside the part, so no word
spells a command. -/

namespace Sys2Proof

/-- The command that the `nbits` low bits of `w` spell: none, since no row has an encoding (log entry 8). -/
def decodeTableWord (_nbits _w : Nat) : Option Instr := none

end Sys2Proof
end

