-- ==== Sys2Proof/Config.lean ====
section
/-! DEFINITION. What the part fixes once, and the free values: constants with no body, one for each value the manual
leaves unstated. A free value is read at the state's counter `free`, which each reading advances, so that two readings
are not claimed equal (log entry 2). -/

namespace Sys2Proof.Config

/-- The identity word: part code 0x0C24, header layout version 1, silicon revision 1 (R35, R46). -/
def identity : Word := 0x0C240101

/-- The layout version the part accepts (R35). -/
def layoutVersion : Nat := 1

/-- The number of addresses of show memory: 32-bit byte addresses (chapter 00 section 5.5). -/
def addressSpace : Nat := 2 ^ 32

/-- Frames in a head, a head buffer, a stream buffer and a head cache entry (chapter 08). -/
def headFrames : Nat := 2048

/-- Most frames of one refill, and the fill at or below which one is placed (R142). -/
def refillFrames : Nat := 512

/-- The fill of a stream buffer at or below which a refill is placed (R142). -/
def refillThreshold : Nat := 1024

/-- The remaining length at which a follow-on request is placed (R73). -/
def followLead : Nat := 9600

/-- The window of a boundary reaches this many samples to either side (R24). -/
def windowReach : Nat := 8

/-- The qualify count of every panel key (R120). -/
def keyQualify : Nat := 240

/-- Free value: the four bytes in which the manual writes an address when the address lies beyond the last one of
show memory (it gives a 32-bit field and no value for this case). -/
opaque wideAddress : Nat → Nat → Word

/-- Free value: the detail of a fault met while clearing a scene's busy flag at STARTING (R183 gives the detail of the
SLATE source as a slot number or 0xFF for header accesses; this write is neither). -/
opaque busyClearDetail : Nat → Word

/-- Free value: the claim number and state bytes of the result detail of CUT LAST with an empty start-order list, where
no voice was acted on (R51 lays them out and gives no value). -/
opaque noVoiceDetail : Nat → BitVec 24

/-- Free value: the byte that stands for "no current scene" where a layout has a scene index (R51, R52). -/
opaque noSceneCode : Nat → Byte

/-- Free value: which bytes of a write that was in flight at a cold reset had reached memory (bit `i` for byte `i`); R138
leaves the port idle at once and says nothing of the transfer under way. -/
opaque abandonedWrite : Nat → Nat

/-- Free value: which of the two causes a HOLD refused BUSY names when a PIN job is in flight and a scene switch is in
progress at once (R167); true is PIN. -/
opaque holdBusyCause : Nat → Bool

end Sys2Proof.Config
end

