-- ==== Sys2Proof/Machine/State.lean ====
section
/-! DEFINITION. The state of the CF24, block by block as chapter 00 section 3 lists them, as plain data, and the
state after cold reset. Show memory, which the part shares with the console processor, is held beside the blocks. -/

namespace Sys2Proof.Machine

/-! ### Codes and small records -/

/-- Part states (R37). -/
inductive PartState where
  | stopped | starting | running | stopping | failed
  deriving DecidableEq, Repr

/-- Start fault codes (R36). -/
inductive StartFault where
  | none | hdrVersion | hdrRange | hdrAlign | hdrMemory | sceneInitial | runtimeWrite
  deriving DecidableEq, Repr

/-- Lock states of the frame reference (chapter 02 section 2.4). -/
inductive LockState where
  | seeking | locked | holdover
  deriving DecidableEq, Repr

/-- Causes of a change of lock state (R31). -/
inductive RefCause where
  | referenceFound | strayLimit | missingLimit | referenceReturned | referenceMoved | rateChange
  deriving DecidableEq, Repr

/-- Hold states (R166). -/
inductive HoldState where
  | none | light | deep
  deriving DecidableEq, Repr

/-- The release condition of a hold (R166). -/
inductive HoldRelease where
  | request
  | line (n : Fin 16)
  deriving DecidableEq, Repr

/-- Where a fire comes from (R62). -/
inductive Source where
  | slate | key | rule | followOn | schedule
  deriving DecidableEq, Repr

/-- How a claim obtained its voice (R67). -/
inductive Obtained where
  | idle | releasing | stolen | restart
  deriving DecidableEq, Repr

/-- Reasons of an ENDED report (R100). -/
inductive EndReason where
  | natural | released | cut | kicked | held
  deriving DecidableEq, Repr

/-- Clip formats (R8): mono or stereo, 16 or 24 bits. -/
inductive ClipFormat where
  | m16 | s16 | m24 | s24
  deriving DecidableEq, Repr

/-- Sheet kinds as read from a descriptor (R2, R3). -/
inductive SheetKind where
  | play | library | invalid
  deriving DecidableEq, Repr

/-- Cue kinds as read from a cue record (R7). -/
inductive CueKind where
  | empty | sound | link | invalid
  deriving DecidableEq, Repr

/-- The duck role of a cue (R8). -/
inductive DuckRole where
  | none
  | key (groups : BitVec 4)
  | member (group : Fin 4)
  deriving DecidableEq, Repr

/-- Retrigger policies (R65); the stored value 3 is read as LAYER. -/
inductive Retrigger where
  | layer | restart | ignore
  deriving DecidableEq, Repr

/-- Comparisons of conditions and guards (R64). -/
inductive Comparison where
  | eq | ne | ge | lt
  deriving DecidableEq, Repr

/-- A cue's condition or a rule's guard (R64, R125). -/
structure Condition where
  var : Fin 32
  cmp : Comparison
  value : Half
  deriving DecidableEq, Repr

/-- A selector (R1): sheet index, cue index, asserted level. -/
structure Selector where
  sheet : BitVec 6
  cue : BitVec 8
  level : BitVec 2
  deriving DecidableEq, Repr

/-- The null selector with its unused fields 0, as reports that carry "the null selector" hold it. -/
def Selector.null : Selector := ⟨0, 0, 0⟩

/-- A loop (R8), in sample frames: the loop plays `start` to `stop - 1`. -/
structure Loop where
  start : Nat
  stop : Nat
  deriving DecidableEq, Repr

/-- The fields of a well-formed SOUND record (R8), the level code clamped. -/
structure SoundCue where
  clip : Word
  format : ClipFormat
  length : Nat
  loop : Option Loop
  level : Int
  fadeIn : Nat
  fadeOut : Nat
  priority : Nat
  group : Nat
  duck : DuckRole
  buses : BitVec 4
  retrigger : Retrigger
  armOnly : Bool
  condition : Option Condition
  lateAllowance : Nat
  follow : Selector
  tally : Option (Fin 16)
  deriving DecidableEq, Repr

/-- The fields of a LINK record (R10), the level offset clamped. -/
structure LinkCue where
  target : Selector
  carry : Nat
  offset : Int
  deriving DecidableEq, Repr

/-- A cue record as read (R7, R9): a SOUND record that R9 calls malformed is `badSound`; both SOUND forms keep the
stored clip length, which PROBE shows (R19). -/
inductive CueRecord where
  | empty
  | invalid
  | link (l : LinkCue)
  | sound (c : SoundCue)
  | badSound (length : Nat)
  deriving DecidableEq, Repr

/-- A sheet descriptor as read (R2). -/
structure Descriptor where
  present : Bool
  kind : SheetKind
  rights : Nat
  count : Nat
  base : Nat
  deriving DecidableEq, Repr

/-- A resolved SOUND cue (R14): its identity (`sheet`, `cue`), entry selector, record, effective level, accumulated
offset and hop count. Source, origin, tag and purpose stand in the claim request. -/
structure ResolvedCue where
  sheet : BitVec 6
  cue : BitVec 8
  entry : Selector
  sound : SoundCue
  level : Nat
  offset : Int
  hops : Nat
  deriving DecidableEq, Repr

/-- A requested or pending start (R62, R69). `overdue` is part of an AT_FRAME pending start (R111). -/
inductive Start where
  | immediate
  | frame
  | atFrame (target : Word) (overdue : Bool)
  | exact (stop : Time)
  | none
  deriving DecidableEq, Repr

/-! ### Frame Clock (chapter 02) -/

/-- The cause of a boundary (R21): made at a predicted position, or by a reference pulse that re-epochs the clock. -/
inductive BoundaryCause where
  | predicted | reEpoch
  deriving DecidableEq, Repr

/-- A frame boundary event (R21): the new frame counter value, the show time of the boundary sample, the cause. -/
structure BoundaryEvent where
  frame : Word
  sample : Time
  cause : BoundaryCause
  deriving DecidableEq, Repr

/-- The Frame Clock's state (R20 to R34). `boundary` is the frame boundary event last handed to the consumers (R21). `held` and `lastHeld` say whether the window of the next predicted boundary
and that of the boundary just made have held a pulse; `lastOpen` says whether the latter is still open (R24). -/
structure Clock where
  showTime : Time
  frame : Word
  rate : Fin 7
  epoch : Time
  k : Nat
  lock : LockState
  stray : Nat
  missing : Nat
  held : Bool
  lastHeld : Bool
  lastOpen : Bool
  refSeen : Bool
  refEdge : Bool
  boundary : Option BoundaryEvent
  deriving DecidableEq, Repr

/-! ### Registers and Slate Unit (chapter 03) -/

/-- The fields of the four registers (R35, R36, R46). The identity word is a constant. -/
structure Registers where
  headerBase : Word
  run : Bool
  enables : BitVec 3
  flags : BitVec 3
  part : PartState
  startFault : StartFault
  deriving DecidableEq, Repr

/-- The working copy of the show header (R35, R38, R52). -/
structure Header where
  base : Nat
  version : Nat
  rate : Nat
  initialScene : Nat
  directory : Nat
  directoryCount : Nat
  sceneCount : Nat
  slotCount : Nat
  meterInterval : Nat
  sceneTable : Nat
  slate : Nat
  strip : Nat
  reportCount : Nat
  reserve : Nat
  returnedTo : Nat
  deriving DecidableEq, Repr

/-- Result codes of a slot (chapter 03 section 3.4). -/
inductive ResultCode where
  | ok | queued | condFalse | already | busy | held | noVoice | nullRef | limit | notPresent | type | rights
  | notLive | badCue | linkDepth | scheduleFull | missed | badState | badArg | cacheFull | notEntered
  | memoryError | unknownKind | abandoned
  deriving DecidableEq, Repr

/-- A slot the part took, with its 32 bytes as read (R42). -/
structure Taken where
  slot : Nat
  bytes : List Byte
  deriving DecidableEq, Repr

/-- A held slot (R42, R44): whether its TAKEN write has finished, and the result returned for it, if any. -/
structure Held where
  taken : Taken
  written : Bool
  result : Option ResultCode
  detail : List Byte
  deriving DecidableEq, Repr

/-- The Slate Unit (R38 to R45): the working header copy, the slot the scan in progress is reading, whether a scan
waits, the intake queue, the held slots and a mirror write that waits for the one before it. -/
structure SlateUnit where
  header : Option Header
  scan : Option Nat
  scanWaiting : Bool
  queue : List Taken
  held : List Held
  mirrorWaiting : Option (List Byte)
  deriving DecidableEq, Repr

/-! ### Cue Resolver (chapters 01 and 04) -/

/-- A follow-on request (R55). -/
structure FollowOn where
  leader : Fin 24
  claim : Half
  selector : Selector
  level : Nat
  stop : Time
  deriving DecidableEq, Repr

/-- A fire of the line intake (R56): `frame` says the alignment is FRAME. -/
structure LineFire where
  source : Source
  origin : Nat
  selector : Selector
  level : Nat
  frame : Bool
  deriving DecidableEq, Repr

/-- The purpose of a resolution (R11). -/
inductive Purpose where
  | fire (start : Start)
  | prime
  | probe
  deriving DecidableEq, Repr

/-- What the resolver is waiting for (R11). CHECKING reads no memory and ends within its own event. -/
inductive Phase where
  | readingDescriptor | readingCue
  deriving DecidableEq, Repr

/-- The resolution record (R11). `leader` is the leading voice and claim number of a follow-on (R55); `clipLength` is
the stored clip length of the SOUND record read (R19). -/
structure Resolution where
  source : Source
  origin : Nat
  tag : Half
  purpose : Purpose
  entry : Selector
  current : Selector
  direct : Bool
  level : Nat
  offset : Int
  hops : Nat
  lastDescriptor : Option Descriptor
  lastCue : Option CueKind
  clipLength : Nat
  phase : Phase
  leader : Option (Fin 24 × Half)
  deriving DecidableEq, Repr

/-- The Cue Resolver (R6, R11, R54, R58). -/
structure Resolver where
  vars : Vector Half 32
  live : BitVec 64
  follows : List FollowOn
  lines : List LineFire
  current : Option Resolution
  deriving DecidableEq, Repr

/-! ### Voice Array (chapter 05) -/

/-- A claim request (R62). -/
structure ClaimRequest where
  cue : ResolvedCue
  source : Source
  origin : Nat
  tag : Half
  start : Start
  lateMark : Option Word
  leader : Option (Fin 24 × Half)
  deriving DecidableEq, Repr

/-- A claim a voice took (R67): the request, its claim number, its claim time and how the voice was obtained. -/
structure Claim where
  req : ClaimRequest
  number : Half
  time : Time
  obtained : Obtained
  deriving DecidableEq, Repr

/-- A claim that has not sounded, with its pending start and late mark (R69). -/
structure Incoming where
  claim : Claim
  start : Start
  lateMark : Option Word
  deriving DecidableEq, Repr

/-- A fade record (R77): a fade-in count, or a release. -/
inductive Fade where
  | fadeIn (count : Nat)
  | release (start : Int) (length elapsed : Nat)
  deriving DecidableEq, Repr

/-- What the FIRED report of an entry is followed by (R69, R82): the late mark of the claim, and the lateness in samples
of an EXACT start entered after its end sample. -/
structure Lateness where
  mark : Option Word
  samples : Option Nat
  deriving DecidableEq, Repr

/-- A cue that plays: the current cue of a SOUNDING or RELEASING voice or the outgoing cue of a HANDOVER voice (R77).
`endReason` absent is the NONE of R84; `fromNext` is set from an entry whose first sample is the next one (R69, R72)
until that sample comes, and `entry` is present while the effects of that entry (R82) are still to come (log entry 15).
`quiet` marks a cue cut at entry into FAILED, which reaches IDLE without reports (R40, log entry 53). -/
structure Playing where
  claim : Claim
  position : Nat
  loopActive : Bool
  fade : Fade
  endReason : Option EndReason
  followPlaced : Bool
  underrun : Bool
  fromNext : Bool
  entry : Option Lateness
  quiet : Bool
  deriving DecidableEq, Repr

/-- The state of a voice with what R77 gives it in that state. In HANDOVER, `landed` is the head landed flag. -/
inductive Content where
  | idle
  | priming (i : Incoming)
  | armed (i : Incoming)
  | sounding (p : Playing)
  | releasing (p : Playing)
  | handover (p : Playing) (i : Incoming) (landed : Bool)
  deriving DecidableEq, Repr

/-- One sample frame in a buffer: its index in the clip and its two channels as signed 24-bit samples (R152). -/
structure Frame where
  index : Nat
  left : Audio
  right : Audio
  deriving DecidableEq, Repr

/-- A voice record (R77) with its buffers and fetch record (chapter 08 section 8.3). `refillFailed` is set by a refill's
memory error and keeps further refills for that feeding claim number from being placed (R145). -/
structure Voice where
  claimNo : Half
  content : Content
  lastEnd : Option (Half × Bool)
  head : List Frame
  stream : List Frame
  fetchPosition : Nat
  feeding : Option Half
  refillPending : Bool
  refillFailed : Bool
  deriving DecidableEq, Repr

/-- A voice after reset (R103). -/
def Voice.reset : Voice :=
  { claimNo := 0, content := .idle, lastEnd := none, head := [], stream := [], fetchPosition := 0,
    feeding := none, refillPending := false, refillFailed := false }

/-! ### Fire Schedule (chapter 06) -/

/-- An entry of the schedule (R105). -/
structure Entry where
  target : Word
  cue : ResolvedCue
  tag : Half
  origin : Nat
  deriving DecidableEq, Repr

/-- A schedule link (R109). -/
structure Link where
  claim : Half
  tag : Half
  target : Word
  deriving DecidableEq, Repr

/-- The Fire Schedule (R105, R109). -/
structure Schedule where
  entries : List Entry
  links : Vector (Option Link) 24
  deriving DecidableEq, Repr

/-! ### Trigger Unit (chapter 07) -/

/-- A qualifier (R119): the qualified level, the level seen at the last sample, the candidate count, and whether the
count reached the qualify count at this sample and the edge is still to be taken. -/
structure Qualifier where
  level : Bool
  seen : Bool
  count : Nat
  due : Bool
  deriving DecidableEq, Repr

/-- Edges a rule matches (R124); the stored value 3 is read as BOTH. -/
inductive RuleEdge where
  | assert | deassert | both
  deriving DecidableEq, Repr

/-- Rule actions with their arguments (R124, R128). -/
inductive RuleAction where
  | fire (selector : Selector)
  | releaseGroup (group : Nat)
  | cutLast
  | varAdd (var : Nat) (amount : Half)
  | varSet (var : Nat) (amount : Half)
  | reopen (mask : BitVec 8)
  deriving DecidableEq, Repr

/-- A rule of the rule store (R124); an invalid action is `none`. Group `g` of the manual is index `g - 1`. -/
structure Rule where
  initiallyArmed : Bool
  sources : BitVec 16
  edge : RuleEdge
  guardCond : Option Condition
  group : Option (Fin 8)
  action : Option RuleAction
  level : Nat
  frame : Bool
  continues : Bool
  deriving DecidableEq, Repr

/-- The winner of a CLOSED arrival group (R126). -/
structure Winner where
  line : Fin 16
  sample : Time
  rule : Nat
  deriving DecidableEq, Repr

/-- A line event or key event (R122): `up` is ASSERT or a press. -/
inductive Event where
  | line (n : Fin 16) (up : Bool) (at_ : Time)
  | key (n : Fin 8) (up : Bool) (at_ : Time)
  deriving DecidableEq, Repr

/-- An entry of the key map (R133). -/
structure KeyEntry where
  selector : Selector
  holdToPlay : Bool
  deriving DecidableEq, Repr

/-- The Trigger Unit (R119 to R137). `groups` holds `none` for OPEN; `queueTaken` says that this sample's queued event
has been taken (R123). -/
structure Trigger where
  lines : Vector Qualifier 16
  keys : Vector Qualifier 8
  qualify : Vector Nat 16
  rules : List Rule
  armed : BitVec 64
  groups : Vector (Option Winner) 8
  keyMap : Vector KeyEntry 8
  holdLinks : Vector (Option (Fin 24 × Half)) 8
  queue : List Event
  queueTaken : Bool
  deriving DecidableEq, Repr

/-! ### Memory Port and Fetch Unit (chapter 08) -/

/-- What a job is for, with its owner (R138). -/
inductive JobKind where
  | header
  | busyClear (count : Nat)
  | startWrittenTo
  | slateRead (slot : Nat)
  | takenWrite (slot : Nat)
  | completionWrite (slot : Nat)
  | descriptor (owner : Nat)
  | cue (owner : Nat)
  | head (voice : Fin 24) (claim : Half)
  | refill (voice : Fin 24) (claim : Half) (first frames : Nat) (voided : Bool)
  | pin (slot : Nat)
  | sceneRecord (scene : Nat)
  | ruleTable (scene : Nat)
  | busyWrite (scene : Nat) (value : Bool)
  | returnedTo
  | writtenTo
  | mirror
  | reportRecord (index : Nat)
  | faultRecord
  deriving DecidableEq, Repr

/-- A memory job (R138): a read has no data; `length` is its byte count. -/
structure Job where
  kind : JobKind
  address : Nat
  length : Nat
  data : List Byte
  deriving DecidableEq, Repr

/-- The memory port: the job in flight, whether a warm reset has left its completion to be discarded, and one queue for
each client class (R138, R139). -/
structure Port where
  inFlight : Option Job
  discard : Bool
  refill : List Job
  resolver : List Job
  house : List Job
  head : List Job
  scene : List Job
  pin : List Job
  deriving DecidableEq, Repr

/-- The state of a head cache entry (R147). -/
inductive CacheState where
  | pending (slot : Nat) (dropping : Bool)
  | present (frames : List Frame)
  deriving DecidableEq, Repr

/-- A head cache entry (R147). -/
structure CacheEntry where
  address : Word
  format : ClipFormat
  state : CacheState
  deriving DecidableEq, Repr

/-! ### Mix Engine (chapter 09) -/

/-- A duck group (R155). `due` is set at the sample at which the sub-counter reaches its interval (R157). -/
structure Duck where
  depth : Nat
  attack : Nat
  recovery : Nat
  keyLine : Option (Fin 16)
  keying : BitVec 24
  keyed : Bool
  offset : Int
  sub : Nat
  due : Bool
  deriving DecidableEq, Repr

/-- A duck group after reset (R155). -/
def Duck.reset : Duck :=
  { depth := 0, attack := 1, recovery := 1, keyLine := none, keying := 0, keyed := false, offset := 0,
    sub := 0, due := false }

/-- A bus (R159 to R162): trim, clip flag, clip count, peak, and the sample its two sides last sent. -/
structure Bus where
  trim : Int
  clipFlag : Bool
  clipCount : Nat
  peak : Nat
  left : Int
  right : Int
  deriving DecidableEq, Repr

/-- A bus after reset (R164). -/
def Bus.reset : Bus := { trim := 0, clipFlag := false, clipCount := 0, peak := 0, left := 0, right := 0 }

/-- The Mix Engine (R155, R160, R161, R162). -/
structure Mix where
  buses : Vector Bus 4
  ducks : Vector Duck 4
  meterInterval : Nat
  meterCount : Nat
  deriving DecidableEq, Repr

/-! ### Run Control and Line Unit (chapter 10) -/

/-- The settings a scene gives a duck group (R49). -/
structure DuckSetting where
  depth : Nat
  attack : Nat
  recovery : Nat
  keyLine : Option (Fin 16)
  deriving DecidableEq, Repr

/-- A scene record as read, clamps applied (R49). -/
structure SceneRecord where
  present : Bool
  busy : Bool
  ruleCount : Nat
  ruleTable : Nat
  live : BitVec 64
  trims : Vector Int 4
  ducks : Vector DuckSetting 4
  keyMap : Vector KeyEntry 8
  presetMask : BitVec 32
  qualify : Vector Nat 16
  presets : Vector Half 32
  deriving DecidableEq, Repr

/-- Phases of a scene switch (R171). -/
inductive SwitchPhase where
  | loading | marking
  deriving DecidableEq, Repr

/-- The switch record (R171): `slot` absent is the mark of the initial load of STARTING. `rules` is the number of rules
put in force, for the result detail (R174). -/
structure Switch where
  target : Nat
  previous : Option Nat
  slot : Option Nat
  tag : Half
  phase : SwitchPhase
  rules : Nat
  deriving DecidableEq, Repr

/-- Run Control (R166, R171). `staging` holds the scene record of a switch whose rule table is still to come; the rules
join it and are put in force in one event. -/
structure RunControl where
  hold : HoldState
  release : Option HoldRelease
  current : Option Nat
  switch : Option Switch
  staging : Option SceneRecord
  deriving DecidableEq, Repr

/-- The Line Unit (R176). `pulled` holds the wires external equipment pulls, as last sampled: a sensed level is that or
the part's own pull. -/
structure Tally where
  latch : BitVec 16
  enabled : Bool
  pulled : BitVec 16
  deriving DecidableEq, Repr

/-! ### Report Unit and Fault Capture (chapter 11) -/

/-- Report kinds (R52). -/
inductive ReportKind where
  | fired | ended | stolen | late | missed | underrun | refused | triggerDropped | won | lockedOut
  | holdEntered | holdReleased | refState | followCancelled | cancelled | memoryFault | meter | clip
  deriving DecidableEq, Repr

/-- A report (R52): `detail` holds the bytes from offset 12 on, the rest of the record being 0. -/
structure Report where
  kind : ReportKind
  voice : Byte
  tag : Half
  selector : Selector
  time : Word
  detail : List Byte
  deriving DecidableEq, Repr

/-- The Report Unit (R179). -/
structure ReportUnit where
  writtenTo : Nat
  returnedTo : Nat
  holdList : List Report
  backPressure : Bool
  drops : Nat
  lost : Nat
  deriving DecidableEq, Repr

/-- Sources of the fault capture record (R183). -/
inductive FaultSource where
  | resolver | fetch | slate | scene | pin | report
  deriving DecidableEq, Repr

/-- Kinds of the fault capture record (R183). -/
inductive FaultKind where
  | read | write | reportOverflow
  deriving DecidableEq, Repr

/-- The captured fault (R183). -/
structure FaultRecord where
  source : FaultSource
  kind : FaultKind
  address : Word
  detail : Word
  deriving DecidableEq, Repr

/-- Fault Capture (R183): the record, absent while not valid, and the further-fault count. -/
structure FaultCapture where
  record : Option FaultRecord
  further : Nat
  deriving DecidableEq, Repr

/-! ### The state -/

/-- The whole state: the twelve blocks, show memory in canonical form, the counter of free values (the model's own,
log entry 2) and the queue of waiting commands, oldest first. -/
structure State where
  clock : Clock
  regs : Registers
  slate : SlateUnit
  resolver : Resolver
  voices : Vector Voice 24
  startOrder : List (Fin 24)
  schedule : Schedule
  trigger : Trigger
  port : Port
  cache : List CacheEntry
  mix : Mix
  run : RunControl
  tally : Tally
  reports : ReportUnit
  fault : FaultCapture
  mem : List Host.Cell
  free : Nat
  pending : List Instr
  deriving DecidableEq, Repr

/-- Reasons for the part to stop with a fault: none. Every command of the table has its effect in every state; a
memory error, a refused request and a fatal write are effects on the state (R37, R146, R185), not stops. -/
inductive Fault where
  deriving DecidableEq, Repr

/-- Reasons for a command to be refused. -/
inductive Refusal where
  /-- Raised by exec's arm for a command that has no meaning yet; no arm raises it. Safe: the model stops. -/
  | notModelled (mnemonic : String)
  deriving DecidableEq, Repr

/-! ### Cold reset -/

/-- The Frame Clock after cold reset (R34). -/
def Clock.reset : Clock :=
  { showTime := 0, frame := 0, rate := 1, epoch := 0, k := 0, lock := .seeking, stray := 0, missing := 0,
    held := false, lastHeld := false, lastOpen := false, refSeen := false, refEdge := false,
    boundary := none }

/-- The registers after cold reset (R35, R36). -/
def Registers.reset : Registers :=
  { headerBase := 0, run := false, enables := 0, flags := 0, part := .stopped, startFault := .none }

/-- The Slate Unit after a reset (R41). -/
def SlateUnit.reset : SlateUnit :=
  { header := none, scan := none, scanWaiting := false, queue := [], held := [], mirrorWaiting := none }

/-- A qualifier after a reset, its input last seen at `seen` (R121). -/
def Qualifier.reset (seen : Bool) : Qualifier := { level := false, seen := seen, count := 0, due := false }

/-- The Trigger Unit after a reset with every input last seen DEASSERTED (R137). -/
def Trigger.reset : Trigger :=
  { lines := Vector.replicate 16 (Qualifier.reset false), keys := Vector.replicate 8 (Qualifier.reset false),
    qualify := Vector.replicate 16 96, rules := [], armed := 0, groups := Vector.replicate 8 none,
    keyMap := Vector.replicate 8 { selector := Selector.null, holdToPlay := false },
    holdLinks := Vector.replicate 8 none, queue := [], queueTaken := false }

/-- The memory port after cold reset (R138). -/
def Port.reset : Port :=
  { inFlight := none, discard := false, refill := [], resolver := [], house := [], head := [], scene := [], pin := [] }

/-- The Mix Engine after a reset (R164). -/
def Mix.reset : Mix :=
  { buses := Vector.replicate 4 Bus.reset, ducks := Vector.replicate 4 Duck.reset, meterInterval := 0, meterCount := 0 }

/-- Run Control after a reset (R166, R171). -/
def RunControl.reset : RunControl :=
  { hold := .none, release := none, current := none, switch := none, staging := none }

/-- The Report Unit after a reset (R179). -/
def ReportUnit.reset : ReportUnit :=
  { writtenTo := 0, returnedTo := 0, holdList := [], backPressure := false, drops := 0, lost := 0 }

/-- Fault Capture after a reset (R183). -/
def FaultCapture.reset : FaultCapture := { record := none, further := 0 }

/-- The Fire Schedule after a reset (R118). -/
def Schedule.reset : Schedule := { entries := [], links := Vector.replicate 24 none }

/-- The Cue Resolver after cold reset (R11, R54, R58, R171). -/
def Resolver.reset : Resolver :=
  { vars := Vector.replicate 32 0, live := 0, follows := [], lines := [], current := none }

/-- The whole part right after cold reset, with show memory listing nothing, no wire pulled from outside and no
command waiting. -/
def State.reset : State :=
  { clock := Clock.reset, regs := Registers.reset, slate := SlateUnit.reset, resolver := Resolver.reset,
    voices := Vector.replicate 24 Voice.reset, startOrder := [], schedule := Schedule.reset, trigger := Trigger.reset,
    port := Port.reset, cache := [], mix := Mix.reset, run := RunControl.reset,
    tally := { latch := 0, enabled := false, pulled := 0 }, reports := ReportUnit.reset, fault := FaultCapture.reset,
    mem := [], free := 0, pending := [] }

end Sys2Proof.Machine
end

