-- ==== Sys2Proof/Machine/Operands.lean ====
section
/-! DEFINITION. Every byte layout of the manual that the part reads or writes (R46 to R53), as functions between lists
of bytes and the records of State.lean. -/

namespace Sys2Proof.Machine

/-! ### Little-endian fields (chapter 00 section 5.5) -/

/-- The number a little-endian run of bytes spells. -/
def ofBytes : List Byte → Nat
  | [] => 0
  | b :: bs => b.toNat + 256 * ofBytes bs

/-- `k` bytes of `n`, least significant first. -/
def toBytes : Nat → Nat → List Byte
  | 0, _ => []
  | k + 1, n => BitVec.ofNat 8 n :: toBytes k (n / 256)

/-- The field of `len` bytes at `off`. -/
def field (bs : List Byte) (off len : Nat) : Nat := ofBytes ((bs.drop off).take len)

/-- Bits `lo` to `lo + w - 1` of `n`. -/
def bits (n lo w : Nat) : Nat := n / 2 ^ lo % 2 ^ w

/-- A number of `w` bits read as two's complement. -/
def signed (w n : Nat) : Int := if n < 2 ^ (w - 1) then (n : Int) else (n : Int) - 2 ^ w

/-- The low `8 * k` bits of a signed number, as bytes in two's complement. -/
def signedBytes (k : Nat) (x : Int) : List Byte := toBytes k (x % 2 ^ (8 * k)).toNat

/-- A level code clamped into its range (chapter 00 section 5.2). -/
def clampLevel (x : Int) : Int := clamp (-256) 16 x

/-- A level offset clamped into its range (R10, R60). -/
def clampOffset (x : Int) : Int := clamp (-64) 16 x

/-- A list of bytes brought to length `n`: cut, or filled with 0 (bytes a layout does not name are written as 0). -/
def pad (n : Nat) (bs : List Byte) : List Byte := (bs ++ List.replicate n 0).take n

/-! ### Selectors and cue records -/

/-- A selector as 16 bits: cue index 7:0, sheet index 13:8, asserted level 15:14 (R47). -/
def Selector.ofNat (n : Nat) : Selector :=
  { sheet := BitVec.ofNat 6 (bits n 8 6), cue := BitVec.ofNat 8 (bits n 0 8), level := BitVec.ofNat 2 (bits n 14 2) }

/-- The 16 bits of a selector (R47). -/
def Selector.toNat (s : Selector) : Nat := s.cue.toNat + 256 * s.sheet.toNat + 16384 * s.level.toNat

/-- A null selector: sheet index 0, whatever the other fields hold (R1). -/
def Selector.isNull (s : Selector) : Bool := s.sheet == 0

/-- The level a selector asserts (R1, R4): the fields of a null selector are not used. -/
def Selector.asserted (s : Selector) : Nat := if s.isNull then 0 else s.level.toNat

/-- A sheet descriptor (R47); the sheet base has its low five bits taken as 0 (R2). -/
def decodeDescriptor (bs : List Byte) : Descriptor :=
  let b0 := field bs 0 1
  { present := b0.testBit 0
    kind := match bits b0 1 2 with
      | 0 => .play
      | 1 => .library
      | _ => .invalid
    rights := bits b0 3 2
    count := field bs 1 1 + 1
    base := field bs 4 4 / 32 * 32 }

/-- A clip format byte (R48, R50). -/
def decodeFormat : Nat → Option ClipFormat
  | 0 => some .m16
  | 1 => some .s16
  | 2 => some .m24
  | 3 => some .s24
  | _ => none

/-- A comparison field (R48, R49). -/
def decodeComparison : Nat → Comparison
  | 0 => .eq
  | 1 => .ne
  | 2 => .ge
  | _ => .lt

/-- A condition or guard from its variable-and-comparison byte and its value (R48, R49). -/
def decodeCondition (b value : Nat) : Condition :=
  { var := ⟨b % 32, Nat.mod_lt _ (by decide)⟩, cmp := decodeComparison (bits b 6 2), value := BitVec.ofNat 16 value }

/-- The duck role byte (R48): absent when the role is invalid, a KEY role with an empty mask included (R9). -/
def decodeDuckRole (b : Nat) : Option DuckRole :=
  match bits b 0 2 with
  | 0 => some .none
  | 1 => if bits b 2 4 = 0 then none else some (.key (BitVec.ofNat 4 (bits b 2 4)))
  | 2 => some (.member ⟨bits b 2 2 % 4, Nat.mod_lt _ (by decide)⟩)
  | _ => none

/-- A loop field, valid or not (R8). -/
def decodeLoop (present : Bool) (start stop : Nat) : Option Loop :=
  if present then some { start := start, stop := stop } else none

/-- A loop is valid when its start is below its end and its end no greater than the clip length (R9). -/
def loopValid (length : Nat) : Option Loop → Bool
  | none => true
  | some l => decide (l.start < l.stop) && decide (l.stop ≤ length)

/-- A SOUND record (R48), or `badSound` when R9 calls it malformed. -/
def decodeSound (bs : List Byte) : CueRecord :=
  let flags := field bs 2 1
  let length := field bs 8 3
  let loop := decodeLoop (flags.testBit 0) (field bs 12 3) (field bs 16 3)
  match decodeFormat (field bs 1 1), decodeDuckRole (field bs 15 1) with
  | some format, some duck =>
    if length = 0 || !loopValid length loop || field bs 4 4 % 4 ≠ 0 then .badSound length
    else .sound
      { clip := BitVec.ofNat 32 (field bs 4 4), format := format, length := length, loop := loop
        level := clampLevel (signed 16 (field bs 20 2))
        fadeIn := field bs 22 2, fadeOut := field bs 24 2
        priority := bits (field bs 3 1) 0 3, group := bits (field bs 3 1) 4 4
        duck := duck, buses := BitVec.ofNat 4 (bits (field bs 19 1) 0 4)
        retrigger := match bits flags 4 2 with
          | 1 => .restart
          | 2 => .ignore
          | _ => .layer
        armOnly := flags.testBit 3
        condition := if flags.testBit 1 then some (decodeCondition (field bs 28 1) (field bs 30 2)) else none
        lateAllowance := bits (field bs 11 1) 0 4
        follow := Selector.ofNat (field bs 26 2)
        tally := if flags.testBit 2 then some ⟨bits (field bs 11 1) 4 4 % 16, Nat.mod_lt _ (by decide)⟩ else none }
  | _, _ => .badSound length

/-- A cue record (R7, R48): the kind is decided first. -/
def decodeCue (bs : List Byte) : CueRecord :=
  match field bs 0 1 with
  | 0 => .empty
  | 1 => decodeSound bs
  | 2 => .link
      { target := Selector.ofNat (field bs 2 2), carry := bits (field bs 1 1) 0 2
        offset := clampOffset (signed 16 (field bs 4 2)) }
  | _ => .invalid

/-- The kind of a cue record (R7). -/
def CueRecord.kind : CueRecord → CueKind
  | .empty => .empty
  | .invalid => .invalid
  | .link _ => .link
  | .sound _ => .sound
  | .badSound _ => .sound

/-- The clip length of a cue record as stored; 0 when the kind is not SOUND (R19). -/
def CueRecord.storedLength : CueRecord → Nat
  | .sound c => c.length
  | .badSound n => n
  | _ => 0

/-! ### Clips (R8, R138, R152) -/

/-- Bytes of one sample frame (R8). -/
def ClipFormat.size : ClipFormat → Nat
  | .m16 => 2
  | .s16 => 4
  | .m24 => 3
  | .s24 => 6

/-- A stored 16-bit sample as a signed 24-bit one: times 256 (R152). -/
def sample16 (bs : List Byte) (off : Nat) : Audio := BitVec.ofNat 24 (256 * field bs off 2)

/-- A stored 24-bit sample. -/
def sample24 (bs : List Byte) (off : Nat) : Audio := BitVec.ofNat 24 (field bs off 3)

/-- One sample frame: a mono sample feeds both sides; a stereo frame is taken as left then right (log entry 3). -/
def decodeFrame (f : ClipFormat) (index : Nat) (bs : List Byte) : Frame :=
  match f with
  | .m16 => { index := index, left := sample16 bs 0, right := sample16 bs 0 }
  | .s16 => { index := index, left := sample16 bs 0, right := sample16 bs 2 }
  | .m24 => { index := index, left := sample24 bs 0, right := sample24 bs 0 }
  | .s24 => { index := index, left := sample24 bs 0, right := sample24 bs 3 }

/-- `n` consecutive sample frames from clip frame `first` on. -/
def decodeFrames (f : ClipFormat) : Nat → Nat → List Byte → List Frame
  | 0, _, _ => []
  | n + 1, first, bs => decodeFrame f first bs :: decodeFrames f n (first + 1) (bs.drop f.size)

/-! ### Scenes and rules (R49) -/

/-- The duck settings of one group: six bytes at `off` (R49). -/
def decodeDuckSetting (bs : List Byte) (off : Nat) : DuckSetting :=
  let keyByte := field bs (off + 4) 1
  { depth := min (field bs off 1) 96
    attack := max (field bs (off + 1) 1) 1
    recovery := max 1 (min (field bs (off + 2) 2) 4095)
    keyLine := if keyByte.testBit 7 then some ⟨keyByte % 16, Nat.mod_lt _ (by decide)⟩ else none }

/-- A scene record of 160 bytes (R49). The busy flag is a whole byte of which the part writes 0 or 1; any other value but 0
is read as set (DESIGN CHOICE, log entry 61). -/
def decodeScene (bs : List Byte) : SceneRecord :=
  { present := (field bs 0 1).testBit 0
    busy := field bs 1 1 != 0
    ruleCount := min (field bs 2 1) 64
    ruleTable := field bs 4 4 / 16 * 16
    live := BitVec.ofNat 64 (field bs 8 8)
    trims := Vector.ofFn fun i : Fin 4 => clampLevel (signed 16 (field bs (16 + 2 * i.val) 2))
    ducks := Vector.ofFn fun i : Fin 4 => decodeDuckSetting bs (24 + 6 * i.val)
    keyMap := Vector.ofFn fun i : Fin 8 =>
      { selector := Selector.ofNat (field bs (48 + 2 * i.val) 2), holdToPlay := (field bs 64 1).testBit i.val }
    presetMask := BitVec.ofNat 32 (field bs 68 4)
    qualify := Vector.ofFn fun i : Fin 16 => max 2 (min (field bs (72 + i.val) 1) 250)
    presets := Vector.ofFn fun i : Fin 32 => BitVec.ofNat 16 (field bs (88 + 2 * i.val) 2) }

/-- The action of a rule with its argument bytes (R49); any other action value is invalid. -/
def decodeAction (bs : List Byte) : Option RuleAction :=
  match field bs 1 1 with
  | 0 => some (.fire (Selector.ofNat (field bs 8 2)))
  | 1 => some (.releaseGroup (field bs 8 1))
  | 2 => some .cutLast
  | 3 => some (.varAdd (field bs 8 1) (BitVec.ofNat 16 (field bs 10 2)))
  | 4 => some (.varSet (field bs 8 1) (BitVec.ofNat 16 (field bs 10 2)))
  | 5 => some (.reopen (BitVec.ofNat 8 (field bs 8 1)))
  | _ => none

/-- The arrival group field: 0 and 9 to 15 are no group (R49). -/
def decodeArrivalGroup (n : Nat) : Option (Fin 8) :=
  if h : 1 ≤ n ∧ n ≤ 8 then some ⟨n - 1, by omega⟩ else none

/-- A rule record of 16 bytes (R49). -/
def decodeRule (bs : List Byte) : Rule :=
  let b0 := field bs 0 1
  { initiallyArmed := b0.testBit 0
    sources := BitVec.ofNat 16 (field bs 2 2)
    edge := match bits b0 1 2 with
      | 0 => .assert
      | 1 => .deassert
      | _ => .both
    guardCond := if b0.testBit 3 then some (decodeCondition (field bs 5 1) (field bs 6 2)) else none
    group := decodeArrivalGroup (bits (field bs 4 1) 0 4)
    action := decodeAction bs
    level := max 1 (bits (field bs 4 1) 4 2)
    frame := b0.testBit 5
    continues := b0.testBit 4 }

/-- `n` rule records, one after the other. -/
def decodeRules : Nat → List Byte → List Rule
  | 0, _ => []
  | n + 1, bs => decodeRule bs :: decodeRules n (bs.drop 16)

/-! ### The show header (R52) -/

/-- The host's fields of the show header at `base` (R52). -/
def decodeHeader (base : Nat) (bs : List Byte) : Header :=
  { base := base, version := field bs 0 2, rate := field bs 2 1, initialScene := field bs 3 1
    directory := field bs 4 4, directoryCount := field bs 8 1, sceneCount := field bs 9 1
    slotCount := field bs 10 1, meterInterval := field bs 11 1, sceneTable := field bs 12 4
    slate := field bs 16 4, strip := field bs 20 4, reportCount := field bs 24 2
    reserve := field bs 26 2, returnedTo := field bs 28 2 }

/-- The checks 2 to 5 of R38 in their order: the start fault code of the first that fails. -/
def Header.check (h : Header) : Option StartFault :=
  if h.version ≠ Config.layoutVersion then some .hdrVersion
  else if !(1 ≤ h.directoryCount && h.directoryCount ≤ 64 && 1 ≤ h.sceneCount && h.sceneCount ≤ 16
      && 1 ≤ h.slotCount && h.slotCount ≤ 64 && 16 ≤ h.reportCount && h.reportCount ≤ 4096
      && h.reserve ≤ h.reportCount - 1 && h.rate ≤ 6 && h.returnedTo ≤ h.reportCount - 1) then some .hdrRange
  else if h.directory % 8 ≠ 0 || h.sceneTable % 32 ≠ 0 || h.slate % 32 ≠ 0 || h.strip % 16 ≠ 0 then some .hdrAlign
  else if h.sceneCount ≤ h.initialScene then some .sceneInitial
  else none

/-! ### Request slots (R50) -/

/-- A hold depth of a HOLD request (R50). -/
inductive Depth where
  | light | deep
  deriving DecidableEq, Repr

/-- The operation of SET VAR (R59). -/
inductive VarOp where
  | set | add | sub
  deriving DecidableEq, Repr

/-- The requests with their arguments (R50), index ranges not yet tested (R43). -/
inductive Request where
  | fire (selector : Selector) (offset : Int) (start : Start)
  | prime (selector : Selector) (offset : Int)
  | go (voice : Nat) (frame : Bool)
  | setVar (var : Nat) (op : VarOp) (value : Half)
  | probe (selector : Selector)
  | release (voice : Nat) (useFadeOut : Bool) (length : Nat)
  | cut (voice : Nat)
  | cutLast
  | unloop (voice : Nat)
  | releaseGroup (group : Nat)
  | cancel (tag : Half)
  | armRules (mask : BitVec 64)
  | disarmRules (mask : BitVec 64)
  | reopen (mask : BitVec 8)
  | pin (address : Word) (format : ClipFormat)
  | unpin (address : Word) (format : ClipFormat)
  | trim (bus : Nat) (level : Int)
  | hold (depth : Depth) (line : Option Nat)
  | resume
  | scene (index : Nat)
  | linesWrite (mask values : BitVec 16)
  | linesModify (set clear : BitVec 16)
  | setRate (code : Nat)
  | ackFault
  deriving DecidableEq, Repr

/-- The kind byte of a slot (R50). -/
def requestKind (bs : List Byte) : Nat := field bs 2 1

/-- The asserted level of a slot (R50). -/
def slotLevel (bs : List Byte) : Nat := bits (field bs 3 1) 0 2

/-- The tag of a slot (R50). -/
def slotTag (bs : List Byte) : Half := BitVec.ofNat 16 (field bs 4 2)

/-- PIN and UNPIN's format argument, which has no meaning above 3 (R50). -/
def decodePin (bs : List Byte) (k : Word → ClipFormat → Request) : Except ResultCode Request :=
  match decodeFormat (field bs 12 1) with
  | some f => .ok (k (BitVec.ofNat 32 (field bs 8 4)) f)
  | none => .error .badArg

/-- FIRE's alignment argument (R50). -/
def decodeAlignment (bs : List Byte) : Option Start :=
  match field bs 10 1 with
  | 0 => some .immediate
  | 1 => some .frame
  | 2 => some (.atFrame (BitVec.ofNat 32 (field bs 12 4)) false)
  | _ => none

/-- SET VAR's operation argument (R50). -/
def decodeVarOp : Nat → Option VarOp
  | 0 => some .set
  | 1 => some .add
  | 2 => some .sub
  | _ => none

/-- HOLD's depth and release arguments (R50). -/
def decodeHold (bs : List Byte) : Except ResultCode Request :=
  let line : Except ResultCode (Option Nat) :=
    match field bs 9 1 with
    | 0 => .ok none
    | 1 => .ok (some (field bs 10 1))
    | _ => .error .badArg
  match field bs 8 1, line with
  | 1, .ok l => .ok (.hold .light l)
  | 2, .ok l => .ok (.hold .deep l)
  | _, _ => .error .badArg

/-- The decoding of a request (R43, R50): a kind that names no request gives UNKNOWN_KIND, an argument value without
meaning BAD_ARG. -/
def decodeRequest (bs : List Byte) : Except ResultCode Request :=
  let selector := Selector.ofNat (field bs 8 2)
  let offset := clampOffset (signed 8 (field bs 11 1))
  let b8 := field bs 8 1
  match requestKind bs with
  | 1 => match decodeAlignment bs with
    | some a => .ok (.fire selector offset a)
    | none => .error .badArg
  | 2 => .ok (.prime selector offset)
  | 3 => match field bs 10 1 with
    | 0 => .ok (.go b8 false)
    | 1 => .ok (.go b8 true)
    | _ => .error .badArg
  | 4 => match decodeVarOp (field bs 9 1) with
    | some op => .ok (.setVar b8 op (BitVec.ofNat 16 (field bs 10 2)))
    | none => .error .badArg
  | 5 => .ok (.probe selector)
  | 6 => .ok (.release b8 ((field bs 9 1).testBit 0) (field bs 10 2))
  | 7 => .ok (.cut b8)
  | 8 => .ok .cutLast
  | 9 => .ok (.unloop b8)
  | 10 => .ok (.releaseGroup b8)
  | 11 => .ok (.cancel (BitVec.ofNat 16 (field bs 8 2)))
  | 12 => .ok (.armRules (BitVec.ofNat 64 (field bs 8 8)))
  | 13 => .ok (.disarmRules (BitVec.ofNat 64 (field bs 8 8)))
  | 14 => .ok (.reopen (BitVec.ofNat 8 b8))
  | 15 => decodePin bs .pin
  | 16 => decodePin bs .unpin
  | 17 => .ok (.trim b8 (clampLevel (signed 16 (field bs 10 2))))
  | 18 => decodeHold bs
  | 19 => .ok .resume
  | 20 => .ok (.scene b8)
  | 21 => .ok (.linesWrite (BitVec.ofNat 16 (field bs 8 2)) (BitVec.ofNat 16 (field bs 10 2)))
  | 22 => .ok (.linesModify (BitVec.ofNat 16 (field bs 8 2)) (BitVec.ofNat 16 (field bs 10 2)))
  | 23 => if b8 ≤ 7 then .ok (.setRate b8) else .error .badArg
  | 24 => .ok .ackFault
  | _ => .error .unknownKind

/-! ### What the part writes (R44, R51, R52, R53) -/

/-- The numeric value of a result code (chapter 03 section 3.4). -/
def ResultCode.code : ResultCode → Nat
  | .ok => 0 | .queued => 1 | .condFalse => 2 | .already => 3 | .busy => 4 | .held => 5 | .noVoice => 6
  | .nullRef => 7 | .limit => 8 | .notPresent => 9 | .type => 10 | .rights => 11 | .notLive => 12 | .badCue => 13
  | .linkDepth => 14 | .scheduleFull => 15 | .missed => 16 | .badState => 17 | .badArg => 18 | .cacheFull => 19
  | .notEntered => 20 | .memoryError => 21 | .unknownKind => 22 | .abandoned => 23

/-- A completion write's 32 bytes (R44): the slot as taken, the state word DONE, the result code and the detail. -/
def completionBytes (bs : List Byte) (r : ResultCode) (detail : List Byte) : List Byte :=
  pad 32 (toBytes 2 3 ++ ((pad 32 bs).drop 2).take 4 ++ toBytes 2 r.code ++ ((pad 32 bs).drop 8).take 16 ++ pad 8 detail)

/-- The kind code of a report (R52). -/
def ReportKind.code : ReportKind → Nat
  | .fired => 1 | .ended => 2 | .stolen => 3 | .late => 4 | .missed => 5 | .underrun => 6 | .refused => 7
  | .triggerDropped => 8 | .won => 9 | .lockedOut => 10 | .holdEntered => 11 | .holdReleased => 12 | .refState => 13
  | .followCancelled => 14 | .cancelled => 15 | .memoryFault => 16 | .meter => 17 | .clip => 18

/-- The class of a report (R180): METER and CLIP are incidental, every other kind essential. -/
def ReportKind.essential : ReportKind → Bool
  | .meter => false
  | .clip => false
  | _ => true

/-- The 32 bytes of a report record (R52). -/
def Report.bytes (r : Report) : List Byte :=
  pad 32 (toBytes 1 r.kind.code ++ [r.voice] ++ toBytes 2 r.tag.toNat ++ toBytes 2 r.selector.toNat ++ toBytes 2 0
    ++ toBytes 4 r.time.toNat ++ r.detail)

/-- The codes of R51 and R53, each as one byte. -/
def PartState.code : PartState → Nat
  | .stopped => 0 | .starting => 1 | .running => 2 | .stopping => 3 | .failed => 4

/-- Start fault codes (R46). -/
def StartFault.code : StartFault → Nat
  | .none => 0 | .hdrVersion => 1 | .hdrRange => 2 | .hdrAlign => 3 | .hdrMemory => 4 | .sceneInitial => 5
  | .runtimeWrite => 6

/-- Lock states (R52). -/
def LockState.code : LockState → Nat
  | .seeking => 0 | .locked => 1 | .holdover => 2

/-- REF_STATE causes (R53). -/
def RefCause.code : RefCause → Nat
  | .referenceFound => 0 | .strayLimit => 1 | .missingLimit => 2 | .referenceReturned => 3 | .referenceMoved => 4
  | .rateChange => 5

/-- Hold states (R52). -/
def HoldState.code : HoldState → Nat
  | .none => 0 | .light => 1 | .deep => 2

/-- Release conditions (R53). -/
def HoldRelease.code : HoldRelease → Nat
  | .request => 0
  | .line _ => 1

/-- The line number of a release condition; 0 for REQUEST. -/
def HoldRelease.lineCode : HoldRelease → Nat
  | .request => 0
  | .line n => n.val

/-- Sources of a fire (R53). -/
def Source.code : Source → Nat
  | .slate => 0 | .key => 1 | .rule => 2 | .followOn => 3 | .schedule => 4

/-- Ways a voice is obtained (R51). -/
def Obtained.code : Obtained → Nat
  | .idle => 0 | .releasing => 1 | .stolen => 2 | .restart => 3

/-- End reasons (R53). -/
def EndReason.code : EndReason → Nat
  | .natural => 0 | .released => 1 | .cut => 2 | .kicked => 3 | .held => 4

/-- Clip formats (R50). -/
def ClipFormat.code : ClipFormat → Nat
  | .m16 => 0 | .s16 => 1 | .m24 => 2 | .s24 => 3

/-- Voice states (R51). -/
def Content.code : Content → Nat
  | .idle => 0 | .priming _ => 1 | .armed _ => 2 | .sounding _ => 3 | .releasing _ => 4 | .handover _ _ _ => 5

/-- Sheet kind of a PROBE detail (R19, R51): NONE when no descriptor was read or its present flag was clear. -/
def sheetKindCode : Option Descriptor → Nat
  | none => 0
  | some d => if d.present then (match d.kind with | .play => 1 | .library => 2 | .invalid => 3) else 0

/-- Rights level of a PROBE detail: 0 when the kind reads NONE (R19). -/
def sheetRightsCode : Option Descriptor → Nat
  | none => 0
  | some d => if d.present then d.rights else 0

/-- Cue kind of a PROBE detail (R51). -/
def cueKindCode : Option CueKind → Nat
  | none => 0
  | some .empty => 1
  | some .sound => 2
  | some .link => 3
  | some .invalid => 4

/-- Source codes of the fault capture record (R183). -/
def FaultSource.code : FaultSource → Nat
  | .resolver => 1 | .fetch => 2 | .slate => 3 | .scene => 4 | .pin => 5 | .report => 6

/-- Kind codes of the fault capture record (R183). -/
def FaultKind.code : FaultKind → Nat
  | .read => 1 | .write => 2 | .reportOverflow => 3

/-- The 16 bytes of the fault capture record in the header (R52); a record that is not valid is written as 0. -/
def FaultCapture.bytes (f : FaultCapture) : List Byte :=
  pad 16 (match f.record with
    | some r => [1, BitVec.ofNat 8 r.source.code, BitVec.ofNat 8 r.kind.code, BitVec.ofNat 8 f.further]
        ++ toBytes 4 r.address.toNat ++ toBytes 4 r.detail.toNat
    | none => [0, 0, 0, BitVec.ofNat 8 f.further])

end Sys2Proof.Machine
end

