-- ==== Sys2Proof/Machine/Flags.lean ====
section
/-! DEFINITION. The register window: the words a read of each register gives, CF_IRQ, and the interrupt flags
(R35, R36, R46). -/

namespace Sys2Proof.Machine

/-- The REPORT flag and enable stand in bit 0 of the three-bit fields, SLATE in bit 1, FAULT in bit 2 (R46 puts them at
bits 8, 9 and 10 of the words). -/
def flagReport : BitVec 3 := 1

/-- The SLATE flag. -/
def flagSlate : BitVec 3 := 2

/-- The FAULT flag. -/
def flagFault : BitVec 3 := 4

/-- The control word (R36, R46): RUN in bit 0, WARM reading 0, the enables in bits 10:8. -/
def Registers.control (r : Registers) : Word :=
  (r.enables.setWidth 32 <<< 8) ||| (if r.run then 1 else 0)

/-- The status word (R36, R46): part state in bits 2:0, start fault code in bits 7:4, flags in bits 10:8. -/
def Registers.status (r : Registers) : Word :=
  (r.flags.setWidth 32 <<< 8) ||| BitVec.ofNat 32 (r.part.code + 16 * r.startFault.code)

/-- A read of the register window (R46). -/
def Registers.read (r : Registers) (offset : Nat) : Option Word :=
  match offset with
  | 0 => some Config.identity
  | 4 => some r.headerBase
  | 8 => some r.control
  | 12 => some r.status
  | _ => none

/-- CF_IRQ is active while any flag is set and its enable is set (R36). -/
def Registers.irq (r : Registers) : Bool := (r.flags &&& r.enables) != 0

/-- Set interrupt flags (chapter 11 section 11.3). -/
def setFlags (f : BitVec 3) (s : State) : State := { s with regs := { s.regs with flags := s.regs.flags ||| f } }

/-- A write of the status word: writing 1 to a flag clears it; the other fields ignore the write (R36). -/
def writeStatus (value : Word) (s : State) : State :=
  { s with regs := { s.regs with flags := s.regs.flags &&& ~~~ (BitVec.extractLsb' 8 3 value) } }

/-- A write of the header base: its low 8 bits read as 0 (R35). -/
def writeHeaderBase (value : Word) (s : State) : State :=
  { s with regs := { s.regs with headerBase := value &&& 0xFFFFFF00#32 } }

end Sys2Proof.Machine
end

