-- ==== Sys2Proof/Machine/Ops.lean ====
section
/-! DEFINITION. The shared operations on show memory, the memory port, the Report Unit, Fault Capture and the Slate
Unit's results. Every other file of the machine is written over these. -/

namespace Sys2Proof.Machine

/-! ### Show memory: a list of cells in canonical form (log entry 1) -/

/-- What an address that is not listed reads as (log entry 1). -/
def Memory.unlisted : Byte := 0

/-- The byte at an address. -/
def Memory.read : List Host.Cell → Nat → Byte
  | [], _ => Memory.unlisted
  | (k, b) :: r, a => if k = a then b else Memory.read r a

/-- Put a byte into a list in canonical form. -/
def Memory.insert : List Host.Cell → Nat → Byte → List Host.Cell
  | [], a, b => if b = Memory.unlisted then [] else [(a, b)]
  | (k, c) :: r, a, b =>
    if a < k then (if b = Memory.unlisted then (k, c) :: r else (a, b) :: (k, c) :: r)
    else if a = k then (if b = Memory.unlisted then r else (a, b) :: r)
    else (k, c) :: Memory.insert r a b

/-- Write one byte; there is no byte beyond the address space, and such a write changes nothing. -/
def Memory.write (m : List Host.Cell) (a : Nat) (b : Byte) : List Host.Cell :=
  if a < Config.addressSpace then Memory.insert m a b else m

/-- Write consecutive bytes. -/
def Memory.writeBytes : List Host.Cell → Nat → List Byte → List Host.Cell
  | m, _, [] => m
  | m, a, b :: bs => Memory.writeBytes (Memory.write m a b) (a + 1) bs

/-- Write those of consecutive bytes whose bit of `mask` is set: a write that failed (R138). -/
def Memory.writeSome : List Host.Cell → Nat → List Byte → Nat → List Host.Cell
  | m, _, [], _ => m
  | m, a, b :: bs, mask =>
    Memory.writeSome (if mask.testBit 0 then Memory.write m a b else m) (a + 1) bs (mask / 2)

/-- Write a list of cells: the console processor's writes. -/
def Memory.writeCells : List Host.Cell → List Host.Cell → List Host.Cell
  | m, [] => m
  | m, (a, b) :: cs => Memory.writeCells (Memory.write m a b) cs

/-- `n` consecutive bytes. -/
def Memory.readBytes (m : List Host.Cell) : Nat → Nat → List Byte
  | _, 0 => []
  | a, n + 1 => Memory.read m a :: Memory.readBytes m (a + 1) n

/-- The canonical form from address `lo` on: addresses rising and inside the address space, no byte that an unlisted
address reads as. -/
def Memory.wfFrom : Nat → List Host.Cell → Bool
  | _, [] => true
  | lo, (k, b) :: r => decide (lo ≤ k) && decide (k < Config.addressSpace) && (b != Memory.unlisted) && Memory.wfFrom (k + 1) r

/-- The canonical form. -/
def Memory.wf (m : List Host.Cell) : Bool := Memory.wfFrom 0 m

/-! ### Small accessors -/

/-- The show time. -/
def now (s : State) : Time := s.clock.showTime

/-- The low 32 bits of the show time, as reports carry it. -/
def now32 (s : State) : Word := s.clock.showTime.setWidth 32

/-- The working header copy; all fields 0 while there is none. -/
def header (s : State) : Header := s.slate.header.getD (decodeHeader 0 [])

/-- The part is RUNNING. -/
def isRunning (s : State) : Bool := s.regs.part == .running

/-- The part is RUNNING or STOPPING: the states in which it writes reports (R37). -/
def isActive (s : State) : Bool := s.regs.part == .running || s.regs.part == .stopping

/-- The record of a voice. -/
def State.voice (s : State) (v : Fin 24) : Voice := s.voices[v]

/-- Put a voice record. -/
def setVoice (v : Fin 24) (x : Voice) (s : State) : State := { s with voices := s.voices.set v x }

/-- Change the content of a voice. -/
def setContent (v : Fin 24) (c : Content) (s : State) : State := setVoice v { s.voice v with content := c } s

/-- Take a free value's index: the counter as it is, and the state with the counter advanced (log entry 2). -/
def nextFree (s : State) : State := { s with free := s.free + 1 }

/-- The 32 bits in which an address is written down; a free value when it lies beyond show memory. -/
def addressWord (s : State) (a : Nat) : Word :=
  if a < Config.addressSpace then BitVec.ofNat 32 a else Config.wideAddress s.free a

/-! ### Jobs and the port (R138, R139) -/

/-- The client classes of the arbiter (R139). -/
inductive JobClass where
  | refill | resolver | house | head | scene | pin
  deriving DecidableEq, Repr

/-- The class of a job (R139). -/
def JobKind.cls : JobKind → JobClass
  | .refill .. => .refill
  | .descriptor _ => .resolver
  | .cue _ => .resolver
  | .head .. => .head
  | .busyClear _ => .scene
  | .sceneRecord _ => .scene
  | .ruleTable _ => .scene
  | .busyWrite .. => .scene
  | .pin _ => .pin
  | _ => .house

/-- The jobs that write show memory (R40, R138). -/
def JobKind.isWrite : JobKind → Bool
  | .busyClear _ => true
  | .startWrittenTo => true
  | .takenWrite _ => true
  | .completionWrite _ => true
  | .busyWrite .. => true
  | .writtenTo => true
  | .mirror => true
  | .reportRecord _ => true
  | .faultRecord => true
  | _ => false

/-- The source and detail under which Fault Capture records a failed job (R17, R145, R183). -/
def JobKind.faultSource (s : State) : JobKind → FaultSource × Word
  | .header => (.slate, 0xFF)
  | .busyClear _ => (.slate, Config.busyClearDetail s.free)
  | .startWrittenTo => (.report, 0xFFFF)
  | .slateRead i => (.slate, BitVec.ofNat 32 i)
  | .takenWrite i => (.slate, BitVec.ofNat 32 i)
  | .completionWrite i => (.slate, BitVec.ofNat 32 i)
  | .descriptor o => (.resolver, BitVec.ofNat 32 o)
  | .cue o => (.resolver, BitVec.ofNat 32 o)
  | .head v _ => (.fetch, BitVec.ofNat 32 v.val)
  | .refill v _ _ _ _ => (.fetch, BitVec.ofNat 32 v.val)
  | .pin i => (.pin, BitVec.ofNat 32 i)
  | .sceneRecord i => (.scene, BitVec.ofNat 32 i)
  | .ruleTable i => (.scene, BitVec.ofNat 32 i)
  | .busyWrite i _ => (.scene, BitVec.ofNat 32 i)
  | .returnedTo => (.report, 0xFFFF)
  | .writtenTo => (.report, 0xFFFF)
  | .mirror => (.slate, 0xFF)
  | .reportRecord i => (.report, BitVec.ofNat 32 i)
  | .faultRecord => (.report, 0xFFFF)

/-- Put a job at the tail of its class queue (R139). -/
def Port.enqueue (j : Job) (p : Port) : Port :=
  match j.kind.cls with
  | .refill => { p with refill := p.refill ++ [j] }
  | .resolver => { p with resolver := p.resolver ++ [j] }
  | .house => { p with house := p.house ++ [j] }
  | .head => { p with head := p.head ++ [j] }
  | .scene => { p with scene := p.scene ++ [j] }
  | .pin => { p with pin := p.pin ++ [j] }

/-- The port is idle: no job is in flight and none waits (R138). -/
def Port.idle (p : Port) : Bool :=
  p.inFlight.isNone && p.refill.isEmpty && p.resolver.isEmpty && p.house.isEmpty && p.head.isEmpty && p.scene.isEmpty
    && p.pin.isEmpty

/-- A job placed at the port (R139): taken at once when the port is idle, else it waits in its class queue. -/
def Port.put (j : Job) (p : Port) : Port := if p.idle then { p with inFlight := some j } else p.enqueue j

/-- Place a job (R139). Where the port is free and jobs wait, which is so within a completion only, it competes with them
when the command's effect is complete (log entry 4). -/
def place (j : Job) (s : State) : State := { s with port := s.port.put j }

/-- A read job. -/
def readJob (k : JobKind) (address length : Nat) : Job := { kind := k, address := address, length := length, data := [] }

/-- A write job. -/
def writeJob (k : JobKind) (address : Nat) (data : List Byte) : Job :=
  { kind := k, address := address, length := data.length, data := data }

/-- A job whose address range would pass the last address completes with a memory error (R138). -/
def Job.outOfRange (j : Job) : Bool := decide (Config.addressSpace < j.address + j.length)

/-- A HEAD job is stale when its claim number is not the voice's, or the voice is in neither PRIMING nor HANDOVER (R140). -/
def headStale (s : State) (j : Job) : Bool :=
  match j.kind with
  | .head v c => (s.voice v).claimNo != c || (match (s.voice v).content with
      | .priming _ => false
      | .handover _ _ _ => false
      | _ => true)
  | _ => false

/-- A REFILL job is stale when its claim number is not the voice's feeding claim number, or it was voided (R143). -/
def refillStale (s : State) (j : Job) : Bool :=
  match j.kind with
  | .refill v c _ _ voided => (s.voice v).feeding != some c || voided
  | _ => false

/-- The order in which REFILL jobs are taken: fewest frames in the voice's stream buffer, then lowest voice number (R139). -/
def refillKey (s : State) (j : Job) : Nat :=
  match j.kind with
  | .refill v _ _ _ _ => 24 * (s.voice v).stream.length + v.val
  | _ => 0

/-- The REFILL job the arbiter comes to first. -/
def firstRefill (s : State) : List Job → Option Job
  | [] => none
  | j :: r =>
    match firstRefill s r with
    | none => some j
    | some b => if refillKey s b < refillKey s j then some b else some j

/-- A REFILL job leaves its queue without being run: its voice has no refill pending any more (R143). -/
def dropRefill (j : Job) (s : State) : State :=
  let s := { s with port := { s.port with refill := s.port.refill.erase j } }
  match j.kind with
  | .refill v _ _ _ _ => setVoice v { s.voice v with refillPending := false } s
  | _ => s

/-- The arbiter at the REFILL queue (R139): it removes the stale jobs it comes to and takes the first that is not. The
first argument bounds the removals by the length of the queue. -/
def takeRefill : Nat → State → Option Job × State
  | 0, s => (none, s)
  | n + 1, s =>
    match firstRefill s s.port.refill with
    | none => (none, s)
    | some j =>
      if refillStale s j then takeRefill n (dropRefill j s)
      else (some j, { s with port := { s.port with refill := s.port.refill.erase j } })

/-- Put a job in flight. -/
def launch (j : Job) (s : State) : State := { s with port := { s.port with inFlight := some j } }

/-- The arbiter takes one job from the first class whose queue holds one (R139). -/
def takeNext (s : State) : State :=
  match takeRefill s.port.refill.length s with
  | (some j, s) => launch j s
  | (none, s) =>
    match s.port.resolver with
    | j :: r => launch j { s with port := { s.port with resolver := r } }
    | [] =>
      match s.port.house with
      | j :: r => launch j { s with port := { s.port with house := r } }
      | [] =>
        match s.port.head.dropWhile (headStale s) with
        | j :: r => launch j { s with port := { s.port with head := r } }
        | [] =>
          let s := { s with port := { s.port with head := [] } }
          match s.port.scene with
          | j :: r => launch j { s with port := { s.port with scene := r } }
          | [] =>
            match s.port.pin with
            | j :: r => launch j { s with port := { s.port with pin := r } }
            | [] => s

/-- The arbiter acts when the port is free (R139). Every step ends with it. -/
def arbitrate (s : State) : State := if s.port.inFlight.isSome then s else takeNext s

/-- A job that meets `p` is in flight or waits in the HOUSEKEEPING queue. -/
def houseHas (p : JobKind → Bool) (s : State) : Bool :=
  s.port.house.any (fun j => p j.kind) || (match s.port.inFlight with
    | some j => p j.kind
    | none => false)

/-! ### Fault Capture (R183, R184) -/

/-- Put the write `w` in the place of a waiting fault record write. -/
def replaceFaultWrite (w : Job) : List Job → List Job
  | [] => []
  | j :: r => if j.kind = .faultRecord then w :: r else j :: replaceFaultWrite w r

/-- Place a write of the fault capture record while the part is RUNNING or STOPPING; a write that still waits to be
taken is replaced (R184). -/
def placeFaultRecord (s : State) : State :=
  if isActive s then
    let w := writeJob .faultRecord ((header s).base + 128) s.fault.bytes
    if s.port.house.any (fun j => j.kind == .faultRecord) then
      { s with port := { s.port with house := replaceFaultWrite w s.port.house } }
    else place w s
  else s

/-- A fault handed to Fault Capture (R183): captured when the record is not valid, counted when it is. -/
def capture (source : FaultSource) (kind : FaultKind) (address detail : Word) (s : State) : State :=
  match s.fault.record with
  | none =>
    placeFaultRecord (setFlags flagFault { s with fault :=
      { s.fault with record := some { source := source, kind := kind, address := address, detail := detail } } })
  | some _ =>
    if s.fault.further < 255 then
      placeFaultRecord { s with fault := { s.fault with further := s.fault.further + 1 } }
    else s

/-- A job that completed with a memory error is passed to Fault Capture (R146). -/
def captureJob (kind : FaultKind) (j : Job) (s : State) : State :=
  let f := j.kind.faultSource s
  capture f.1 kind (addressWord s j.address) f.2 (nextFree s)

/-! ### Report Unit (R179, R180, R181) -/

/-- The free room of the strip (R179). -/
def freeRoom (s : State) : Nat :=
  (((s.reports.returnedTo : Int) - s.reports.writtenTo - 1) % ((header s).reportCount : Int)).toNat

/-- Place a written-to update behind the jobs already placed, replacing one that still waits to be taken (R179). -/
def placeWrittenTo (s : State) : State :=
  let s := { s with port := { s.port with house := s.port.house.filter (fun j => j.kind != .writtenTo) } }
  place (writeJob .writtenTo ((header s).base + 32) (toBytes 2 s.reports.writtenTo)) s

/-- Write a report into the strip (R179): the record write, the index, the written-to update. -/
def writeReport (r : Report) (s : State) : State :=
  let n := s.reports.writtenTo
  let s := place (writeJob (.reportRecord n) ((header s).strip + 32 * n) r.bytes) s
  placeWrittenTo { s with reports := { s.reports with writtenTo := (n + 1) % (header s).reportCount } }

/-- A report handed to the Report Unit (R180); no report is made outside RUNNING and STOPPING (R179). -/
def emit (r : Report) (s : State) : State :=
  if !isActive s then s
  else if r.kind.essential then
    if s.reports.holdList.isEmpty then
      if 0 < freeRoom s then writeReport r s
      else { s with reports := { s.reports with holdList := [r] } }
    else if s.reports.holdList.length < 16 then
      { s with reports := { s.reports with
          holdList := s.reports.holdList ++ [r]
          backPressure := s.reports.backPressure || s.reports.holdList.length + 1 == 16 } }
    else
      capture .report .reportOverflow 0 (BitVec.ofNat 32 r.kind.code)
        { s with reports := { s.reports with lost := saturate 255 (s.reports.lost + 1) } }
  else if s.reports.holdList.isEmpty && decide ((header s).reserve < freeRoom s) then writeReport r s
  else { s with reports := { s.reports with drops := saturate 65535 (s.reports.drops + 1) } }

/-- Drain the hold list while it is not empty and there is room (R181). -/
def drainHoldList : List Report → State → State
  | [], s => { s with reports := { s.reports with holdList := [] } }
  | r :: rs, s =>
    if 0 < freeRoom s then drainHoldList rs (writeReport r s)
    else { s with reports := { s.reports with holdList := r :: rs } }

/-- Discard the hold list at STOPPED or FAILED: each report adds 1 to the lost count (R182). -/
def discardHoldList (s : State) : State :=
  { s with reports := { s.reports with
      lost := saturate 255 (s.reports.lost + s.reports.holdList.length), holdList := [], backPressure := false } }

/-! ### Results of slots (R44) -/

/-- The address of a slot (R42, R50). -/
def slotAddress (s : State) (i : Nat) : Nat := (header s).slate + 32 * i

/-- Place the completion write of a held slot that has its result (R44). -/
def placeCompletion (h : Held) (s : State) : State :=
  match h.result with
  | some r => place (writeJob (.completionWrite h.taken.slot) (slotAddress s h.taken.slot)
      (completionBytes h.taken.bytes r h.detail)) s
  | none => s

/-- Record a result in the list of held slots; a slot that already has one, or is not held, keeps what it has. -/
def recordResult (slot : Nat) (r : ResultCode) (detail : List Byte) : List Held → List Held
  | [] => []
  | h :: hs =>
    if h.taken.slot = slot then
      (if h.result.isNone then { h with result := some r, detail := detail } else h) :: hs
    else h :: recordResult slot r detail hs

/-- A result returned for a held slot (R44): recorded, and its completion write placed, or left to wait for the TAKEN
write still in flight. A result for a slot that is not held, or has its result, is discarded (R39). -/
def giveResult (slot : Nat) (r : ResultCode) (detail : List Byte) (s : State) : State :=
  match s.slate.held.find? (fun h => h.taken.slot == slot) with
  | none => s
  | some h =>
    if h.result.isSome then s
    else
      let s := { s with slate := { s.slate with held := recordResult slot r detail s.slate.held } }
      if h.written then placeCompletion { h with result := some r, detail := detail } s else s

/-- Decode the requests at the head of the intake queue: one that names no request, or whose argument has no meaning,
completes its slot at once and reaches no owner (R43). -/
def settleQueue : List Taken → State → State
  | [], s => { s with slate := { s.slate with queue := [] } }
  | t :: ts, s =>
    match decodeRequest t.bytes with
    | .ok _ => { s with slate := { s.slate with queue := t :: ts } }
    | .error c => settleQueue ts (giveResult t.slot c [] s)

/-- The request at the head of the intake queue (R43); requests are handed on in RUNNING only. -/
def headRequest (s : State) : Option (Taken × List Taken × Request) :=
  if isRunning s then
    match s.slate.queue with
    | [] => none
    | t :: ts =>
      match decodeRequest t.bytes with
      | .ok r => some (t, ts, r)
      | .error _ => none
  else none

/-- The queue without its head. -/
def popHead (s : State) : State := { s with slate := { s.slate with queue := s.slate.queue.tail } }

/-- Hand the head request on to its owner when `pick` knows it (R43): the request leaves the queue, the owner acts,
the next head is decoded, and the arbiter looks at the port. Otherwise nothing happens: no such request is due. -/
def handOn {α : Type} (pick : Request → Option α) (act : Taken → α → State → State) (s : State) : State :=
  match headRequest s with
  | none => s
  | some (t, _, r) =>
    match pick r with
    | none => s
    | some a =>
      let s := act t a (popHead s)
      arbitrate (settleQueue s.slate.queue s)

/-! ### Completion of jobs (R138) -/

/-- Show memory when a job ends: the console processor's writes so far, and the job's own write, whole or in part. -/
def memoryAfter (j : Job) (e : JobEnd) (bad : Bool) (m : List Host.Cell) : List Host.Cell :=
  let m := Memory.writeCells m e.console
  if bad then Memory.writeSome m j.address j.data e.landed else Memory.writeBytes m j.address j.data

/-- The job in flight completes (R138), when it is one that `is` knows: the port frees, show memory is brought up to
date, the owner acts on the job and on whether it failed, and the arbiter takes the next job. A completion that a warm
reset has left to be discarded has no owner any more. When no such job is in flight, no such event happens. -/
def jobDone (is : JobKind → Bool) (e : JobEnd) (act : Job → Bool → State → State) (s : State) : State :=
  match s.port.inFlight with
  | none => s
  | some j =>
    if is j.kind then
      let bad := e.error || j.outOfRange
      let done := { s with mem := memoryAfter j e bad s.mem, port := { s.port with inFlight := none, discard := false } }
      arbitrate (if s.port.discard then done else act j bad done)
    else s

/-- The bytes a read delivers (R138): show memory as it is at the completion. -/
def readData (j : Job) (s : State) : List Byte := Memory.readBytes s.mem j.address j.length

end Sys2Proof.Machine
end

