-- ==== Sys2Proof/Machine/Levels.lean ====
section
/-! DEFINITION. The level arithmetic of the mix (chapter 09): fade values, effective codes, gains, bus sums, duck groups
and the tally outputs that follow the same voices. -/

namespace Sys2Proof.Machine

/-! ### Fades (R153, R154) -/

/-- The fade value a fade record gives for a cue with this fade-in length (R153, R154). -/
def Fade.value (fadeIn : Nat) : Fade → Int
  | .fadeIn n => if n < fadeIn then -256 + ((256 * n / fadeIn : Nat) : Int) else 0
  | .release f₀ l m => f₀ - (f₀ + 256) * (m : Int) / (l : Int)

/-- A fade record after one sample (R86). -/
def Fade.advance (fadeIn : Nat) : Fade → Fade
  | .fadeIn n => .fadeIn (min (n + 1) fadeIn)
  | .release f₀ l m => .release f₀ l (m + 1)

/-- The remaining release (R80, R89); a fade-in has none. -/
def Fade.remaining : Fade → Nat
  | .fadeIn _ => 0
  | .release _ l m => l - m

/-- A release has run its length (R89, R90). -/
def Fade.over : Fade → Bool
  | .fadeIn _ => false
  | .release _ l m => decide (l ≤ m)

/-- The SOUND record of a playing cue. -/
def Playing.sound (p : Playing) : SoundCue := p.claim.req.cue.sound

/-- The SOUND record of a claim that has not sounded. -/
def Incoming.sound (i : Incoming) : SoundCue := i.claim.req.cue.sound

/-- The fade value of a playing cue at this sample. -/
def Playing.fadeValue (p : Playing) : Int := p.fade.value p.sound.fadeIn

/-! ### Effective code and contribution (R151, R152) -/

/-- The duck offset a cue takes: that of its group when it is a MEMBER, else none (R151). -/
def duckTerm (s : State) : DuckRole → Int
  | .member g => s.mix.ducks[g].offset
  | _ => 0

/-- The effective code from its five terms (R151): level code, offset, fade value, duck offset, trim. A level term of
-256 is silence whatever the others hold. -/
def effectiveCode (level offset fade duck trim : Int) : Int :=
  if level = -256 ∨ fade = -256 ∨ trim = -256 then -256
  else clampLevel (level + offset + fade + duck + trim)

/-- The mantissa table (R152). -/
def mantissa : Nat → Int
  | 0 => 32768 | 1 => 34219 | 2 => 35734 | 3 => 37316 | 4 => 38968 | 5 => 40693 | 6 => 42495 | 7 => 44376
  | 8 => 46341 | 9 => 48393 | 10 => 50535 | 11 => 52773 | 12 => 55109 | 13 => 57549 | 14 => 60097 | _ => 62757

/-- The contribution of a sample value at an effective code (R152), rounded to nearest with halves towards +∞. -/
def contribution (code sample : Int) : Int :=
  if code = -256 then 0
  else
    let q := code / 16
    let r := (code - 16 * q).toNat
    let k := (15 - q).toNat
    (sample * mantissa r + 2 ^ (k - 1)) / 2 ^ k

/-- The 24-bit range of a bus side (R159). -/
def clampBus (x : Int) : Int := clamp (-8388608) 8388607 x

/-- What the Voice Array hands the Mix Engine for one playing cue at one sample (R101); the frame is absent on an underrun. -/
structure Contribution where
  frame : Option Frame
  level : Int
  offset : Int
  fade : Int
  duck : DuckRole
  buses : BitVec 4
  deriving DecidableEq, Repr

/-- The effective code of a contribution on bus `b` (R151). -/
def codeOn (s : State) (c : Contribution) (b : Fin 4) : Int :=
  effectiveCode c.level c.offset c.fade (duckTerm s c.duck) s.mix.buses[b].trim

/-- The two sides a contribution gives bus `b`; nothing when the cue does not name it (R151, R152). -/
def sidesOn (s : State) (b : Fin 4) (c : Contribution) : Int × Int :=
  if c.buses.getLsbD b.val then
    match c.frame with
    | some f => (contribution (codeOn s c b) f.left.toInt, contribution (codeOn s c b) f.right.toInt)
    | none => (0, 0)
  else (0, 0)

/-- The exact sums of the two sides of bus `b` (R159, R165). -/
def busSum (s : State) (b : Fin 4) : List Contribution → Int × Int
  | [] => (0, 0)
  | c :: cs => ((sidesOn s b c).1 + (busSum s b cs).1, (sidesOn s b c).2 + (busSum s b cs).2)

/-- Bus `b` after one sample (R159, R160, R161): the clamped sides, the clip flag, the peak. -/
def mixBus (s : State) (cs : List Contribution) (b : Fin 4) : Bus :=
  let sum := busSum s b cs
  let l := clampBus sum.1
  let r := clampBus sum.2
  let x := s.mix.buses[b]
  { x with
    left := l, right := r
    clipFlag := x.clipFlag || decide (l ≠ sum.1) || decide (r ≠ sum.2)
    peak := max x.peak (max l.natAbs r.natAbs) }

/-- Every bus after one sample. -/
def mixBuses (cs : List Contribution) (s : State) : State :=
  { s with mix := { s.mix with buses := Vector.ofFn (mixBus s cs) } }

/-! ### Duck groups (R155 to R158) -/

/-- Put a duck group. -/
def setDuck (g : Fin 4) (d : Duck) (s : State) : State :=
  { s with mix := { s.mix with ducks := s.mix.ducks.set g d } }

/-- The target of a group (R155). -/
def Duck.target (d : Duck) : Int := if d.keyed then -(d.depth : Int) else 0

/-- The interval in force (R157). -/
def Duck.interval (d : Duck) : Nat := if d.keyed then d.attack else d.recovery

/-- The key line of a group is asserted (R121, R156). -/
def Duck.lineKeyed (lines : Vector Qualifier 16) (d : Duck) : Bool :=
  match d.keyLine with
  | some n => lines[n].level
  | none => false

/-- The keyed flag re-judged (R156): a change sets the sub-counter to 0, and no step is made at this sample (R157). -/
def Duck.rejudge (lines : Vector Qualifier 16) (d : Duck) : Duck :=
  let on := d.keying != 0 || d.lineKeyed lines
  if on == d.keyed then d else { d with keyed := on, sub := 0, due := false }

/-- Change every duck group. -/
def mapDucks (f : Fin 4 → Duck → Duck) (s : State) : State :=
  { s with mix := { s.mix with ducks := Vector.ofFn (fun g => f g s.mix.ducks[g]) } }

/-- Every group's keyed flag re-judged (R156). -/
def rejudgeDucks (s : State) : State := mapDucks (fun _ d => d.rejudge s.trigger.lines) s

/-- A bit of a voice mask. -/
def voiceBit (v : Fin 24) : BitVec 24 := 1#24 <<< v.val

/-- A voice joins the keying voices of a group. -/
def Duck.join (v : Fin 24) (d : Duck) : Duck := { d with keying := d.keying ||| voiceBit v }

/-- A voice leaves the keying voices of a group. -/
def Duck.leave (v : Fin 24) (d : Duck) : Duck := { d with keying := d.keying &&& ~~~ voiceBit v }

/-- A voice joins the keying voices of the groups its cue keys, on entry into SOUNDING (R82, R156). -/
def keyDucks (v : Fin 24) (role : DuckRole) (s : State) : State :=
  match role with
  | .key groups => rejudgeDucks (mapDucks (fun g d => if groups.getLsbD g.val then d.join v else d) s)
  | _ => s

/-- A voice leaves the keying voices of every group: it goes IDLE or enters HANDOVER (R84, R156). -/
def unkeyDucks (v : Fin 24) (s : State) : State :=
  rejudgeDucks (mapDucks (fun _ d => d.leave v) s)

/-- One sample of a group (R157): while the offset differs from the target the sub-counter advances, and a step is due
when it reaches the interval; while they are equal the sub-counter stays at 0. A count that a commit kept while it made the
offset equal the target is set to 0 at the next sample (R158, DESIGN CHOICE, log entry 69). -/
def Duck.tick (d : Duck) : Duck :=
  if d.offset = d.target then { d with sub := 0, due := false }
  else { d with sub := d.sub + 1, due := decide (d.interval ≤ d.sub + 1) }

/-- One code towards a target (R157). -/
def towards (target offset : Int) : Int :=
  if offset < target then offset + 1 else if target < offset then offset - 1 else offset

/-- One step of a group (R157): one code towards the target, the sub-counter back to 0. -/
def Duck.step (d : Duck) : Duck := { d with offset := towards d.target d.offset, sub := 0, due := false }

/-- The duck settings of a scene put in force for one group (R158), before re-keying. -/
def Duck.configure (x : DuckSetting) (d : Duck) : Duck :=
  { d with
    depth := x.depth, attack := x.attack, recovery := x.recovery, keyLine := x.keyLine
    offset := max d.offset (-(x.depth : Int)) }

/-! ### Tally outputs (R101, R176) -/

/-- The tally line a voice demands: that of its cue, from its entry into SOUNDING until it leaves SOUNDING (R82, R101). -/
def tallyDemand (x : Voice) : BitVec 16 :=
  match x.content with
  | .sounding p =>
    match p.entry, p.sound.tally with
    | none, some n => 1#16 <<< n.val
    | _, _ => 0
  | _ => 0

/-- The lines all voices demand. -/
def tallyDemands (s : State) : BitVec 16 := s.voices.toList.foldl (fun m x => m ||| tallyDemand x) 0

/-- The lines the part pulls active (R176). -/
def tallyDriven (s : State) : BitVec 16 := if s.tally.enabled then s.tally.latch ||| tallyDemands s else 0

/-- The sensed levels: what the part or external equipment pulls (R176). The part's own pull counts with the latch and the
demands as they are now, a latch written earlier at this sample included (DESIGN CHOICE, log entry 62). -/
def sensed (s : State) : BitVec 16 := s.tally.pulled ||| tallyDriven s

end Sys2Proof.Machine
end

