-- ==== Sys2Proof/Machine/Voices.lean ====
section
/-! DEFINITION. The shared operations of the Voice Array (chapter 05): its reports, leaving SOUNDING, withdrawal,
release, entry into SOUNDING, and what a landed head does. -/

namespace Sys2Proof.Machine

/-- Every voice, in ascending number. -/
def allVoices : List (Fin 24) := List.finRange 24

/-! ### Reports of the Voice Array -/

/-- The voice number field of a report (R52). -/
def voiceByte (v : Fin 24) : Byte := BitVec.ofNat 8 v.val

/-- The voice number field of a report that names no voice (R52). -/
def noVoiceByte : Byte := 0xFF

/-- The entry selector of a claim (R14). -/
def Claim.entry (c : Claim) : Selector := c.req.cue.entry

/-- A report about a claim on a voice, at this sample. -/
def claimReport (kind : ReportKind) (v : Fin 24) (c : Claim) (time : Word) (detail : List Byte) : Report :=
  { kind := kind, voice := voiceByte v, tag := c.req.tag, selector := c.entry, time := time, detail := detail }

/-- The ENDED report (R53, R100). -/
def endedReport (v : Fin 24) (c : Claim) (reason : EndReason) (sounded : Bool) (time : Word) : Report :=
  claimReport .ended v c time
    (toBytes 2 c.number.toNat ++ toBytes 1 reason.code ++ toBytes 1 (if sounded then 1 else 0))

/-- An ENDED report at this sample. -/
def emitEnded (v : Fin 24) (c : Claim) (reason : EndReason) (sounded : Bool) (s : State) : State :=
  emit (endedReport v c reason sounded (now32 s)) s

/-- The MISSED report of a voice (R53, R114). -/
def missedReport (v : Fin 24) (c : Claim) (reason : Nat) (target : Word) (lateness : Nat) (time : Word) : Report :=
  claimReport .missed v c time
    (toBytes 1 reason ++ [0] ++ toBytes 2 c.number.toNat ++ toBytes 4 target.toNat ++ toBytes 2 (saturate 65535 lateness))

/-- MISSED reason LATE (R53). -/
def missedLate : Nat := 0

/-- MISSED reason HELD (R53). -/
def missedHeld : Nat := 1

/-! ### The content of a voice -/

/-- The claim that has not sounded: that of PRIMING and ARMED, and the incoming one of HANDOVER (R91). -/
def Content.incoming : Content → Option Incoming
  | .priming i => some i
  | .armed i => some i
  | .handover _ i _ => some i
  | _ => none

/-- The cue that plays (R101). -/
def Content.playing : Content → Option Playing
  | .sounding p => some p
  | .releasing p => some p
  | .handover p _ _ => some p
  | _ => none

/-- The current claim of R77: the incoming one in HANDOVER, absent in IDLE. -/
def Content.current : Content → Option Claim
  | .idle => none
  | .priming i => some i.claim
  | .armed i => some i.claim
  | .sounding p => some p.claim
  | .releasing p => some p.claim
  | .handover _ i _ => some i.claim

/-- The voice is IDLE. -/
def Content.isIdle : Content → Bool
  | .idle => true
  | _ => false

/-- The voice is SOUNDING. -/
def Content.isSounding : Content → Bool
  | .sounding _ => true
  | _ => false

/-! ### Returning to IDLE -/

/-- A voice record returned to IDLE (R77): the claim number and the last end are kept, the buffers emptied, the feeding
claim number cleared. A refill still queued or in flight stays pending until it has left the port (R141). -/
def Voice.toIdle (x : Voice) : Voice :=
  { x with content := .idle, head := [], stream := [], fetchPosition := 0, feeding := none, refillFailed := false }

/-- A voice goes IDLE, its last claim ended as `lastEnd` says; its duck keying ends (R77, R156). -/
def goIdle (v : Fin 24) (ended : Half × Bool) (s : State) : State :=
  unkeyDucks v (setVoice v { (s.voice v).toIdle with lastEnd := some ended } s)

/-- Remove a voice from the start-order list (R83). -/
def leaveOrder (v : Fin 24) (s : State) : State := { s with startOrder := s.startOrder.erase v }

/-! ### Withdrawal (R91) and follow-on cancellation (R85) -/

/-- A claim that has not sounded is withdrawn (R91): PRIMING and ARMED go IDLE; in HANDOVER the claim number advances
and the outgoing cue becomes the voice's content in RELEASING, where it keys its duck groups again (R101, log entry 40).
The report is the cause's affair. -/
def withdraw (v : Fin 24) (s : State) : State :=
  let x := s.voice v
  match x.content with
  | .priming i => goIdle v (i.claim.number, false) s
  | .armed i => goIdle v (i.claim.number, false) s
  | .handover p i _ =>
    keyDucks v p.sound.duck
      (setVoice v { x with claimNo := x.claimNo + 1, content := .releasing p, lastEnd := some (i.claim.number, false), head := [] } s)
  | _ => s

/-- A withdrawal whose cause gives ENDED, not sounded, with this reason (R91). -/
def withdrawEnded (v : Fin 24) (reason : EndReason) (s : State) : State :=
  match (s.voice v).content.incoming with
  | some i => emitEnded v i.claim reason false (withdraw v s)
  | none => s

/-- The FOLLOW_CANCELLED report (R53, R85). -/
def followCancelledReport (voice : Byte) (selector : Selector) (leader : Fin 24) (claim : Half) (time : Word) : Report :=
  { kind := .followCancelled, voice := voice, tag := 0, selector := selector, time := time
    detail := toBytes 1 leader.val ++ [0] ++ toBytes 2 claim.toNat }

/-- A claim that has not sounded follows voice `v` under claim number `n` (R85). -/
def Incoming.follows (v : Fin 24) (n : Half) (i : Incoming) : Bool :=
  i.claim.req.source == .followOn && i.claim.req.leader == some (v, n)

/-- The follow-on that voice `w` holds for leader `v` is withdrawn (R85). -/
def cancelFollower (v : Fin 24) (n : Half) (s : State) (w : Fin 24) : State :=
  match (s.voice w).content.incoming with
  | some i =>
    if i.follows v n then
      emit (followCancelledReport (voiceByte w) i.claim.entry v n (now32 s)) (withdraw w s)
    else s
  | none => s

/-- Voice `v`, whose claim was `n` while SOUNDING, left SOUNDING other than by natural end (R85). -/
def cancelFollowers (v : Fin 24) (n : Half) (s : State) : State := allVoices.foldl (cancelFollower v n) s

/-- A release of the cut or its like: length of a CUT (R94). -/
def cutLength : Nat := 96

/-! ### Leaving SOUNDING, and the end of a release (R84, R87, R89) -/

/-- A report about a playing cue; a cue cut at entry into FAILED gives none (R40, log entry 53). -/
def tell (p : Playing) (r : Report) (s : State) : State := if p.quiet then s else emit r s

/-- The end of a release, or of a clip in RELEASING (R87, R89): the voice goes IDLE, with the ENDED report its end
reason calls for, none after a steal (R91) or after a cut at entry into FAILED (R40, DEDUCED, log entry 53). -/
def endRelease (v : Fin 24) (p : Playing) (s : State) : State :=
  let s := goIdle v (p.claim.number, false) s
  match p.endReason with
  | some r => tell p (endedReport v p.claim r true (now32 s)) s
  | none => s

/-- A SOUNDING voice is released over `l` samples (R84, R89); a length of 0 takes it IDLE at once, the FOLLOW_CANCELLED of
its follow-on handed on before its own ENDED (DESIGN CHOICE, log entry 64). -/
def releaseSounding (v : Fin 24) (p : Playing) (l : Nat) (reason : EndReason) (s : State) : State :=
  let s := leaveOrder v s
  if l = 0 then
    emitEnded v p.claim reason true (cancelFollowers v p.claim.number (goIdle v (p.claim.number, false) s))
  else
    cancelFollowers v p.claim.number
      (setContent v (.releasing { p with fade := .release p.fadeValue l 0, endReason := some reason }) s)

/-! ### Follow-on requests (R55, R73) -/

/-- The first sample a playing cue still has to play. -/
def Playing.nextSample (p : Playing) (s : State) : Time := if p.fromNext then now s + 1 else now s

/-- The remaining length of a playing cue (R73). -/
def Playing.remaining (p : Playing) : Nat := p.sound.length - p.position

/-- A follow-on request placed in the internal intake: it takes the place of an earlier one of the same leader (R55). -/
def placeFollow (f : FollowOn) : List FollowOn → List FollowOn
  | [] => [f]
  | g :: r => if g.leader = f.leader then f :: r else g :: placeFollow f r

/-- The conditions of R73 hold for a SOUNDING voice. -/
def followDue (s : State) (p : Playing) : Bool :=
  isRunning s && p.entry.isNone && !p.sound.follow.isNull && !p.loopActive && !p.followPlaced && decide (p.remaining ≤ Config.followLead)

/-- The follow-on lead is tested, and the request placed when the conditions of R73 hold. -/
def testFollow (v : Fin 24) (s : State) : State :=
  match (s.voice v).content with
  | .sounding p =>
    if followDue s p then
      let f : FollowOn :=
        { leader := v, claim := p.claim.number, selector := p.sound.follow, level := p.claim.req.cue.level
          stop := p.nextSample s + BitVec.ofNat 40 p.remaining }
      { setContent v (.sounding { p with followPlaced := true }) s with
        resolver := { s.resolver with follows := placeFollow f s.resolver.follows } }
    else s
  | _ => s

/-! ### Entry into SOUNDING (R82, R141) -/

/-- The frames the landed head gives the stream buffer, and the fetch position (R141). -/
def takeUp (c : SoundCue) (head : List Frame) : List Frame × Nat :=
  match c.loop with
  | some l => if l.stop < head.length then (head.take l.stop, l.start) else (head, head.length)
  | none => (head, head.length)

/-- Another SOUNDING voice of the same nonzero exclusive group is kicked (R82). -/
def kick (v : Fin 24) (g : Nat) (s : State) (w : Fin 24) : State :=
  if w = v then s
  else
    match (s.voice w).content with
    | .sounding p =>
      if p.entry.isNone && p.sound.group == g then releaseSounding w p (max p.sound.fadeOut cutLength) .kicked s else s
    | _ => s

/-- The kicks of an entry into SOUNDING (R82). -/
def kickOthers (v : Fin 24) (g : Nat) (s : State) : State :=
  if g = 0 then s else allVoices.foldl (kick v g) s

/-- The FIRED report (R53, R82). -/
def firedReport (v : Fin 24) (c : Claim) (time : Word) : Report :=
  claimReport .fired v c time
    (toBytes 2 c.number.toNat ++ toBytes 1 c.req.source.code ++ toBytes 1 c.obtained.code)

/-- The LATE report (R53): unit 0 is frames, 1 samples. -/
def lateReport (v : Fin 24) (c : Claim) (tag : Half) (lateness unit allowance : Nat) (time : Word) : Report :=
  { claimReport .late v c time (toBytes 4 lateness ++ toBytes 1 unit ++ toBytes 1 allowance) with tag := tag }

/-- The LATE reports that follow FIRED: in frames for a late mark (R113), in samples for an EXACT start entered after its
end sample (R69). -/
def emitLate (v : Fin 24) (c : Claim) (l : Lateness) (time : Word) (s : State) : State :=
  let s := match l.mark with
    | some t => emit (lateReport v c c.req.tag (saturate 65535 (s.clock.frame - t).toNat) 0
        c.req.cue.sound.lateAllowance time) s
    | none => s
  match l.samples with
  | some n => emit (lateReport v c 0 (saturate 4294967295 n) 1 0 time) s
  | none => s

/-- A voice record whose landed head is taken up into the stream buffer, with the fetch record set (R141). -/
def Voice.takeUpHead (x : Voice) (p : Playing) : Voice :=
  { x with
    content := .sounding { p with entry := none }, head := [], stream := (takeUp p.sound x.head).1
    fetchPosition := (takeUp p.sound x.head).2, feeding := some x.claimNo, refillFailed := false }

/-- The effects of an entry into SOUNDING at its first sample (R82, R141). The FOLLOW_CANCELLED of a kick is handed on before
FIRED (DESIGN CHOICE, log entry 64). -/
def entryEffects (v : Fin 24) (p : Playing) (l : Lateness) (s : State) : State :=
  let first : Word := (p.nextSample s).setWidth 32
  let s := setVoice v ((s.voice v).takeUpHead p) s
  let s := keyDucks v p.sound.duck (kickOthers v p.sound.group { s with startOrder := s.startOrder ++ [v] })
  testFollow v (emitLate v p.claim l first (emit (firedReport v p.claim first) s))

/-- The entry into SOUNDING that voice `v` still has to make, if any, takes its effect (R82). -/
def completeEntry (v : Fin 24) (s : State) : State :=
  match (s.voice v).content with
  | .sounding p =>
    match p.entry with
    | some l => entryEffects v p l s
    | none => s
  | _ => s

/-- The entries into SOUNDING still to come of the voices that meet `p` take their effect, by ascending voice (log entry
15). -/
def completeEntries (p : Content → Bool) (s : State) : State :=
  allVoices.foldl (fun t v => if p (t.voice v).content then completeEntry v t else t) s

/-- A playing cue at its entry into SOUNDING, its effects still to come (R82). -/
def Incoming.begin (i : Incoming) (fromNext : Bool) (late : Option Nat) : Playing :=
  { claim := i.claim, position := 0, loopActive := i.sound.loop.isSome, fade := .fadeIn 0, endReason := none
    followPlaced := false, underrun := false, fromNext := fromNext, entry := some { mark := i.lateMark, samples := late }
    quiet := false }

/-- Entry into SOUNDING (R69, R72, R82): at this sample, or at the next one when `fromNext` says so; the voice is then
SOUNDING already, and the effects of the entry come with that sample (R72, R104, log entry 15). `late` is the lateness in
samples of an EXACT start entered after its end sample. -/
def enterSounding (v : Fin 24) (i : Incoming) (fromNext : Bool) (late : Option Nat) (s : State) : State :=
  let s := setContent v (.sounding (i.begin fromNext late)) s
  if fromNext then s else completeEntry v s

/-! ### Releases (R89, R93, R94) -/

/-- A release is shortened to `l` when `l` is less than what remains of it; 0 takes the voice IDLE at once (R89). -/
def shortenRelease (v : Fin 24) (p : Playing) (l : Nat) (s : State) : State :=
  if l < p.fade.remaining then
    if l = 0 then endRelease v p s
    else setContent v (.releasing { p with fade := .release p.fadeValue l 0 }) s
  else s

/-- A voice whose entry into SOUNDING, if any, has taken its effect is released with reason `reason`: length `playing p`
for the cue that plays; an unsounded claim is withdrawn, and in HANDOVER the fade goes on, shortened when `shorten` says so
(R93, R94, R97 to R99, R102). The ENDED report of the withdrawn claim comes before one of the outgoing cue (DESIGN CHOICE,
log entry 64). -/
def releaseNow (v : Fin 24) (reason : EndReason) (length : Playing → Nat) (shorten : Bool) (s : State) : State :=
  match (s.voice v).content with
  | .idle => s
  | .priming _ => withdrawEnded v reason s
  | .armed _ => withdrawEnded v reason s
  | .sounding p => releaseSounding v p (length p) reason s
  | .releasing p => if shorten then shortenRelease v p (length p) s else s
  | .handover p _ _ =>
    let s := withdrawEnded v reason s
    if shorten then shortenRelease v p (length p) s else s

/-- A voice is released. One whose entry is still to come has entered SOUNDING (R104): the entry is completed first (log
entry 15). -/
def releaseVoice (v : Fin 24) (reason : EndReason) (length : Playing → Nat) (shorten : Bool) (s : State) : State :=
  releaseNow v reason length shorten (completeEntry v s)

/-- CUT acts as a release of 96 samples with reason CUT (R94). -/
def cutVoice (v : Fin 24) (s : State) : State := releaseVoice v .cut (fun _ => cutLength) true s

/-- The unsounded claims of the voices that meet `p` are withdrawn first, then the cues that sound are released: an
event that acts on several voices at once (R97, R99, R102, log entry 5). -/
def releaseAllNow (p : Content → Bool) (reason : EndReason) (length : Playing → Nat) (shorten : Bool) (s : State) : State :=
  let chosen := allVoices.filter fun v => p (s.voice v).content
  let s := (chosen.filter fun v => (s.voice v).content.incoming.isSome).foldl
    (fun t v => releaseNow v reason length shorten t) s
  (chosen.filter fun v => (s.voice v).content.isSounding || shorten).foldl
    (fun t v => releaseNow v reason length shorten t) s

/-- The same, after the entries of those voices that are still to come (log entry 15). -/
def releaseAll (p : Content → Bool) (reason : EndReason) (length : Playing → Nat) (shorten : Bool) (s : State) : State :=
  releaseAllNow p reason length shorten (completeEntries p s)

/-- The current claim's cue carries exclusive group `g` and the voice is one RELEASE GROUP acts on (R97). -/
def Content.inGroup (g : Nat) : Content → Bool
  | .priming i => i.sound.group == g
  | .armed i => i.sound.group == g
  | .sounding p => p.sound.group == g
  | .handover _ i _ => i.sound.group == g
  | _ => false

/-- RELEASE GROUP on the voices (R97). -/
def releaseGroup (g : Nat) (s : State) : State :=
  releaseAll (Content.inGroup g) .released (fun p => p.sound.fadeOut) false s

/-- The voices RELEASE GROUP would affect (R97). -/
def groupCount (g : Nat) (s : State) : Nat := (allVoices.filter fun v => (s.voice v).content.inGroup g).length

/-- CUT LAST on the voices (R95): the tail of the start-order list is cut; an empty list does nothing. -/
def cutLastVoice (s : State) : State :=
  match s.startOrder.getLast? with
  | some v => cutVoice v s
  | none => s

/-- A hold-to-play release (R98): it acts only on the claim it was made for. -/
def holdToPlayRelease (v : Fin 24) (claim : Half) (s : State) : State :=
  if (s.voice v).claimNo = claim then
    match (s.voice v).content with
    | .handover _ _ _ => withdrawEnded v .released s
    | _ => releaseVoice v .released (fun p => p.sound.fadeOut) true s
  else s

/-- Entry into DEEP hold at the voices (R99). -/
def deepHoldVoices (s : State) : State :=
  releaseAll (fun _ => true) .held (fun p => max p.sound.fadeOut cutLength) false s

/-- Entry into STOPPING or FAILED at the voices (R102): every voice is cut; reports arise only where the part makes them. -/
def stopVoices (s : State) : State := releaseAll (fun _ => true) .cut (fun _ => cutLength) true s

/-! ### Acting on the pending start (R69, R112) -/

/-- A voice whose claim has its head waits ARMED. -/
def arm (v : Fin 24) (i : Incoming) (s : State) : State := setContent v (.armed i) s

/-- A missed judgement on a voice (R91, R111, R112): the claim is withdrawn with MISSED. -/
def missVoice (v : Fin 24) (i : Incoming) (reason : Nat) (target : Word) (lateness : Nat) (s : State) : State :=
  emit (missedReport v i.claim reason target lateness (now32 s)) (withdraw v s)

/-- An overdue voice is judged (R112). -/
def judgeOverdue (v : Fin 24) (i : Incoming) (target : Word) (s : State) : State :=
  let lateness := (s.clock.frame - target).toNat
  if s.run.hold = .light then missVoice v i missedHeld target lateness s
  else if lateness ≤ i.sound.lateAllowance then arm v { i with start := .frame, lateMark := some target } s
  else missVoice v i missedLate target lateness s

/-- A PRIMING voice whose head has landed acts on its pending start (R69). -/
def actOnStart (v : Fin 24) (i : Incoming) (s : State) : State :=
  match i.start with
  | .immediate => enterSounding v i true none s
  | .frame => arm v i s
  | .atFrame t overdue => if overdue then judgeOverdue v i t s else arm v i s
  | .exact stop =>
    if Time.earlier (now s) stop then arm v i s else enterSounding v i true (some (now s + 1 - stop).toNat) s
  | .none => arm v i s

/-- A head lands in a voice's head buffer (R69, R78, R90): awaited in PRIMING and HANDOVER only. -/
def landHead (v : Fin 24) (frames : List Frame) (s : State) : State :=
  let x := s.voice v
  match x.content with
  | .priming i => actOnStart v i (setVoice v { x with head := frames } s)
  | .handover p i _ => setVoice v { x with head := frames, content := .handover p i true } s
  | _ => s

/-! ### Hold-to-play links (R134) -/

/-- The claim of a key's fire hands its voice and claim number back to the Trigger Unit (R134). -/
def handBack (key : Fin 8) (v : Fin 24) (claim : Half) (s : State) : State :=
  let put (l : Option (Fin 24 × Half)) (s : State) : State :=
    { s with trigger := { s.trigger with holdLinks := s.trigger.holdLinks.set key l } }
  if s.trigger.keys[key].level then put (some (v, claim)) s
  else if s.trigger.keyMap[key].holdToPlay then holdToPlayRelease v claim (put none s)
  else put (some (v, claim)) s

end Sys2Proof.Machine
end

