-- ==== Sys2Proof/Machine/Claims.lean ====
section
/-! DEFINITION. The claim (chapter 04 section 4.4, R77 to R81) and the Fire Schedule (chapter 06): the steps of a claim,
the stealing arbiter, the voice taking the claim, where the outcome goes, the schedule's intake and its prime lead. -/

namespace Sys2Proof.Machine

/-! ### Conditions (R64) -/

/-- A comparison of two unsigned numbers (R64). -/
def Comparison.holds (c : Comparison) (x y : Half) : Bool :=
  match c with
  | .eq => x == y
  | .ne => x != y
  | .ge => decide (y.toNat ≤ x.toNat)
  | .lt => decide (x.toNat < y.toNat)

/-- A condition or guard, judged on the show variables as they are (R64, R125). -/
def Condition.holds (vars : Vector Half 32) (c : Condition) : Bool := c.cmp.holds vars[c.var] c.value

/-! ### The steps of a claim (R62 to R65, R74) -/

/-- A follow-on's leader stands (R74). -/
def leaderStands (s : State) (leader : Fin 24 × Half) : Bool :=
  let x := s.voice leader.1
  x.claimNo == leader.2 && (x.content.isSounding || x.lastEnd == some (leader.2, true))

/-- The leader check: only a claim that carries a leader is tested (R74). -/
def ClaimRequest.leaderOk (r : ClaimRequest) (s : State) : Bool :=
  match r.leader with
  | some l => leaderStands s l
  | none => true

/-- The hold check passes (R63). -/
def holdPasses (hold : HoldState) (source : Source) : Bool :=
  match hold with
  | .none => true
  | .light => source == .key
  | .deep => false

/-- The condition passes (R64). -/
def conditionPasses (vars : Vector Half 32) : Option Condition → Bool
  | none => true
  | some c => c.holds vars

/-- The claim whose cue's identity a voice holds for the retrigger search (R65). -/
def Content.identityClaim : Content → Option Claim
  | .priming i => some i.claim
  | .armed i => some i.claim
  | .sounding p => some p.claim
  | .handover _ i _ => some i.claim
  | _ => none

/-- Voice `v` is the leader of this claim. -/
def ClaimRequest.isLeader (r : ClaimRequest) (v : Fin 24) : Bool :=
  match r.leader with
  | some l => l.1 == v
  | none => false

/-- The claim by which voice `v` holds the identity of the cue of `r`, if it does; a leader is left out (R65). -/
def identityAt (s : State) (r : ClaimRequest) (v : Fin 24) : Option Claim :=
  if r.isLeader v then none
  else
    match (s.voice v).content.identityClaim with
    | some c => if c.req.cue.sheet = r.cue.sheet ∧ c.req.cue.cue = r.cue.cue then some c else none
    | none => none

/-- The found voice: latest claim time, ties to the lowest number (R65). -/
def foundVoice (s : State) (r : ClaimRequest) : Option (Fin 24 × Claim) :=
  allVoices.foldl (fun best v =>
    match identityAt s r v with
    | none => best
    | some c =>
      match best with
      | none => some (v, c)
      | some (w, d) => if Time.earlier d.time c.time then some (v, c) else some (w, d)) none

/-! ### The stealing arbiter (R80) -/

/-- Step 1: the lowest-numbered IDLE voice. -/
def idleVoice (s : State) : Option (Fin 24) := allVoices.find? fun v => (s.voice v).content.isIdle

/-- The remaining release of a RELEASING voice. -/
def Content.releaseLeft : Content → Option Nat
  | .releasing p => some p.fade.remaining
  | _ => none

/-- Step 2: the RELEASING voice with the least remaining release, ties to the lowest number. -/
def releasingVoice (s : State) : Option (Fin 24) :=
  (allVoices.foldl (fun (best : Option (Fin 24 × Nat)) v =>
    match (s.voice v).content.releaseLeft with
    | none => best
    | some n =>
      match best with
      | none => some (v, n)
      | some (w, m) => if n < m then some (v, n) else some (w, m)) none).map (·.1)

/-- The claim of an ARMED or SOUNDING voice. -/
def Content.stealable : Content → Option Claim
  | .armed i => some i.claim
  | .sounding p => some p.claim
  | _ => none

/-- Claim `c` is taken before claim `d`: lower class, then older claim time. -/
def Claim.sooner (c d : Claim) : Bool :=
  let pc := c.req.cue.sound.priority
  let pd := d.req.cue.sound.priority
  decide (pc < pd) || (pc == pd && Time.earlier c.time d.time)

/-- Step 3: among the ARMED and SOUNDING voices of a lower class, the leader left out: the lowest class, then the oldest
claim time, then the lowest number. -/
def stolenVoice (s : State) (r : ClaimRequest) : Option (Fin 24) :=
  (allVoices.foldl (fun (best : Option (Fin 24 × Claim)) v =>
    match (s.voice v).content.stealable with
    | none => best
    | some c =>
      if r.isLeader v || !decide (c.req.cue.sound.priority < r.cue.sound.priority) then best
      else
        match best with
        | none => some (v, c)
        | some (w, d) => if c.sooner d then some (v, c) else some (w, d)) none).map (·.1)

/-- The stealing arbiter (R80). -/
def arbiter (s : State) (r : ClaimRequest) : Option (Fin 24 × Obtained) :=
  match idleVoice s with
  | some v => some (v, .idle)
  | none =>
    match releasingVoice s with
    | some v => some (v, .releasing)
    | none => (stolenVoice s r).map fun v => (v, .stolen)

/-! ### The judgement of a claim (R62) -/

/-- What the steps of a claim decide (R62). -/
inductive Verdict where
  | take (voice : Fin 24) (way : Obtained)
  | followCancelled
  | held
  | condFalse (c : Condition)
  | already (voice : Fin 24) (claim : Half)
  | noVoice
  deriving DecidableEq, Repr

/-- The voice claim: RESTART's found voice, or the arbiter's (R65, R67). -/
def judgeVoice (s : State) (r : ClaimRequest) : Verdict :=
  let free : Verdict :=
    match arbiter s r with
    | some (v, way) => .take v way
    | none => .noVoice
  match r.cue.sound.retrigger, foundVoice s r with
  | .ignore, some (v, _) => .already v (s.voice v).claimNo
  | .restart, some (v, _) => .take v .restart
  | _, _ => free

/-- The steps of a claim in their order; the first that refuses it ends it (R62). -/
def judgeClaim (s : State) (r : ClaimRequest) : Verdict :=
  if !r.leaderOk s then .followCancelled
  else if !holdPasses s.run.hold r.source then .held
  else
    match r.cue.sound.condition with
    | some c => if c.holds s.resolver.vars then judgeVoice s r else .condFalse c
    | none => judgeVoice s r

/-! ### The voice takes the claim (R66, R67, R79) -/

/-- The pending start and late mark of a claim: none of either for an arm-only cue (R69, R70). -/
def Claim.incoming (c : Claim) : Incoming :=
  if c.req.cue.sound.armOnly then { claim := c, start := .none, lateMark := none }
  else { claim := c, start := c.req.start, lateMark := c.req.lateMark }

/-- The STOLEN report (R53, R81). -/
def stolenReport (v : Fin 24) (c : Claim) (state : Nat) (by_ : ClaimRequest) (time : Word) : Report :=
  claimReport .stolen v c time
    (toBytes 2 c.number.toNat ++ toBytes 1 state ++ toBytes 1 c.req.cue.sound.priority ++ toBytes 1 by_.cue.sound.priority)

/-- The STOLEN report arises for a steal only (R81). -/
def reportSteal (way : Obtained) (v : Fin 24) (c : Claim) (state : Nat) (r : ClaimRequest) (s : State) : State :=
  if way = .stolen then emit (stolenReport v c state r (now32 s)) s else s

/-- The outgoing cue of a voice taken while SOUNDING (R79): 480 samples and no end report for a steal, 96 samples and
reason CUT for a restart. -/
def Playing.outgoing (p : Playing) (way : Obtained) : Playing :=
  if way = .stolen then { p with fade := .release p.fadeValue 480 0, endReason := none }
  else { p with fade := .release p.fadeValue cutLength 0, endReason := some .cut }

/-- A voice takes a claim (R67, R79): the claim number advances, the head buffer is given to the new claim, and the
state changes by where the voice was. STOLEN is handed on before the FOLLOW_CANCELLED that the same steal of a leader
causes (DESIGN CHOICE, log entry 55). -/
def takeNow (v : Fin 24) (r : ClaimRequest) (way : Obtained) (s : State) : State :=
  let x := s.voice v
  let i := Claim.incoming { req := r, number := x.claimNo + 1, time := now s, obtained := way }
  let x' := { x with claimNo := x.claimNo + 1, head := [] }
  match x.content with
  | .idle => setVoice v { x' with content := .priming i } s
  | .priming old => setVoice v { x' with content := .priming i, lastEnd := some (old.claim.number, false) } s
  | .armed old =>
    reportSteal way v old.claim 2 r
      (setVoice v { x' with content := .priming i, lastEnd := some (old.claim.number, false) } s)
  | .sounding p =>
    let s := setVoice v { x' with content := .handover (p.outgoing way) i false } s
    let s := reportSteal way v p.claim 3 r (unkeyDucks v (leaveOrder v s))
    cancelFollowers v p.claim.number s
  | .releasing p => unkeyDucks v (setVoice v { x' with content := .handover p i false } s)
  | .handover p old _ =>
    setVoice v { x' with content := .handover p i false, lastEnd := some (old.claim.number, false) } s

/-- A voice takes a claim (R67, R79); one whose entry into SOUNDING is still to come completes it first (log entry 15). -/
def takeVoice (v : Fin 24) (r : ClaimRequest) (way : Obtained) (s : State) : State :=
  takeNow v r way (completeEntry v s)

/-! ### The priming request (R68, R140) -/

/-- The frames of a head (R140). -/
def SoundCue.headFrames (c : SoundCue) : Nat := min c.length Config.headFrames

/-- A cache hit: the PRESENT entry of the clip's address and format (R140). -/
def cacheHit (c : SoundCue) (s : State) : Option (List Frame) :=
  match s.cache.find? (fun e => e.address == c.clip && e.format == c.format) with
  | some e =>
    match e.state with
    | .present frames => some (frames.take c.headFrames)
    | .pending _ _ => none
  | none => none

/-- The priming request of the claim voice `v` has just taken (R68, R140). -/
def primingRequest (v : Fin 24) (c : SoundCue) (s : State) : State :=
  match cacheHit c s with
  | some frames => landHead v frames s
  | none => place (readJob (.head v (s.voice v).claimNo) c.clip.toNat (c.headFrames * c.format.size)) s

/-! ### Outcomes of a claim (R75, R76) -/

/-- The result detail of a claim that obtained voice `v` under claim number `n` (R51, R75). -/
def takenDetail (v : Fin 24) (n : Half) (way : Obtained) (r : ClaimRequest) : List Byte :=
  toBytes 1 v.val ++ toBytes 2 n.toNat ++ toBytes 1 way.code ++ toBytes 1 r.cue.level ++ signedBytes 1 r.cue.offset
    ++ toBytes 1 r.cue.hops

/-- The result detail of a claim's outcome (R51, R75). -/
def claimDetail (s : State) (r : ClaimRequest) (v : Verdict) : List Byte :=
  let level := toBytes 1 r.cue.level
  let hops := toBytes 1 r.cue.hops
  match v with
  | .take w way => takenDetail w (s.voice w).claimNo way r
  | .held => [0xFF, 0, 0] ++ toBytes 1 s.run.hold.code ++ level ++ [0] ++ hops
  | .condFalse c => [0xFF] ++ toBytes 2 s.resolver.vars[c.var].toNat ++ toBytes 1 c.var.val ++ level ++ [0] ++ hops
  | .already w n => toBytes 1 w.val ++ toBytes 2 n.toNat ++ [0] ++ level ++ [0] ++ hops
  | .noVoice => [0xFF, 0, 0] ++ toBytes 1 r.cue.sound.priority ++ level ++ [0] ++ hops
  | .followCancelled => []

/-- The result code of a claim's outcome (R75); a dropped follow-on has none, since its source is not a slot. -/
def Verdict.code : Verdict → ResultCode
  | .take _ _ => .ok
  | .followCancelled => .abandoned
  | .held => .held
  | .condFalse _ => .condFalse
  | .already _ _ => .already
  | .noVoice => .noVoice

/-- The REFUSED report (R53, R76). -/
def refusedReport (voice : Byte) (tag : Half) (entry : Selector) (code : ResultCode) (source : Source) (origin : Nat)
    (varByte value : List Byte) (time : Word) : Report :=
  { kind := .refused, voice := voice, tag := tag, selector := entry, time := time
    detail := toBytes 1 code.code ++ toBytes 1 source.code ++ toBytes 1 origin ++ varByte ++ value }

/-- The tag a REFUSED report carries (R76). -/
def ClaimRequest.refusedTag (r : ClaimRequest) : Half := if r.source = .schedule then r.tag else 0

/-- The report of a claim from a source other than the slate that ends without a voice (R74, R76). -/
def refusalReport (s : State) (r : ClaimRequest) (v : Verdict) : Report :=
  let refused (voice : Byte) (varByte value : List Byte) : Report :=
    refusedReport voice r.refusedTag r.cue.entry v.code r.source r.origin varByte value (now32 s)
  match v with
  | .followCancelled =>
    let leader := r.leader.getD (0, 0)
    followCancelledReport noVoiceByte r.cue.entry leader.1 leader.2 (now32 s)
  | .condFalse c => refused noVoiceByte (toBytes 1 c.var.val) (toBytes 2 s.resolver.vars[c.var].toNat)
  | .already w _ => refused (voiceByte w) [0] [0, 0]
  | _ => refused noVoiceByte [0] [0, 0]

/-- A schedule link is set for a scheduled claim that obtained a voice (R109). -/
def setLink (v : Fin 24) (tag : Half) (link : Option Word) (s : State) : State :=
  match link with
  | some t =>
    { s with schedule := { s.schedule with
        links := s.schedule.links.set v (some { claim := (s.voice v).claimNo, tag := tag, target := t }) } }
  | none => s

/-- A claim that obtained a voice is told to its source (R67, R75). -/
def claimTaken (v : Fin 24) (way : Obtained) (r : ClaimRequest) (n : Half) (s : State) : State :=
  match r.source with
  | .slate => giveResult r.origin .ok (takenDetail v n way r) s
  | .key => if h : r.origin < 8 then handBack ⟨r.origin, h⟩ v n s else s
  | _ => s

/-- A claim (R62): one event at the Voice Array. `link` is the target frame of a scheduled claim (R108). The reports of a
steal are handed on before the slot's result is returned (DESIGN CHOICE, log entry 63). -/
def claim (r : ClaimRequest) (link : Option Word) (s : State) : State :=
  match judgeClaim s r with
  | .take v way =>
    let n := (s.voice v).claimNo + 1
    let s := setLink v r.tag link (takeVoice v r way s)
    claimTaken v way r n (primingRequest v r.cue.sound s)
  | verdict =>
    if r.source = .slate then giveResult r.origin verdict.code (claimDetail s r verdict) s
    else emit (refusalReport s r verdict) s

/-! ### The Fire Schedule (R105 to R115) -/

/-- The distance of a target from the current frame (chapter 06). -/
def distance (target frame : Word) : Nat := (target - frame).toNat

/-- The target is ahead of the frame (chapter 00 section 5.1). -/
def isAhead (target frame : Word) : Bool :=
  decide (1 ≤ distance target frame) && decide (distance target frame ≤ 2 ^ 31 - 1)

/-- The target is 3 or more frames ahead (R106, R110). -/
def isFar (target frame : Word) : Bool := isAhead target frame && decide (3 ≤ distance target frame)

/-- A new entry goes behind every entry at the same distance or nearer (R105). -/
def insertEntry (frame : Word) (e : Entry) : List Entry → List Entry
  | [] => [e]
  | x :: xs =>
    if distance x.target frame ≤ distance e.target frame then x :: insertEntry frame e xs else e :: x :: xs

/-- Put the entry list. -/
def setEntries (es : List Entry) (s : State) : State := { s with schedule := { s.schedule with entries := es } }

/-- A claim request of the schedule (R107, R110). -/
def scheduleRequest (cue : ResolvedCue) (source : Source) (slot : Nat) (tag : Half) (start : Start)
    (lateMark : Option Word) : ClaimRequest :=
  { cue := cue, source := source, origin := slot, tag := tag, start := start, lateMark := lateMark, leader := none }

/-- The schedule's intake judges a resolved AT_FRAME fire (R106, R107). -/
def scheduleIntake (cue : ResolvedCue) (slot : Nat) (tag : Half) (target : Word) (s : State) : State :=
  let frame := s.clock.frame
  let late := (frame - target).toNat
  let level := toBytes 1 cue.level
  let hops := toBytes 1 cue.hops
  if s.run.hold = .deep then
    giveResult slot .held ([0xFF, 0, 0] ++ toBytes 1 s.run.hold.code ++ level ++ [0] ++ hops) s
  else if isFar target frame then
    if s.schedule.entries.length < 64 then
      let es := insertEntry frame { target := target, cue := cue, tag := tag, origin := slot } s.schedule.entries
      giveResult slot .queued
        (toBytes 1 es.length ++ toBytes 4 (distance target frame) ++ level ++ signedBytes 1 cue.offset ++ hops)
        (setEntries es s)
    else giveResult slot .scheduleFull ([0] ++ toBytes 4 (distance target frame) ++ level ++ [0] ++ hops) s
  else if isAhead target frame then
    claim (scheduleRequest cue .slate slot tag (.atFrame target false) none) (some target) s
  else if late ≤ cue.sound.lateAllowance then
    claim (scheduleRequest cue .slate slot tag .frame (some target)) (some target) s
  else
    giveResult slot .missed
      ([0] ++ toBytes 2 (saturate 65535 late) ++ toBytes 1 cue.sound.lateAllowance ++ [0] ++ level ++ [0] ++ hops) s

/-- The MISSED report of an entry (R53, R114). -/
def entryMissed (e : Entry) (reason lateness : Nat) (time : Word) : Report :=
  { kind := .missed, voice := noVoiceByte, tag := e.tag, selector := e.cue.entry, time := time
    detail := toBytes 1 reason ++ [0, 0, 0] ++ toBytes 4 e.target.toNat ++ toBytes 2 (saturate 65535 lateness) }

/-- A due entry is claimed or missed (R110). -/
def primeEntry (s : State) (e : Entry) : State :=
  let frame := s.clock.frame
  let late := (frame - e.target).toNat
  if isAhead e.target frame then
    claim (scheduleRequest e.cue .schedule e.origin e.tag (.atFrame e.target false) none) (some e.target) s
  else if late ≤ e.cue.sound.lateAllowance then
    claim (scheduleRequest e.cue .schedule e.origin e.tag .frame (some e.target)) (some e.target) s
  else emit (entryMissed e missedLate late (now32 s)) s

/-- The entries a boundary finds due: up to the first that is 3 or more frames ahead (R110). -/
def dueEntries (s : State) : List Entry := s.schedule.entries.takeWhile fun e => !isFar e.target s.clock.frame

/-- The entries behind them. -/
def farEntries (s : State) : List Entry := s.schedule.entries.dropWhile fun e => !isFar e.target s.clock.frame

/-- The walk of the Fire Schedule at a boundary (R110), and in a LIGHT hold (R115). Every claim it places is taken by the
Voice Array within the boundary's own event, before any other (DESIGN CHOICE, log entry 56). -/
def scheduleWalk (s : State) : State :=
  let due := dueEntries s
  let rest := farEntries s
  if s.run.hold = .light then
    let kept := due.filter fun e => isAhead e.target s.clock.frame
    let late := due.filter fun e => !isAhead e.target s.clock.frame
    late.foldl (fun t e => emit (entryMissed e missedHeld (t.clock.frame - e.target).toNat (now32 t)) t)
      (setEntries (kept ++ rest) s)
  else due.foldl primeEntry (setEntries rest s)

end Sys2Proof.Machine
end

