-- ==== Sys2Proof/Machine/Resolve.lean ====
section
/-! DEFINITION. The Cue Resolver (chapter 01, chapter 04 section 4.1): taking an item, the passes of a resolution, and
where its outcome goes. -/

namespace Sys2Proof.Machine

/-- Put the resolution in progress. -/
def setResolution (r : Option Resolution) (s : State) : State := { s with resolver := { s.resolver with current := r } }

/-- The resolution record at its start (R11): the effective level is the larger of the source level and the level the
first selector asserts, which a null selector does not (R1, R4). -/
def beginResolution (source : Source) (origin : Nat) (tag : Half) (purpose : Purpose) (selector : Selector)
    (sourceLevel : Nat) (offset : Int) (leader : Option (Fin 24 × Half)) : Resolution :=
  { source := source, origin := origin, tag := tag, purpose := purpose, entry := selector, current := selector
    direct := true, level := max sourceLevel selector.asserted, offset := offset, hops := 0
    lastDescriptor := none, lastCue := none, clipLength := 0, phase := .readingDescriptor, leader := leader }

/-! ### Outcomes (R15, R16, R19) -/

/-- The condition field of a PROBE detail (R51): 0 ABSENT, 1 TRUE, 2 FALSE. -/
def conditionCode (vars : Vector Half 32) : Option Condition → Nat
  | none => 0
  | some c => if c.holds vars then 1 else 2

/-- The result detail in the form of PROBE (R19, R51). -/
def probeDetail (r : Resolution) (condition : Nat) : List Byte :=
  toBytes 1 (sheetKindCode r.lastDescriptor) ++ toBytes 1 (sheetRightsCode r.lastDescriptor)
    ++ toBytes 1 (cueKindCode r.lastCue) ++ toBytes 3 r.clipLength ++ toBytes 1 r.level
    ++ toBytes 1 (r.hops + 16 * condition)

/-- A resolution ends with an outcome other than OK (R16): the resolver is free, and the source is told. -/
def endResolution (r : Resolution) (code : ResultCode) (s : State) : State :=
  let s := setResolution none s
  if r.source = .slate then giveResult r.origin code (probeDetail r 0) s
  else emit (refusedReport noVoiceByte 0 r.entry code r.source r.origin [0] [0, 0] (now32 s)) s

/-- The resolved SOUND cue (R14). -/
def Resolution.resolved (r : Resolution) (c : SoundCue) : ResolvedCue :=
  { sheet := r.current.sheet, cue := r.current.cue, entry := r.entry, sound := c, level := r.level, offset := r.offset
    hops := r.hops }

/-- The claim request of a resolution that is claimed at once (R62). -/
def Resolution.request (r : Resolution) (c : SoundCue) (start : Start) : ClaimRequest :=
  { cue := r.resolved c, source := r.source, origin := r.origin, tag := r.tag, start := start, lateMark := none
    leader := r.leader }

/-- An outcome of OK is handed on according to the purpose (R15); the resolver is free. -/
def handOnCue (r : Resolution) (c : SoundCue) (s : State) : State :=
  let s := setResolution none s
  match r.purpose with
  | .probe => giveResult r.origin .ok (probeDetail r (conditionCode s.resolver.vars c.condition)) s
  | .prime => claim (r.request c .none) none s
  | .fire (.atFrame target _) => scheduleIntake (r.resolved c) r.origin r.tag target s
  | .fire start => claim (r.request c start) none s

/-! ### Passes (R12, R13) -/

/-- A pass begins in CHECKING (R12): the null test, the directory test, and the descriptor read. -/
def beginPass (r : Resolution) (s : State) : State :=
  if r.current.isNull then endResolution r .nullRef s
  else if (header s).directoryCount ≤ r.current.sheet.toNat then endResolution r .limit s
  else
    place (readJob (.descriptor r.origin) ((header s).directory + 8 * r.current.sheet.toNat) 8)
      (setResolution (some { r with phase := .readingDescriptor }) s)

/-- The checks on a descriptor in their order: the code of the first that fails (R12). -/
def descriptorCheck (live : BitVec 64) (r : Resolution) (d : Descriptor) : Option ResultCode :=
  if !d.present then some .notPresent
  else if d.kind = .invalid then some .type
  else if d.kind = .library ∧ r.direct then some .type
  else if d.rights < r.level then some .rights
  else if d.kind = .play ∧ !live.getLsbD r.current.sheet.toNat then some .notLive
  else if d.count ≤ r.current.cue.toNat then some .limit
  else none

/-- A descriptor read completes (R12). -/
def descriptorRead (r : Resolution) (d : Descriptor) (s : State) : State :=
  let r := { r with lastDescriptor := some d }
  match descriptorCheck s.resolver.live r d with
  | some code => endResolution r code s
  | none =>
    place (readJob (.cue r.origin) (d.base + 32 * r.current.cue.toNat) 32)
      (setResolution (some { r with phase := .readingCue }) s)

/-- The resolution record after a LINK is followed (R13); a null target asserts no level (R1). -/
def Resolution.follow (r : Resolution) (l : LinkCue) : Resolution :=
  { r with
    level := max r.level (max l.carry l.target.asserted), offset := clampOffset (r.offset + l.offset)
    current := l.target, direct := false }

/-- A cue record read completes (R12 to R14). -/
def cueRead (r : Resolution) (c : CueRecord) (s : State) : State :=
  let r := { r with lastCue := some c.kind, clipLength := c.storedLength }
  match c with
  | .empty => endResolution r .notPresent s
  | .invalid => endResolution r .type s
  | .link l =>
    let r := { r with hops := r.hops + 1 }
    if r.hops = 5 then endResolution r .linkDepth s else beginPass (r.follow l) s
  | .badSound _ => endResolution r .badCue s
  | .sound c => handOnCue r c s

/-- A resolver read ends while a resolution waits for it in this phase; a read whose resolution was abandoned delivers
nothing (R18). A memory error goes to Fault Capture and ends the resolution (R17), in that order: the fault record write
stands before the completion write or the REFUSED report (DESIGN CHOICE, log entry 63). -/
def resolverReadDone (phase : Phase) (read : Resolution → List Byte → State → State) (j : Job) (bad : Bool) (s : State) :
    State :=
  let s := if bad then captureJob .read j s else s
  match s.resolver.current with
  | none => s
  | some r =>
    if r.phase = phase then (if bad then endResolution r .memoryError s else read r (readData j s) s) else s

/-! ### Taking an item (R57) -/

/-- The resolver takes items: it is free and the part is RUNNING (R57). -/
def resolverFree (s : State) : Bool := isRunning s && s.resolver.current.isNone

/-- The resolver would take the head of the slate intake queue: nothing waits in the internal and line intakes (R57). -/
def slateTurn (s : State) : Bool := resolverFree s && s.resolver.follows.isEmpty && s.resolver.lines.isEmpty

/-- A resolution from the slate begins (R60, R61, R19). -/
def takeSlate (t : Taken) (purpose : Purpose) (selector : Selector) (offset : Int) (s : State) : State :=
  beginPass (beginResolution .slate t.slot (slotTag t.bytes) purpose selector (slotLevel t.bytes) offset none) s

/-- A resolution of a follow-on request begins (R73). -/
def takeFollow (f : FollowOn) (s : State) : State :=
  beginPass (beginResolution .followOn f.leader.val 0 (.fire (.exact f.stop)) f.selector f.level 0
    (some (f.leader, f.claim))) s

/-- A resolution of a line fire begins (R56). -/
def takeLine (f : LineFire) (s : State) : State :=
  beginPass (beginResolution f.source f.origin 0 (.fire (if f.frame then .frame else .immediate)) f.selector f.level 0
    none) s

/-- The resolver takes from the internal intake, then from the line intake (R57). -/
def takeItem (s : State) : State :=
  if resolverFree s then
    match s.resolver.follows with
    | f :: fs => takeFollow f { s with resolver := { s.resolver with follows := fs } }
    | [] =>
      match s.resolver.lines with
      | f :: fs => takeLine f { s with resolver := { s.resolver with lines := fs } }
      | [] => s
  else s

end Sys2Proof.Machine
end

