-- ==== Sys2Proof/Machine/Trigger.lean ====
section
/-! DEFINITION. The Trigger Unit (chapter 07): qualifiers, line and key events, the event queue, rule evaluation, arrival
groups, the key map, and the release of a hold by its line (R169). -/

namespace Sys2Proof.Machine

/-! ### Qualifiers (R119, R120) -/

/-- One sample of a qualifier that sees level `l` with qualify count `q` (R119): the count advances only if the input was
at that other level at the previous sample too, and the edge is due when the count reaches the qualify count. -/
def Qualifier.tick (q : Nat) (l : Bool) (x : Qualifier) : Qualifier :=
  if l = x.level then { x with seen := l, count := 0, due := false }
  else if x.seen = l then { x with seen := l, count := x.count + 1, due := decide (q ≤ x.count + 1) }
  else { x with seen := l, count := 0, due := false }

/-- A due edge is taken (R119): the qualified level becomes the level seen. -/
def Qualifier.take (x : Qualifier) : Qualifier := { x with level := x.seen, count := 0, due := false }

/-- Put the Trigger Unit. -/
def setTrigger (t : Trigger) (s : State) : State := { s with trigger := t }

/-- Every qualifier sees the levels of this sample (R119, R120). -/
def sampleInputs (p : Pins) (s : State) : State :=
  let t := s.trigger
  setTrigger { t with
    lines := Vector.ofFn fun i : Fin 16 => t.lines[i].tick t.qualify[i] (p.lines.getLsbD i.val)
    keys := Vector.ofFn fun i : Fin 8 => t.keys[i].tick Config.keyQualify (p.keys.getLsbD i.val) } s

/-! ### Events (R122, R123) -/

/-- The event sample (R122). -/
def Event.time : Event → Time
  | .line _ _ t => t
  | .key _ _ t => t

/-- The input kind of an event (R53): 0 LINE, 1 KEY. -/
def Event.inputKind : Event → Nat
  | .line _ _ _ => 0
  | .key _ _ _ => 1

/-- The line or key number of an event. -/
def Event.number : Event → Nat
  | .line n _ _ => n.val
  | .key n _ _ => n.val

/-- The edge code of an event (R53): 0 ASSERT or press, 1 DEASSERT or release. -/
def Event.edgeCode : Event → Nat
  | .line _ up _ => if up then 0 else 1
  | .key _ up _ => if up then 0 else 1

/-- TRIGGER_DROPPED cause INTAKE_FULL (R53). -/
def dropIntakeFull : Nat := 0

/-- TRIGGER_DROPPED cause QUEUE_FULL (R53). -/
def dropQueueFull : Nat := 1

/-- The TRIGGER_DROPPED report (R53, R135). -/
def droppedReport (cause : Nat) (selector : Selector) (e : Event) (rule : Nat) : Report :=
  { kind := .triggerDropped, voice := noVoiceByte, tag := 0, selector := selector, time := e.time.setWidth 32
    detail := toBytes 1 cause ++ toBytes 1 e.inputKind ++ toBytes 1 e.number ++ toBytes 1 e.edgeCode ++ toBytes 1 rule }

/-- A fire is appended to the line intake, or dropped when that holds 16 (R56, R127, R133). `rule` is the rule index of
the report, 0xFF for a key. -/
def placeLineFire (f : LineFire) (e : Event) (rule : Nat) (s : State) : State :=
  if s.resolver.lines.length < 16 then { s with resolver := { s.resolver with lines := s.resolver.lines ++ [f] } }
  else emit (droppedReport dropIntakeFull f.selector e rule) s

/-! ### Arrival groups and rule actions (R126 to R130) -/

/-- Reopen the arrival groups named in a mask (R129). -/
def reopenGroups (mask : BitVec 8) (s : State) : State :=
  setTrigger { s.trigger with
    groups := Vector.ofFn fun g : Fin 8 => if mask.getLsbD g.val then none else s.trigger.groups[g] } s

/-- Put a show variable; a number of 32 or more names none. -/
def setVariable (v : Nat) (x : Half) (s : State) : State :=
  if h : v < 32 then { s with resolver := { s.resolver with vars := s.resolver.vars.set v x } } else s

/-- A show variable; 0 for a number that names none. -/
def variableAt (v : Nat) (s : State) : Half := if h : v < 32 then s.resolver.vars[v] else 0

/-- A sum of two 16-bit numbers, or 65,535 if it would exceed that (R59, R128). -/
def addHalf (x y : Half) : Half := BitVec.ofNat 16 (saturate 65535 (x.toNat + y.toNat))

/-- A difference of two 16-bit numbers, or 0 if it would be negative (R59). -/
def subHalf (x y : Half) : Half := BitVec.ofNat 16 (x.toNat - y.toNat)

/-- An exclusive group RELEASE GROUP may name (R92, R128). -/
def groupValid (g : Nat) : Bool := decide (1 ≤ g) && decide (g ≤ 15)

/-- A rule's action is carried out (R127, R128). -/
def ruleAction (i : Nat) (r : Rule) (e : Event) (a : RuleAction) (s : State) : State :=
  match a with
  | .fire sel =>
    placeLineFire { source := .rule, origin := i, selector := sel, level := r.level, frame := r.frame } e i s
  | .releaseGroup g => if groupValid g then releaseGroup g s else s
  | .cutLast => cutLastVoice s
  | .varAdd v x => setVariable v (addHalf (variableAt v s) x) s
  | .varSet v x => setVariable v x s
  | .reopen mask => reopenGroups mask s

/-- The selector WON and LOCKED_OUT carry (R130). -/
def RuleAction.selector : RuleAction → Selector
  | .fire sel => sel
  | _ => Selector.null

/-- A WON or LOCKED_OUT report (R53, R130). -/
def groupReport (kind : ReportKind) (a : RuleAction) (at_ : Time) (detail : List Byte) : Report :=
  { kind := kind, voice := noVoiceByte, tag := 0, selector := a.selector, time := at_.setWidth 32, detail := detail }

/-- Put the winner of an arrival group. -/
def closeGroup (g : Fin 8) (w : Winner) (s : State) : State :=
  setTrigger { s.trigger with groups := s.trigger.groups.set g (some w) } s

/-- A matching rule of arrival group `g` (R126). -/
def consultGroup (g : Fin 8) (i : Nat) (r : Rule) (a : RuleAction) (n : Fin 16) (up : Bool) (at_ : Time) (s : State) :
    State :=
  match s.trigger.groups[g] with
  | none =>
    let s := closeGroup g { line := n, sample := at_, rule := i } (ruleAction i r (.line n up at_) a s)
    emit (groupReport .won a at_
      (toBytes 1 (g.val + 1) ++ toBytes 1 n.val ++ toBytes 1 (if up then 0 else 1) ++ toBytes 1 i)) s
  | some w =>
    emit (groupReport .lockedOut a at_
      (toBytes 1 (g.val + 1) ++ toBytes 1 n.val ++ toBytes 1 i ++ toBytes 1 w.line.val
        ++ toBytes 2 (saturate 65535 (at_ - w.sample).toNat))) s

/-! ### Evaluation (R125) -/

/-- A rule's edge takes this event (R125). -/
def RuleEdge.takes (e : RuleEdge) (up : Bool) : Bool :=
  match e with
  | .assert => up
  | .deassert => !up
  | .both => true

/-- The tests of R125 but for the validity of the action. -/
def ruleMatches (i : Nat) (r : Rule) (n : Fin 16) (up : Bool) (s : State) : Bool :=
  s.trigger.armed.getLsbD i && r.sources.getLsbD n.val && r.edge.takes up
    && conditionPasses s.resolver.vars r.guardCond

/-- A line event is evaluated against the rules from index `i` on (R125). -/
def evaluateRules (n : Fin 16) (up : Bool) (at_ : Time) : Nat → List Rule → State → State
  | _, [], s => s
  | i, r :: rs, s =>
    match r.action with
    | none => evaluateRules n up at_ (i + 1) rs s
    | some a =>
      if ruleMatches i r n up s then
        let s := match r.group with
          | none => ruleAction i r (.line n up at_) a s
          | some g => consultGroup g i r a n up at_ s
        if r.continues then evaluateRules n up at_ (i + 1) rs s else s
      else evaluateRules n up at_ (i + 1) rs s

/-! ### Keys (R133, R134) -/

/-- Put a key's hold-to-play link. -/
def setHoldLink (k : Fin 8) (l : Option (Fin 24 × Half)) (s : State) : State :=
  setTrigger { s.trigger with holdLinks := s.trigger.holdLinks.set k l } s

/-- A key press fires the key map's selector (R133). -/
def keyPress (k : Fin 8) (at_ : Time) (s : State) : State :=
  placeLineFire { source := .key, origin := k.val, selector := s.trigger.keyMap[k].selector, level := 0, frame := false }
    (.key k true at_) 255 s

/-- A key release acts through the key's hold-to-play link (R134). -/
def keyRelease (k : Fin 8) (s : State) : State :=
  match s.trigger.holdLinks[k] with
  | some (v, c) =>
    let s := setHoldLink k none s
    if s.trigger.keyMap[k].holdToPlay then holdToPlayRelease v c s else s
  | none => s

/-- An event is taken whole (R122). -/
def takeEvent (e : Event) (s : State) : State :=
  match e with
  | .line n up at_ => evaluateRules n up at_ 0 s.trigger.rules s
  | .key k up at_ => if up then keyPress k at_ s else keyRelease k s

/-! ### Where an event goes (R122, R123) -/

/-- A scene switch is in LOADING (R171). -/
def isLoading (s : State) : Bool :=
  match s.run.switch with
  | some w => w.phase == .loading
  | none => false

/-- Put the event queue. -/
def setQueue (q : List Event) (s : State) : State := setTrigger { s.trigger with queue := q } s

/-- An event that arises is discarded, taken at once, or joins the event queue (R122, R123). -/
def raiseEvent (e : Event) (s : State) : State :=
  if !isRunning s then s
  else if isLoading s || !s.trigger.queue.isEmpty then
    if s.trigger.queue.length < 16 then setQueue (s.trigger.queue ++ [e]) s
    else emit (droppedReport dropQueueFull Selector.null e 255) s
  else takeEvent e s

/-- The head of the event queue is taken, one per sample, while no switch is in LOADING (R123). Where an earlier drain has
already taken an event at the sample of a commit or abandonment, R123 gives both the head at that sample and one event per
sample; the head then waits for the next sample (DESIGN CHOICE, log entry 70). -/
def takeQueued (s : State) : State :=
  if isRunning s && !isLoading s && !s.trigger.queueTaken then
    match s.trigger.queue with
    | [] => s
    | e :: q => takeEvent e (setTrigger { s.trigger with queue := q, queueTaken := true } s)
  else s

/-! ### Holds (R169) -/

/-- The HOLD_RELEASED report (R53, R169). -/
def holdReleasedReport (previous : HoldState) (tag : Half) (cause : HoldRelease) (time : Word) : Report :=
  { kind := .holdReleased, voice := noVoiceByte, tag := tag, selector := Selector.null, time := time
    detail := toBytes 1 previous.code ++ toBytes 1 cause.code ++ toBytes 1 cause.lineCode }

/-- The hold is left (R169). -/
def leaveHold (tag : Half) (cause : HoldRelease) (s : State) : State :=
  emit (holdReleasedReport s.run.hold tag cause (now32 s)) { s with run := { s.run with hold := .none, release := none } }

/-- An edge of line `n` is handed to Run Control (R169). -/
def holdEdge (n : Fin 16) (up : Bool) (s : State) : State :=
  if up && s.run.release == some (.line n) && s.run.hold != .none then leaveHold 0 (.line n) s else s

/-! ### Taken edges -/

/-- A due edge of a trigger line is taken (R119, R121, R122): the change of level is handed to the duck groups and to Run
Control, and the line event arises. Run Control comes before the rules, so a HOLD_RELEASED of this edge stands before the
reports of its line event (DESIGN CHOICE, log entry 58). -/
def lineEdge (n : Fin 16) (s : State) : State :=
  let q := s.trigger.lines[n]
  if q.due then
    let s := setTrigger { s.trigger with lines := s.trigger.lines.set n q.take } s
    raiseEvent (.line n q.seen (now s)) (holdEdge n q.seen (rejudgeDucks s))
  else s

/-- A due edge of a panel key is taken (R120, R122). -/
def keyEdge (k : Fin 8) (s : State) : State :=
  let q := s.trigger.keys[k]
  if q.due then
    let s := setTrigger { s.trigger with keys := s.trigger.keys.set k q.take } s
    raiseEvent (.key k q.seen (now s)) s
  else s

end Sys2Proof.Machine
end

