-- ==== Sys2Proof/Machine/Clock.lean ====
section
/-! DEFINITION. The Frame Clock's arithmetic and lock monitor (chapter 02). What a boundary hands to its consumers stands
in Boundary.lean. -/

namespace Sys2Proof.Machine

/-! ### Rates and predicted boundaries (R22, R23) -/

/-- N of a rate code (R22). -/
def rateN (r : Fin 7) : Nat :=
  match r.val with
  | 0 => 2000 | 1 => 1920 | 2 => 8008 | 3 => 1600 | 4 => 960 | 5 => 4004 | _ => 800

/-- D of a rate code (R22). -/
def rateD (r : Fin 7) : Nat :=
  match r.val with
  | 2 => 5
  | 5 => 5
  | _ => 1

/-- The show time of the boundary with index `j` after the epoch (R23). -/
def Clock.boundaryAt (c : Clock) (j : Nat) : Time := c.epoch + BitVec.ofNat 40 (j * rateN c.rate / rateD c.rate)

/-- The next predicted boundary (R23). -/
def Clock.next (c : Clock) : Time := c.boundaryAt (c.k + 1)

/-- The boundary just made (R23). -/
def Clock.last (c : Clock) : Time := c.boundaryAt c.k

/-- k is kept bounded (R23): at index D times 65,536 the epoch moves to the boundary just made. -/
def Clock.reduce (c : Clock) : Clock :=
  if c.k = rateD c.rate * 2 ^ 16 then
    { c with k := 0, epoch := c.epoch + BitVec.ofNat 40 (rateN c.rate * 2 ^ 16) }
  else c

/-- Put the clock. -/
def setClock (c : Clock) (s : State) : State := { s with clock := c }

/-! ### Windows (R24) -/

/-- This sample lies in the window of the next predicted boundary (R24). -/
def Clock.inNextWindow (c : Clock) : Bool :=
  decide ((c.showTime - (c.next - BitVec.ofNat 40 Config.windowReach)).toNat ≤ 2 * Config.windowReach)

/-- A pulse at this sample is inside the window (R24). -/
def Clock.inside (c : Clock) : Bool := c.inNextWindow || c.lastOpen

/-- The windows this sample lies in have held a pulse (R26). -/
def Clock.markPulse (c : Clock) : Clock :=
  { c with held := c.held || c.inNextWindow, lastHeld := c.lastHeld || c.lastOpen }

/-- The boundary just made lies at this sample and opens its own window; the flag of the next window moves to it. -/
def Clock.openWindow (c : Clock) : Clock := { c with lastHeld := c.held, held := false, lastOpen := true }

/-! ### Lock state (R25 to R31) -/

/-- The REF_STATE report (R31, R53). -/
def refStateReport (old new : LockState) (cause : RefCause) (time : Word) : Report :=
  { kind := .refState, voice := noVoiceByte, tag := 0, selector := Selector.null, time := time
    detail := toBytes 1 old.code ++ toBytes 1 new.code ++ toBytes 1 cause.code }

/-- The lock state changes: both runs go to 0, with a REF_STATE report when the part is RUNNING (R31). -/
def changeLock (new : LockState) (cause : RefCause) (s : State) : State :=
  let old := s.clock.lock
  let s := setClock { s.clock with lock := new, stray := 0, missing := 0 } s
  if isRunning s then emit (refStateReport old new cause (now32 s)) s else s

/-- The epoch is set to this sample; the old prediction's windows end with it (R30, R32). -/
def Clock.epochHere (c : Clock) : Clock := { c with epoch := c.showTime, k := 0, held := false, lastHeld := false, lastOpen := false }

/-- The new rate is put in force at this sample, without a boundary, and the state drops to SEEKING (R32, R33). -/
def changeRate (code : Fin 7) (s : State) : State :=
  let s := setClock { s.clock.epochHere with rate := code } s
  if s.clock.lock = .seeking then setClock { s.clock with stray := 0, missing := 0 } s
  else changeLock .seeking .rateChange s

/-- The Frame Clock is given the header's rate code at STARTING (R33). -/
def startRate (code : Nat) (s : State) : State :=
  if h : code < 7 then (if s.clock.rate = ⟨code, h⟩ then s else changeRate ⟨code, h⟩ s) else s

/-- A stray pulse in LOCKED (R27). -/
def strayPulse (s : State) : State :=
  if s.clock.stray + 1 = 3 then changeLock .seeking .strayLimit s
  else setClock { s.clock with stray := s.clock.stray + 1 } s

/-- A window closed in LOCKED without a pulse (R28). -/
def missedWindow (s : State) : State :=
  let s := setClock { s.clock with lastOpen := false } s
  if s.clock.missing + 1 = 10 then changeLock .holdover .missingLimit s
  else setClock { s.clock with missing := s.clock.missing + 1 } s

/-- A window closes at this sample in LOCKED without having held a pulse, a pulse at this very sample included (R28). -/
def windowCloseDue (s : State) : Bool :=
  s.clock.lock == .locked && s.clock.lastOpen && !s.clock.lastHeld && !s.clock.refEdge
    && s.clock.showTime == s.clock.last + BitVec.ofNat 40 Config.windowReach

/-- A boundary has already been made at this sample (R23, R30). -/
def Clock.madeHere (c : Clock) : Bool :=
  match c.boundary with
  | some b => b.sample == c.showTime
  | none => false

/-- The predicted boundary falls at this sample and none has been made at it (R23). A pulse still to be taken in SEEKING
makes the boundary of this sample itself (R30, log entry 32). -/
def predictedDue (s : State) : Bool :=
  s.clock.showTime == s.clock.next && !s.clock.madeHere && !(s.clock.refEdge && s.clock.lock == .seeking)

end Sys2Proof.Machine
end

