-- ==== Sys2Proof/Machine/Fetch.lean ====
section
/-! DEFINITION. The Memory Port and Fetch Unit's audio side (chapter 08): refills, the completion of HEAD, REFILL and PIN
jobs, UNLOOP's realignment, and the head cache. -/

namespace Sys2Proof.Machine

/-! ### Refills (R142, R143) -/

/-- A refill is placed for a voice when all of R142 holds. Refills are placed in RUNNING and STOPPING; in FAILED and STOPPED
none is (R37, R150). A cue still fading from FAILED through a new STARTING gets none there either (DESIGN CHOICE, log entry
66). -/
def refillDue (s : State) (x : Voice) : Bool :=
  match x.content.playing with
  | some p =>
    isActive s && x.feeding.isSome && decide (x.stream.length ≤ Config.refillThreshold) && !x.refillPending
      && !x.refillFailed && (p.loopActive || decide (x.fetchPosition < p.sound.length))
  | none => false

/-- The frame a refill may not pass (R142): the loop end while the loop is active and ahead, else the clip length. -/
def Playing.fetchLimit (p : Playing) (position : Nat) : Nat :=
  match p.sound.loop with
  | some l => if p.loopActive ∧ position < l.stop then l.stop else p.sound.length
  | none => p.sound.length

/-- The REFILL job of a voice (R142). -/
def refillJob (v : Fin 24) (p : Playing) (claim : Half) (position : Nat) : Job :=
  let frames := min Config.refillFrames (p.fetchLimit position - position)
  readJob (.refill v claim position frames false) (p.sound.clip.toNat + position * p.sound.format.size)
    (frames * p.sound.format.size)

/-- The refill test of one voice (R142). -/
def placeRefill (s : State) (v : Fin 24) : State :=
  let x := s.voice v
  if refillDue s x then
    match x.content.playing, x.feeding with
    | some p, some c => place (refillJob v p c x.fetchPosition) (setVoice v { x with refillPending := true } s)
    | _, _ => s
  else s

/-- The refill test of every voice (R142), in ascending number: where several refills fall due at one sample with the port
idle, the lowest voice's is placed first and so taken (DESIGN CHOICE, log entry 68). -/
def placeRefills (s : State) : State := allVoices.foldl placeRefill s

/-- The fetch position after a refill of `n` frames (R143): at the loop end an active loop returns to its start. -/
def Playing.fetched (p : Playing) (position : Nat) : Nat :=
  match p.sound.loop with
  | some l => if p.loopActive ∧ position = l.stop then l.start else position
  | none => position

/-- The MEMORY_FAULT report (R53, R145); job kind 0 HEAD, 1 REFILL. -/
def memoryFaultReport (v : Fin 24) (c : Claim) (kind : Nat) (address time : Word) : Report :=
  claimReport .memoryFault v c time
    (toBytes 1 kind ++ [0] ++ toBytes 2 c.number.toNat ++ toBytes 4 address.toNat)

/-- A REFILL failed that was not stale (R98, R145): the voice is cut, and no further refill is placed for its cue.
MEMORY_FAULT is handed on before the FOLLOW_CANCELLED and ENDED reports that the cut causes (DESIGN CHOICE, log entry
64). -/
def refillFault (v : Fin 24) (p : Playing) (j : Job) (s : State) : State :=
  let s := setVoice v { s.voice v with refillFailed := true } s
  cutVoice v (tell p (memoryFaultReport v p.claim 1 (addressWord s j.address) (now32 s)) (nextFree s))

/-- The frames of a refill reach the stream buffer (R143). -/
def refillLanded (v : Fin 24) (p : Playing) (frames : Nat) (j : Job) (s : State) : State :=
  let x := s.voice v
  setVoice v { x with
    stream := x.stream ++ decodeFrames p.sound.format frames x.fetchPosition (readData j s)
    fetchPosition := p.fetched (x.fetchPosition + frames) } s

/-- A REFILL job completes (R143, R145). -/
def refillDone (j : Job) (bad : Bool) (s : State) : State :=
  match j.kind with
  | .refill v _ _ frames _ =>
    let s := if bad then captureJob .read j s else s
    let stale := refillStale s j
    let s := setVoice v { s.voice v with refillPending := false } s
    let s :=
      match (s.voice v).content.playing with
      | some p => if stale then s else if bad then refillFault v p j s else refillLanded v p frames j s
      | none => s
    placeRefill s v
  | _ => s

/-! ### Heads (R140, R145) -/

/-- A HEAD failed that was not stale (R145): the claim is withdrawn with MEMORY_FAULT. -/
def headFault (v : Fin 24) (i : Incoming) (j : Job) (s : State) : State :=
  emit (memoryFaultReport v i.claim 0 (addressWord s j.address) (now32 s)) (withdraw v (nextFree s))

/-- A HEAD job completes (R140, R145). -/
def headDone (j : Job) (bad : Bool) (s : State) : State :=
  match j.kind with
  | .head v _ =>
    let s := if bad then captureJob .read j s else s
    if headStale s j then s
    else
      match (s.voice v).content.incoming with
      | some i =>
        if bad then headFault v i j s
        else landHead v (decodeFrames i.sound.format i.sound.headFrames 0 (readData j s)) s
      | none => s
  | _ => s

/-! ### UNLOOP (R144) -/

/-- The frames before the first return from the frame before the loop end to the loop start (R144). -/
def beforeReturn (l : Loop) : List Frame → List Frame
  | [] => []
  | [f] => [f]
  | f :: g :: r =>
    if f.index + 1 = l.stop ∧ g.index = l.start then [f] else f :: beforeReturn l (g :: r)

/-- The clip frame that follows the last frame kept, or the frame played next when none is kept (R144). -/
def fetchAfter (position : Nat) (kept : List Frame) : Nat :=
  match kept.getLast? with
  | some f => f.index + 1
  | none => position

/-- Void the refill in flight of voice `v` (R144). -/
def voidFlight (v : Fin 24) (j : Job) : Job :=
  match j.kind with
  | .refill w c first frames _ => if w = v then { j with kind := .refill w c first frames true } else j
  | _ => j

/-- The REFILL job of voice `v`. -/
def JobKind.refills (v : Fin 24) : JobKind → Bool
  | .refill w _ _ _ _ => w == v
  | _ => false

/-- A refill of voice `v` is in flight. -/
def refillInFlight (v : Fin 24) (s : State) : Bool :=
  match s.port.inFlight with
  | some j => j.kind.refills v
  | none => false

/-- The voice's refill is voided: a queued one is removed, one in flight will be discarded (R144). -/
def voidRefill (v : Fin 24) (s : State) : State :=
  let s := { s with port := { s.port with
    inFlight := s.port.inFlight.map (voidFlight v), refill := s.port.refill.filter fun j => !j.kind.refills v } }
  setVoice v { s.voice v with refillPending := refillInFlight v s } s

/-- The frames of the stream buffer that UNLOOP keeps (R144). -/
def Playing.kept (p : Playing) (stream : List Frame) : List Frame :=
  match p.sound.loop with
  | some l => beforeReturn l stream
  | none => stream

/-- The Fetch Unit takes UNLOOP (R144): the refill is voided, and the stream buffer and the fetch position are brought
back into clip order. -/
def realign (v : Fin 24) (p : Playing) (s : State) : State :=
  let s := voidRefill v s
  let x := s.voice v
  let kept := p.kept x.stream
  setVoice v { x with stream := kept, fetchPosition := fetchAfter p.position kept } s

/-! ### The head cache (R147 to R150) -/

/-- Put the head cache. -/
def setCache (c : List CacheEntry) (s : State) : State := { s with cache := c }

/-- The entry with a clip address (R147). -/
def cacheEntry (a : Word) (s : State) : Option CacheEntry := s.cache.find? fun e => e.address == a

/-- Remove the entry with a clip address. -/
def dropEntry (a : Word) (s : State) : State := setCache (s.cache.filter fun e => e.address != a) s

/-- Replace the state of the entry with a clip address. -/
def setEntry (a : Word) (c : CacheState) (s : State) : State :=
  setCache (s.cache.map fun e => if e.address = a then { e with state := c } else e) s

/-- The slot that owns a PENDING entry. -/
def CacheState.owner : CacheState → Option Nat
  | .pending slot _ => some slot
  | .present _ => none

/-- The dropping flag of an entry (R147). -/
def CacheState.dropping : CacheState → Bool
  | .pending _ d => d
  | .present _ => false

/-- The codes of R51: 0 PENDING, 1 PRESENT. -/
def CacheState.code : CacheState → Nat
  | .pending _ _ => 0
  | .present _ => 1

/-- The PIN job of a slot is in flight. -/
def pinInFlight (slot : Nat) (s : State) : Bool :=
  match s.port.inFlight with
  | some j => j.kind == .pin slot
  | none => false

/-- Any PIN job is in flight (R167). -/
def anyPinInFlight (s : State) : Bool :=
  match s.port.inFlight with
  | some j => j.kind.cls == .pin
  | none => false

/-- A PIN job completes (R148, R149). A fault is captured before the result is returned (DESIGN CHOICE, log entry 63). -/
def pinDone (j : Job) (bad : Bool) (s : State) : State :=
  match j.kind with
  | .pin slot =>
    let failing := addressWord s j.address
    let s := if bad then captureJob .read j s else s
    match s.cache.find? fun e => e.state.owner == some slot with
    | none => s
    | some e =>
      if e.state.dropping then giveResult slot .abandoned [] (dropEntry e.address s)
      else if bad then
        giveResult slot .memoryError ([0, 0, 0, 0] ++ toBytes 4 failing.toNat) (dropEntry e.address s)
      else
        giveResult slot .ok (toBytes 1 s.cache.length ++ toBytes 1 e.format.code)
          (setEntry e.address (.present (decodeFrames e.format Config.headFrames 0 (readData j s))) s)
  | _ => s

/-- The PENDING entries whose jobs are still queued. -/
def queuedPins (s : State) : List CacheEntry :=
  s.cache.filter fun e =>
    match e.state with
    | .pending slot _ => !pinInFlight slot s
    | .present _ => false

/-- Entry into DEEP hold at the Fetch Unit (R150, R168): the head cache is emptied, and the PIN jobs still queued are
removed with their slots ABANDONED. No PIN job is in flight then (R167). -/
def deepHoldCache (s : State) : State :=
  let slots := (queuedPins s).filterMap fun e => e.state.owner
  slots.foldl (fun t i => giveResult i .abandoned [] t) (setCache [] { s with port := { s.port with pin := [] } })

/-- Entry into STOPPING or FAILED at the head cache (R150): PRESENT entries stay, PENDING entries with queued jobs go, and
the entry whose job is in flight goes when it completes. -/
def stopCache (s : State) : State :=
  let kept := s.cache.filterMap fun e =>
    match e.state with
    | .present _ => some e
    | .pending slot _ => if pinInFlight slot s then some { e with state := .pending slot true } else none
  setCache kept { s with port := { s.port with pin := [] } }

end Sys2Proof.Machine
end

