-- ==== Sys2Proof/Machine/Scenes.lean ====
section
/-! DEFINITION. Starting, failing and stopping the part, and Run Control's scene switch (chapters 03 section 3.2 and 10):
these call each other, since the initial scene is a step of a start. -/

namespace Sys2Proof.Machine

/-- Put the part state. -/
def setPart (p : PartState) (s : State) : State := { s with regs := { s.regs with part := p } }

/-- Put the start fault code. -/
def setStartFault (f : StartFault) (s : State) : State := { s with regs := { s.regs with startFault := f } }

/-- Put the switch record and the staging copy. -/
def setSwitch (w : Option Switch) (staging : Option SceneRecord) (s : State) : State :=
  { s with run := { s.run with switch := w, staging := staging } }

/-! ### Shared parts of stopping and failing (R39, R40) -/

/-- The Cue Resolver's intakes are emptied and its resolution abandoned; its queued reads go with it (R18, R39, R40). -/
def stopResolver (s : State) : State :=
  { s with resolver := { s.resolver with follows := [], lines := [], current := none }
           port := { s.port with resolver := [] } }

/-- The Fire Schedule is emptied without reports (R118). -/
def stopSchedule (s : State) : State := { s with schedule := Schedule.reset }

/-- The Trigger Unit when the part leaves RUNNING (R123, R134, R137). -/
def stopTrigger (s : State) : State :=
  setTrigger { s.trigger with queue := [], queueTaken := false, holdLinks := Vector.replicate 8 none } s

/-- A start fails (R38): FAILED with its start fault code; a switch in progress is discarded, and so is the hold list. -/
def failStart (f : StartFault) (s : State) : State :=
  discardHoldList (setSwitch none none (setStartFault f (setPart .failed s)))

/-! ### Entering STOPPING (R39) -/

/-- A switch in LOADING is abandoned at entry into STOPPING; one in MARKING goes on to the end of the write placed (R175). -/
def stopSwitch (s : State) : State :=
  if isLoading s then setSwitch none none { s with port := { s.port with scene := [] } } else s

/-- The house jobs that a stop removes from the queue: slate scan reads and mirror writes, which serve RUNNING only
(R37, R39, R45). -/
def JobKind.runningOnly : JobKind → Bool
  | .slateRead _ => true
  | .mirror => true
  | _ => false

/-- The scan, the mirror writes and the intake queue at entry into STOPPING (R39). -/
def stopSlate (s : State) : State :=
  { s with
    slate := { s.slate with scan := none, scanWaiting := false, queue := [], mirrorWaiting := none }
    port := { s.port with house := s.port.house.filter fun j => !j.kind.runningOnly } }

/-- Every held slot is completed with ABANDONED, in ascending slot order (R39). -/
def abandonSlots (s : State) : State :=
  (List.range 64).foldl (fun t i => giveResult i .abandoned [] t) s

/-- Entering STOPPING (R39, R102, R118, R137, R150, R175). The reports of the voices are handed on before the slots are
completed with ABANDONED (DESIGN CHOICE, log entry 63). -/
def enterStopping (s : State) : State :=
  let s := stopSchedule (stopResolver (setPart .stopping s))
  abandonSlots (stopSlate (stopCache (stopSwitch (stopTrigger (stopVoices s)))))

/-! ### Entering FAILED (R40) -/

/-- The writes already placed that FAILED leaves in the HOUSEKEEPING queue: report records (R182), and TAKEN writes, whose
slots are left TAKEN (R40). -/
def JobKind.outlivesFailure : JobKind → Bool
  | .reportRecord _ => true
  | .takenWrite _ => true
  | _ => false

/-- No refill waits any more. -/
def clearRefillPending (s : State) : State :=
  allVoices.foldl (fun t v => setVoice v { t.voice v with refillPending := refillInFlight v t } t) s

/-- The port at entry into FAILED (R40, R150, R182). -/
def failPort (s : State) : State :=
  clearRefillPending { s with port := { s.port with
    refill := [], resolver := [], head := [], scene := [], pin := []
    house := s.port.house.filter fun j => j.kind.outlivesFailure } }

/-- A playing cue, if the voice has one, marked to reach IDLE without reports (R40). -/
def Content.quieten : Content → Content
  | .sounding p => .sounding { p with quiet := true }
  | .releasing p => .releasing { p with quiet := true }
  | .handover p i landed => .handover { p with quiet := true } i landed
  | c => c

/-- The cues cut at entry into FAILED reach IDLE without reports, in whatever part state they do so (R40, DEDUCED, log
entry 53). -/
def quieten (s : State) : State :=
  { s with voices := s.voices.map fun x => { x with content := x.content.quieten } }

/-- Entering FAILED on a fatal write fault (R40, R102, R118, R137, R150, R175, R182). -/
def enterFailed (s : State) : State :=
  let s := setStartFault .runtimeWrite (setPart .failed s)
  let s := stopTrigger (stopVoices (stopSchedule (stopResolver s)))
  let s := { setSwitch none none (quieten s) with
    slate := { s.slate with scan := none, scanWaiting := false, queue := [], held := [], mirrorWaiting := none } }
  discardHoldList (failPort (stopCache s))

/-- A write of the part completed with a memory error (R182, R185): handed to Fault Capture, and fatal while the part is
RUNNING or STOPPING, in which case the capture itself places no further write. -/
def writeError (j : Job) (s : State) : State :=
  if isActive s then enterFailed (captureJob .write j (setPart .failed s)) else captureJob .write j s

/-! ### Entering STARTING, and the steps of a start (R38) -/

/-- The meter count and the peaks at entry into STARTING (R161). -/
def clearMeters (s : State) : State :=
  { s with mix := { s.mix with
      meterCount := 0, buses := Vector.ofFn fun b : Fin 4 => { s.mix.buses[b] with peak := 0 } } }

/-- Entering STARTING (R38, R161, R166): the working header is discarded, the start fault code and the hold cleared, and
the header read placed. -/
def enterStarting (s : State) : State :=
  let s := setStartFault .none (setPart .starting s)
  let s := { s with slate := { s.slate with header := none }, run := { s.run with hold := .none, release := none } }
  place (readJob .header s.regs.headerBase.toNat 144) (clearMeters s)

/-- Step 6 and 7 of a start (R33, R38): the rate code, and the busy 0 writes. -/
def startHeader (h : Header) (s : State) : State :=
  let s := { s with slate := { s.slate with header := some h }, mix := { s.mix with meterInterval := h.meterInterval } }
  place (writeJob (.busyClear h.sceneCount) (h.sceneTable + 1) []) (startRate h.rate s)

/-- The header read completes (R38 steps 1 to 5). -/
def headerDone (j : Job) (bad : Bool) (s : State) : State :=
  if bad then failStart .hdrMemory (captureJob .read j s)
  else
    let h := decodeHeader j.address (readData j s)
    match h.check with
    | some f => failStart f s
    | none => startHeader h s

/-- Step 9 of a start (R38): the written-to index becomes the returned-to value and is written into the header. -/
def startReports (s : State) : State :=
  let n := (header s).returnedTo
  let s := { s with reports := { s.reports with writtenTo := n, returnedTo := n } }
  place (writeJob .startWrittenTo ((header s).base + 32) (toBytes 2 n)) s

/-- The start is complete (R37, R38, R184): RUNNING, with the fault record written, or STOPPING if RUN was cleared. -/
def startComplete (s : State) : State :=
  if s.regs.run then placeFaultRecord (setPart .running s) else enterStopping s

/-- The written-to write of step 9 ends (R38). -/
def startWrittenToDone (j : Job) (bad : Bool) (s : State) : State :=
  if bad then failStart .hdrMemory (captureJob .write j s) else startComplete s

/-! ### Scene switches (R171 to R174) -/

/-- The address of a scene record (R49). -/
def sceneAddress (s : State) (i : Nat) : Nat := (header s).sceneTable + 160 * i

/-- A switch begins (R172): its record is made in LOADING and the scene record read is placed. -/
def beginSwitch (w : Switch) (s : State) : State :=
  place (readJob (.sceneRecord w.target) (sceneAddress s w.target) 160) (setSwitch (some w) none s)

/-- Step 8 of a start: the initial load (R38, R174). -/
def initialLoad (s : State) : State :=
  beginSwitch { target := (header s).initialScene, previous := none, slot := none, tag := 0, phase := .loading, rules := 0 } s

/-- A switch is abandoned (R172): nothing is put in force; the slot is given its result, or the start fails. -/
def abandonSwitch (w : Switch) (code : ResultCode) (failing : Word) (s : State) : State :=
  let s := setSwitch none none s
  match w.slot with
  | some slot => giveResult slot code ([0] ++ toBytes 1 w.target ++ [0, 0] ++ toBytes 4 failing.toNat) s
  | none => failStart .sceneInitial s

/-- The busy write of a scene (R174). -/
def busyJob (s : State) (scene : Nat) (value : Bool) : Job :=
  writeJob (.busyWrite scene value) (sceneAddress s scene + 1) [if value then 1 else 0]

/-- The Trigger Unit's part of a commit (R119, R124, R129, R133, R137). -/
def commitTrigger (r : SceneRecord) (rules : List Rule) (s : State) : State :=
  setTrigger { s.trigger with
    qualify := Vector.ofFn fun i : Fin 16 => 48 * r.qualify[i]
    keyMap := r.keyMap, rules := rules
    armed := BitVec.ofFnLE fun i : Fin 64 => (rules[i.val]?.map Rule.initiallyArmed).getD false
    groups := Vector.replicate 8 none } s

/-- The Cue Resolver's part of a commit (R6, R58). -/
def commitResolver (r : SceneRecord) (s : State) : State :=
  { s with resolver := { s.resolver with
      live := r.live
      vars := Vector.ofFn fun i : Fin 32 => if r.presetMask.getLsbD i.val then r.presets[i] else s.resolver.vars[i] } }

/-- The Mix Engine's part of a commit (R158, R162). -/
def commitMix (r : SceneRecord) (s : State) : State :=
  let s := { s with mix := { s.mix with
    buses := Vector.ofFn fun b : Fin 4 => { s.mix.buses[b] with trim := r.trims[b] } } }
  rejudgeDucks (mapDucks (fun g d => d.configure r.ducks[g]) s)

/-- The commit (R173): the whole staging copy is put in force, and the first busy write is placed (R174). -/
def commitScene (w : Switch) (r : SceneRecord) (rules : List Rule) (s : State) : State :=
  let s := commitMix r (commitResolver r (commitTrigger r rules s))
  let s := { s with run := { s.run with
    current := some w.target, staging := none, switch := some { w with phase := .marking, rules := rules.length } } }
  match w.previous with
  | some p => place (busyJob s p false) s
  | none => place (busyJob s w.target true) s

/-- The scene record read completes without error (R172, R174). -/
def sceneRecordRead (w : Switch) (r : SceneRecord) (s : State) : State :=
  if !r.present then abandonSwitch w .notPresent 0 s
  else if w.slot.isSome && (r.busy || s.run.current == some w.target) then abandonSwitch w .busy 0 s
  else if r.ruleCount = 0 then commitScene w r [] s
  else place (readJob (.ruleTable w.target) r.ruleTable (16 * r.ruleCount)) (setSwitch (some w) (some r) s)

/-- A scene read ends (R172): a memory error goes to Fault Capture and abandons the switch; a read whose switch was
abandoned delivers nothing (R175). The fault is captured, its record write placed, before the slot has its result (DESIGN
CHOICE, log entry 63). -/
def sceneReadDone (read : Switch → List Byte → State → State) (j : Job) (bad : Bool) (s : State) : State :=
  let failing := addressWord s j.address
  let s := if bad then captureJob .read j s else s
  match s.run.switch with
  | some w =>
    if w.phase = .loading then (if bad then abandonSwitch w .memoryError failing s else read w (readData j s) s) else s
  | none => s

/-- The rule table read completes without error (R172): the rules join the staging copy and the switch commits. -/
def ruleTableRead (w : Switch) (bs : List Byte) (s : State) : State :=
  match s.run.staging with
  | some r => commitScene w r (decodeRules r.ruleCount bs) s
  | none => s

/-- The byte that stands for a scene index or none; a free value for none, in which case the counter moves on. -/
def sceneByte (s : State) : Option Nat → Byte
  | some i => BitVec.ofNat 8 i
  | none => Config.noSceneCode s.free

/-- A switch ends (R174): its record is removed, and the slot is given OK or the start goes on. -/
def endSwitch (w : Switch) (s : State) : State :=
  let s := setSwitch none none s
  match w.slot with
  | some slot =>
    giveResult slot .ok ([sceneByte s w.previous] ++ toBytes 1 w.target ++ toBytes 1 w.rules) (nextFree s)
  | none => startReports s

/-- The switch in progress is the initial load of STARTING (R171). -/
def initialSwitch (s : State) : Bool :=
  match s.run.switch with
  | some w => w.slot.isNone
  | none => false

/-- A busy write ends (R174, R175): an error is fatal, or ends the start; after busy 0 the busy 1 write is placed while
the part is RUNNING; after busy 1 the switch ends. -/
def busyWriteDone (j : Job) (bad : Bool) (s : State) : State :=
  if bad then
    if s.regs.part = .starting ∧ initialSwitch s then failStart .sceneInitial (captureJob .write j s)
    else writeError j s
  else
    match s.run.switch, j.kind with
    | some w, .busyWrite _ value =>
      if value then endSwitch w s
      else if isRunning s then place (busyJob s w.target true) s
      else setSwitch none none s
    | _, _ => s

/-! ### The busy 0 writes of a start (R38 step 7) -/

/-- Write busy 0 into the scene records from `i` on. -/
def clearBusy (table : Nat) : Nat → Nat → List Host.Cell → List Host.Cell
  | _, 0, m => m
  | i, n + 1, m => clearBusy table (i + 1) n (Memory.write m (table + 160 * i + 1) 0)

/-- The scenes whose busy flag lies inside show memory, as a count from scene 0 on. -/
def busyReach (table count : Nat) : Nat :=
  if table + 1 < Config.addressSpace then min count ((Config.addressSpace - table - 2) / 160 + 1) else 0

/-- How many of the busy 0 writes succeed: all, or those before the one that fails, by a signalled error or because it
lies beyond show memory (R138). -/
def busyGood (error : Bool) (failing table count : Nat) : Nat :=
  if error then min (min failing (count - 1)) (busyReach table count) else busyReach table count

/-- Show memory after the busy 0 writes: the scenes before the failing one are written, the failing one as its bit of
`landed` says, and the later ones not. -/
def busyMemory (e : JobEnd) (table good count : Nat) (m : List Host.Cell) : List Host.Cell :=
  let m := clearBusy table 0 good (Memory.writeCells m e.console)
  if good < count ∧ e.landed.testBit 0 then Memory.write m (table + 160 * good + 1) 0 else m

/-- The busy 0 writes have ended (R38 step 7): an error ends the start with HDR_MEMORY, else the initial scene is loaded. -/
def busyClearDone (table good count : Nat) (j : Job) (s : State) : State :=
  if good < count then
    failStart .hdrMemory (captureJob .write { j with address := table + 160 * good + 1, length := 1 } s)
  else initialLoad s

/-- The job of the busy 0 writes. Its address is that of the first of them. -/
def JobKind.clearsBusy (k : JobKind) : Bool :=
  match k with
  | .busyClear _ => true
  | _ => false

/-- The busy 0 writes end (R38 step 7). -/
def busyClearEnds (e : JobEnd) (failing : Nat) (s : State) : State :=
  match s.port.inFlight with
  | none => s
  | some j =>
    match j.kind with
    | .busyClear count =>
      let table := j.address - 1
      let good := busyGood e.error failing table count
      jobDone JobKind.clearsBusy { e with console := [] } (fun j _ => busyClearDone table good count j)
        { s with mem := busyMemory e table good count s.mem }
    | _ => s

end Sys2Proof.Machine
end

