-- ==== Sys2Proof/Machine/Control.lean ====
section
/-! DEFINITION. The control word, warm and cold reset, and the end of STOPPING (chapter 03 sections 3.1 and 3.2). -/

namespace Sys2Proof.Machine

/-! ### Resets (R34, R41, R54, R103, R118, R137, R138, R164, R166, R171, R176, R179, R183) -/

/-- The Trigger Unit after a reset (R121, R137): the inputs go on being seen at their levels. -/
def resetTrigger (t : Trigger) : Trigger :=
  { Trigger.reset with
    lines := Vector.ofFn fun i : Fin 16 => Qualifier.reset t.lines[i].seen
    keys := Vector.ofFn fun i : Fin 8 => Qualifier.reset t.keys[i].seen }

/-- The blocks that both resets leave alike. -/
def resetBlocks (s : State) : State :=
  { s with
    slate := SlateUnit.reset, resolver := { Resolver.reset with vars := s.resolver.vars }
    voices := Vector.replicate 24 Voice.reset, startOrder := [], schedule := Schedule.reset
    trigger := resetTrigger s.trigger, cache := [], mix := Mix.reset, run := RunControl.reset
    tally := { s.tally with enabled := false }, reports := ReportUnit.reset, fault := FaultCapture.reset }

/-- A warm reset (R41): the Frame Clock, the header base, the show variables and the tally latch are kept, and a job in
flight runs to a completion that is discarded (R138). -/
def doWarmReset (s : State) : State :=
  let s := resetBlocks s
  { s with
    regs := { Registers.reset with headerBase := s.regs.headerBase }
    port := { Port.reset with inFlight := s.port.inFlight, discard := s.port.inFlight.isSome } }

/-- Show memory when a job in flight meets a cold reset: a scene's busy write completes at the port (R175), and so does a
TAKEN write, whose slot stays TAKEN (R41, R42); of another write which bytes were written is a free value (log entry
19). -/
def abandonFlight (s : State) : State :=
  match s.port.inFlight with
  | none => s
  | some j =>
    let mask := Config.abandonedWrite s.free
    match j.kind with
    | .busyClear count =>
      nextFree { s with mem := (List.range count).foldl (fun m i =>
        if mask.testBit i then Memory.write m (j.address + 160 * i) 0 else m) s.mem }
    | .busyWrite .. => { s with mem := Memory.writeBytes s.mem j.address j.data }
    | .takenWrite _ => { s with mem := Memory.writeBytes s.mem j.address j.data }
    | _ => nextFree { s with mem := Memory.writeSome s.mem j.address j.data mask }

/-- A cold reset (R34, R41): every block to its cold values; show memory, the wires from outside and the levels the inputs
were last seen at are not the part's to reset. -/
def doColdReset (s : State) : State :=
  let s := resetBlocks (abandonFlight s)
  { s with
    clock := { Clock.reset with refSeen := s.clock.refSeen }, regs := Registers.reset, resolver := Resolver.reset
    port := Port.reset, tally := { s.tally with latch := 0, enabled := false } }

/-! ### The control word (R36, R37) -/

/-- RUN is written 1 while it is 0 (R37). -/
def setRun (s : State) : State :=
  let s := { s with regs := { s.regs with run := true } }
  if s.regs.part = .stopped then enterStarting s else s

/-- RUN is written 0 while it is 1 (R37). -/
def clearRun (s : State) : State :=
  let s := { s with regs := { s.regs with run := false } }
  match s.regs.part with
  | .running => enterStopping s
  | .failed => setPart .stopped s
  | _ => s

/-- Put the interrupt enables: CF_IRQ follows at once, no flag changes (R36). -/
def setEnables (e : BitVec 3) (s : State) : State := { s with regs := { s.regs with enables := e } }

/-- A write of RUN (R37): a write that leaves RUN at the value it holds changes nothing. -/
def writeRun (run : Bool) (s : State) : State :=
  if run = s.regs.run then s else if run then setRun s else clearRun s

/-- A write of the control word (R36, R37, R41). -/
def writeControl (run warm : Bool) (enables : BitVec 3) (s : State) : State :=
  if warm then doWarmReset s else writeRun run (setEnables enables s)

/-- A write of the register window (R35, R36, R46): the identity word ignores it. -/
def writeRegister (offset : Nat) (value : Word) (s : State) : State :=
  match offset with
  | 4 => writeHeaderBase value s
  | 8 => writeControl (value.getLsbD 0) (value.getLsbD 1) (BitVec.extractLsb' 8 3 value) s
  | 12 => writeStatus value s
  | _ => s

/-! ### The end of STOPPING (R37, R39, R182) -/

/-- STOPPING ends when every voice is IDLE and no ABANDONED completion write is unfinished (R37, R39). -/
def stoppingEnds (s : State) : Bool :=
  s.regs.part == .stopping && s.voices.toList.all (fun x => x.content.isIdle)
    && s.slate.held.all (fun h => h.result != some .abandoned)

/-- STOPPED is reached: the hold list is discarded; if RUN is set at that moment a start follows (R37, R182). -/
def endStopping (s : State) : State :=
  let s := discardHoldList (setPart .stopped s)
  if s.regs.run then enterStarting s else s

end Sys2Proof.Machine
end

