-- ==== Sys2Proof/Machine/Slate.lean ====
section
/-! DEFINITION. The Slate Unit's scan and writes, the header mirrors (chapter 03 sections 3.3 and 3.5) and the Report
Unit's reads and writes (chapter 11). -/

namespace Sys2Proof.Machine

/-- Put the slot a scan is reading. -/
def setScan (i : Option Nat) (s : State) : State := { s with slate := { s.slate with scan := i } }

/-! ### The scan (R42) -/

/-- The scan goes to slot `i`, or ends behind the last slot; a waiting scan then starts (R42). -/
def scanFrom (i : Nat) (s : State) : State :=
  place (readJob (.slateRead i) (slotAddress s i) 32) (setScan (some i) s)

/-- The scan in progress ends; a waiting one starts at once (R42). -/
def endScan (s : State) : State :=
  if s.slate.scanWaiting then scanFrom 0 { s with slate := { s.slate with scanWaiting := false } } else setScan none s

/-- The scan goes on behind slot `i` (R42). -/
def scanNext (i : Nat) (s : State) : State :=
  if i + 1 < (header s).slotCount then scanFrom (i + 1) s else endScan s

/-- A scan starts at a boundary, or waits for the one in progress (R42). -/
def startScan (s : State) : State :=
  if s.slate.scan.isSome then { s with slate := { s.slate with scanWaiting := true } } else scanFrom 0 s

/-- The state word POSTED (R50). -/
def isPosted (bs : List Byte) : Bool := field bs 0 2 == 1

/-- A slot is taken (R42): marked held, with its TAKEN write placed. -/
def takeSlot (i : Nat) (bs : List Byte) (s : State) : State :=
  let h : Held := { taken := { slot := i, bytes := bs }, written := false, result := none, detail := [] }
  place (writeJob (.takenWrite i) (slotAddress s i) (toBytes 2 2)) { s with slate := { s.slate with held := s.slate.held ++ [h] } }

/-- The slot is held (R42). -/
def isHeld (i : Nat) (s : State) : Bool := s.slate.held.any fun h => h.taken.slot == i

/-- A scan read completes without error (R42). -/
def slateRead (i : Nat) (bs : List Byte) (s : State) : State :=
  if s.reports.backPressure then endScan s
  else scanNext i (if isPosted bs && !isHeld i s then takeSlot i bs s else s)

/-- A scan read ends (R42): one that failed is passed over; one whose scan was ended by a stop delivers nothing (R39). -/
def slateReadDone (j : Job) (bad : Bool) (s : State) : State :=
  match j.kind with
  | .slateRead i =>
    let s := if bad then captureJob .read j s else s
    if s.slate.scan = some i then (if bad then scanNext i s else slateRead i (readData j s) s) else s
  | _ => s

/-! ### TAKEN and completion writes (R42, R44) -/

/-- Mark the TAKEN write of a slot finished. -/
def markWritten (i : Nat) : List Held → List Held
  | [] => []
  | h :: hs => if h.taken.slot = i then { h with written := true } :: hs else h :: markWritten i hs

/-- A TAKEN write finishes (R42, R44): the contents join the intake queue, or the completion write that waited follows. -/
def takenWritten (i : Nat) (s : State) : State :=
  match s.slate.held.find? (fun h => h.taken.slot == i) with
  | none => s
  | some h =>
    let s := { s with slate := { s.slate with held := markWritten i s.slate.held } }
    if h.result.isSome then placeCompletion h s
    else if isRunning s then settleQueue (s.slate.queue ++ [h.taken]) s
    else s

/-- A TAKEN write ends (R42, R185). -/
def takenWriteDone (j : Job) (bad : Bool) (s : State) : State :=
  match j.kind with
  | .takenWrite i => if bad then writeError j s else takenWritten i s
  | _ => s

/-- A completion write ends (R44, R185): the slot is no longer held and SLATE is set. -/
def completionWriteDone (j : Job) (bad : Bool) (s : State) : State :=
  match j.kind with
  | .completionWrite i =>
    if bad then writeError j s
    else setFlags flagSlate { s with slate := { s.slate with held := s.slate.held.filter fun h => h.taken.slot != i } }
  | _ => s

/-! ### Mirrors (R45, R52) -/

/-- The mirror write's data, from byte 34 of the header to byte 127 (R45, R52). -/
def mirrorBytes (s : State) : List Byte :=
  pad 94 (toBytes 2 s.reports.drops ++ toBytes 1 s.reports.lost ++ toBytes 1 s.clock.lock.code
    ++ toBytes 1 s.run.hold.code ++ [sceneByte s s.run.current] ++ toBytes 4 s.clock.frame.toNat
    ++ toBytes 4 (now32 s).toNat ++ toBytes 2 (sensed s).toNat ++ toBytes 2 s.tally.latch.toNat
    ++ (s.mix.buses.toList.map fun b => toBytes 2 b.clipCount).flatten ++ toBytes 4 0
    ++ (s.resolver.vars.toList.map fun v => toBytes 2 v.toNat).flatten)

/-- Place a mirror write (R45). -/
def placeMirror (data : List Byte) (s : State) : State := place (writeJob .mirror ((header s).base + 34) data) s

/-- A mirror write of this boundary (R45): it waits while the one before it has not finished, in place of any that waits. -/
def mirror (s : State) : State :=
  let data := mirrorBytes s
  let s := nextFree s
  if houseHas (fun k => k == .mirror) s then { s with slate := { s.slate with mirrorWaiting := some data } }
  else placeMirror data s

/-- A mirror write ends (R45, R185). -/
def mirrorWriteDone (j : Job) (bad : Bool) (s : State) : State :=
  if bad then writeError j s
  else
    match s.slate.mirrorWaiting with
    | some data => placeMirror data { s with slate := { s.slate with mirrorWaiting := none } }
    | none => s

/-! ### The Report Unit's jobs (R179, R181, R182) -/

/-- The returned-to read of a boundary, while none is outstanding (R181). -/
def readReturnedTo (s : State) : State :=
  if houseHas (fun k => k == .returnedTo) s then s
  else place (readJob .returnedTo ((header s).base + 28) 2) s

/-- The returned-to read completes without error (R181): the index is judged, the hold list drained, back-pressure
cleared. -/
def returnedToRead (n : Nat) (s : State) : State :=
  let s := if n < (header s).reportCount then { s with reports := { s.reports with returnedTo := n } } else s
  let s := drainHoldList s.reports.holdList s
  { s with reports := { s.reports with
      backPressure := s.reports.backPressure && decide (16 ≤ s.reports.holdList.length) } }

/-- The returned-to read ends (R181). -/
def returnedToDone (j : Job) (bad : Bool) (s : State) : State :=
  if bad then captureJob .read j s else returnedToRead (field (readData j s) 0 2) s

/-- A written-to update ends (R179, R182, R185). -/
def writtenToDone (j : Job) (bad : Bool) (s : State) : State := if bad then writeError j s else setFlags flagReport s

/-- A write that only frees the port ends (R182, R184, R185). -/
def plainWriteDone (j : Job) (bad : Bool) (s : State) : State := if bad then writeError j s else s

end Sys2Proof.Machine
end

