-- ==== Sys2Proof/Machine/Boundary.lean ====
section
/-! DEFINITION. Frame boundaries and what each consumer does at one (chapter 02, R42, R45, R69, R110, R111, R160, R161,
R181), and the reference pulse. -/

namespace Sys2Proof.Machine

/-! ### The Mix Engine at a boundary (R160, R161) -/

/-- A report that names no voice and carries no tag or selector, at this sample. -/
def plainReport (kind : ReportKind) (detail : List Byte) (s : State) : Report :=
  { kind := kind, voice := noVoiceByte, tag := 0, selector := Selector.null, time := now32 s, detail := detail }

/-- The mask of the buses whose clip flag is set (R160). -/
def clipMask (s : State) : BitVec 4 := BitVec.ofFnLE fun b : Fin 4 => s.mix.buses[b].clipFlag

/-- A bus at a boundary (R160). -/
def Bus.closeClip (b : Bus) : Bus :=
  { b with clipFlag := false, clipCount := if b.clipFlag then saturate 65535 (b.clipCount + 1) else b.clipCount }

/-- The clip flags at the boundary that set the frame counter to its present value (R160). -/
def closeClips (s : State) : State :=
  let mask := clipMask s
  let report := plainReport .clip
    (toBytes 1 mask.toNat ++ [0] ++ toBytes 2 (s.clock.frame - 1).toNat) s
  let s := { s with mix := { s.mix with buses := s.mix.buses.map Bus.closeClip } }
  if isRunning s && mask != 0 then emit report s else s

/-- The meter value of a bus (R161). -/
def Bus.meter (b : Bus) : Nat := saturate 255 (b.peak / 32768)

/-- The meter at a boundary while RUNNING (R161). -/
def closeMeter (s : State) : State :=
  if isRunning s && s.mix.meterInterval != 0 then
    if s.mix.meterInterval ≤ s.mix.meterCount + 1 then
      emit (plainReport .meter (s.mix.buses.toList.map fun b => BitVec.ofNat 8 b.meter) s) (clearMeters s)
    else { s with mix := { s.mix with meterCount := s.mix.meterCount + 1 } }
  else s

/-! ### The Voice Array at a boundary (R69, R111) -/

/-- A voice whose target boundary is made while it has not landed is overdue (R111). -/
def Incoming.markOverdue (i : Incoming) (target : Word) : Incoming := { i with start := .atFrame target true }

/-- The start of this claim is AT_FRAME with the frame now opened, not yet overdue (R111). -/
def Incoming.targetNow (i : Incoming) (frame : Word) : Bool :=
  match i.start with
  | .atFrame t overdue => t == frame && !overdue
  | _ => false

/-- A voice at a boundary (R69, R111). -/
def boundaryVoice (s : State) (v : Fin 24) : State :=
  let frame := s.clock.frame
  match (s.voice v).content with
  | .armed i =>
    if i.start = .frame then enterSounding v i false none s
    else if i.targetNow frame then
      if s.run.hold = .light then missVoice v i missedHeld frame 0 s else enterSounding v i false none s
    else s
  | .priming i =>
    if i.targetNow frame then
      if s.run.hold = .light then missVoice v i missedHeld frame 0 s
      else setContent v (.priming (i.markOverdue frame)) s
    else s
  | .handover p i landed =>
    if i.targetNow frame then
      if s.run.hold = .light then missVoice v i missedHeld frame 0 s
      else setContent v (.handover p (i.markOverdue frame) landed) s
    else s
  | _ => s

/-! ### The boundary (R21) -/

/-- The Slate Unit at a boundary while RUNNING (R42, R45). -/
def boundarySlate (s : State) : State := if isRunning s then mirror (startScan s) else s

/-- The Report Unit at a boundary (R181). -/
def boundaryReports (s : State) : State := if isActive s then readReturnedTo s else s

/-- The Fire Schedule at a boundary (R110, R115). -/
def boundarySchedule (s : State) : State := if isRunning s then scheduleWalk s else s

/-- The boundary event of this sample, with the frame counter as it is (R21). -/
def Clock.event (cause : BoundaryCause) (c : Clock) : Clock :=
  { c with boundary := some { frame := c.frame, sample := c.showTime, cause := cause } }

/-- The frame counter advances and the boundary event of this sample is made (R21). -/
def Clock.openFrame (cause : BoundaryCause) (c : Clock) : Clock := { c with frame := c.frame + 1 }.event cause

/-- A frame boundary (R21): the frame counter advances, the boundary event is made, and every consumer acts (log entry 6
gives their order). -/
def makeBoundary (cause : BoundaryCause) (s : State) : State :=
  let s := setClock (s.clock.openFrame cause) s
  let s := boundarySlate (boundaryReports (closeMeter (closeClips s)))
  boundarySchedule (allVoices.foldl boundaryVoice s)

/-- The predicted boundary is made (R23). -/
def predictedBoundary (s : State) : State :=
  if predictedDue s then
    makeBoundary .predicted (setClock (Clock.reduce { s.clock.openWindow with k := s.clock.k + 1 }) s)
  else s

/-- A re-epoch at this sample (R30): the epoch is moved here and a boundary made. Where one has been made at this sample
already it is the one boundary of the sample: its cause becomes RE_EPOCH and no second one is made (log entry 32). -/
def reEpoch (s : State) : State :=
  let c := { s.clock.epochHere with lastHeld := true, lastOpen := true }
  if s.clock.madeHere then setClock (c.event .reEpoch) s else makeBoundary .reEpoch (setClock c s)

/-- A reference pulse is judged by the lock monitor (R24 to R30). -/
def judgePulse (s : State) : State :=
  match s.clock.lock with
  | .seeking => reEpoch (changeLock .locked .referenceFound s)
  | .locked =>
    if s.clock.inside then setClock { s.clock.markPulse with stray := 0, missing := 0 } s else strayPulse s
  | .holdover =>
    if s.clock.inside then changeLock .locked .referenceReturned (setClock s.clock.markPulse s)
    else reEpoch (changeLock .locked .referenceMoved s)

/-- The pulse seen at this sample is taken (R24). -/
def takePulse (s : State) : State :=
  if s.clock.refEdge then judgePulse (setClock { s.clock with refEdge := false } s) else s

/-- A window closes without a pulse (R28). -/
def closeWindow (s : State) : State := if windowCloseDue s then missedWindow s else s

end Sys2Proof.Machine
end

