-- ==== Sys2Proof/Machine/VoiceEvents.lean ====
section
/-! DEFINITION. The events of one voice or one duck group at a sample: an EXACT start, the follow-on lead, the ends of a
clip, a release and a handover fade, and a duck step (R69, R73, R87, R89, R90, R157). Each does nothing when it is not due. -/

namespace Sys2Proof.Machine

/-- An ARMED voice with an EXACT start whose end sample has come enters SOUNDING at this sample (R69). -/
def exactStart (v : Fin 24) (s : State) : State :=
  match (s.voice v).content with
  | .armed i =>
    match i.start with
    | .exact stop => if Time.earlier (now s) stop then s else enterSounding v i false none s
    | _ => s
  | _ => s

/-- The clip has been played to its end (R87). -/
def Playing.finished (p : Playing) : Bool := decide (p.sound.length ≤ p.position)

/-- A clip reaches its natural end (R87): from SOUNDING the claim ended NATURAL, from RELEASING the release is cut short. -/
def naturalEnd (v : Fin 24) (s : State) : State :=
  match (s.voice v).content with
  | .sounding p =>
    if p.finished then
      emitEnded v p.claim .natural true (goIdle v (p.claim.number, true) (leaveOrder v s))
    else s
  | .releasing p => if p.finished then endRelease v p s else s
  | _ => s

/-- A release has run its length (R89). -/
def releaseComplete (v : Fin 24) (s : State) : State :=
  match (s.voice v).content with
  | .releasing p => if p.fade.over then endRelease v p s else s
  | _ => s

/-- The outgoing cue of a HANDOVER voice is discarded with its stream buffer, and its end report due arises (R90, R141). -/
def discardOutgoing (v : Fin 24) (p : Playing) (i : Incoming) (s : State) : State :=
  let s := setVoice v { s.voice v with
    content := .priming i, lastEnd := some (p.claim.number, false), stream := [], fetchPosition := 0, feeding := none
    refillFailed := false } s
  match p.endReason with
  | some r => tell p (endedReport v p.claim r true (now32 s)) s
  | none => s

/-- The handover fade ends (R90): with the head landed the voice acts on its pending start, else it is PRIMING. -/
def handoverFadeEnd (v : Fin 24) (s : State) : State :=
  match (s.voice v).content with
  | .handover p i landed =>
    if p.fade.over || p.finished then
      let s := discardOutgoing v p i s
      if landed then actOnStart v i s else s
    else s
  | _ => s

/-- A due step of a duck group is made (R157). -/
def duckStep (g : Fin 4) (s : State) : State :=
  if s.mix.ducks[g].due then setDuck g s.mix.ducks[g].step s else s

/-- A due follow-on request is placed (R73). -/
def followRequest (v : Fin 24) (s : State) : State := testFollow v s

end Sys2Proof.Machine
end

