-- ==== Sys2Proof/Machine/Requests.lean ====
section
/-! DEFINITION. What the owner of each slate request does when the request is handed to it (R43): its judgement, its effect
and its result. -/

namespace Sys2Proof.Machine

/-- A test of an index range that gives BAD_ARG when it fails (R43). -/
def withVoice (t : Taken) (v : Nat) (act : Fin 24 → State → State) (s : State) : State :=
  if h : v < 24 then act ⟨v, h⟩ s else giveResult t.slot .badArg [] s

/-! ### GO (R72) -/

/-- The detail of GO (R51). -/
def goDetail (v : Fin 24) (s : State) : List Byte :=
  toBytes 1 v.val ++ toBytes 2 (s.voice v).claimNo.toNat ++ toBytes 1 (s.voice v).content.code

/-- The claim GO starts or whose pending start it sets; its late mark is discarded (R72). -/
def Incoming.go (i : Incoming) (frame : Bool) : Incoming :=
  { i with start := if frame then .frame else .immediate, lateMark := none }

/-- GO on a voice (R72). -/
def goVoice (t : Taken) (frame : Bool) (v : Fin 24) (s : State) : State :=
  let detail := goDetail v s
  if s.run.hold ≠ .none then giveResult t.slot .held detail s
  else
    match (s.voice v).content with
    | .armed i =>
      giveResult t.slot .ok detail
        (if frame then arm v (i.go frame) s else enterSounding v (i.go frame) true none s)
    | .priming i => giveResult t.slot .ok detail (setContent v (.priming (i.go frame)) s)
    | _ => giveResult t.slot .badState detail s

/-- GO (R72). -/
def requestGo (t : Taken) (a : Nat × Bool) (s : State) : State := withVoice t a.1 (goVoice t a.2) s

/-! ### SET VAR (R59) -/

/-- The new value of a variable (R59). -/
def VarOp.apply (op : VarOp) (old value : Half) : Half :=
  match op with
  | .set => value
  | .add => addHalf old value
  | .sub => subHalf old value

/-- SET VAR (R59). -/
def requestSetVar (t : Taken) (a : Nat × VarOp × Half) (s : State) : State :=
  if a.1 < 32 then
    let old := variableAt a.1 s
    let new := a.2.1.apply old a.2.2
    giveResult t.slot .ok (toBytes 2 old.toNat ++ toBytes 2 new.toNat) (setVariable a.1 new s)
  else giveResult t.slot .badArg [] s

/-! ### Voice requests (R92 to R97) -/

/-- The withdrawn incoming claim number, for the HANDOVER cases (R51, R92). -/
def Content.withdrawn : Content → Half
  | .handover _ i _ => i.claim.number
  | _ => 0

/-- The detail of RELEASE, CUT, CUT LAST and UNLOOP (R51, R92): the voice as it is when the request is taken. -/
def voiceDetail (v : Fin 24) (s : State) : List Byte := goDetail v s

/-- The detail of RELEASE and CUT when they act: with the withdrawn claim number (R51, R92). -/
def releaseDetail (v : Fin 24) (s : State) : List Byte :=
  goDetail v s ++ toBytes 2 (s.voice v).content.withdrawn.toNat

/-- RELEASE or CUT on a voice (R93, R94). The reports it causes are handed on before the result is returned (DESIGN CHOICE,
log entry 63). -/
def releaseRequest (t : Taken) (reason : EndReason) (length : Playing → Nat) (v : Fin 24) (s : State) : State :=
  if (s.voice v).content.isIdle then giveResult t.slot .badState (voiceDetail v s) s
  else giveResult t.slot .ok (releaseDetail v s) (releaseVoice v reason length true s)

/-- RELEASE (R93). -/
def requestRelease (t : Taken) (a : Nat × Bool × Nat) (s : State) : State :=
  withVoice t a.1 (releaseRequest t .released fun p => if a.2.1 then p.sound.fadeOut else a.2.2) s

/-- CUT (R94). -/
def requestCut (t : Taken) (v : Nat) (s : State) : State :=
  withVoice t v (releaseRequest t .cut fun _ => cutLength) s

/-- CUT LAST (R95), its reports before its result (DESIGN CHOICE, log entry 63). -/
def requestCutLast (t : Taken) (_ : Unit) (s : State) : State :=
  match s.startOrder.getLast? with
  | some v => giveResult t.slot .ok (releaseDetail v s) (cutVoice v s)
  | none => giveResult t.slot .badState ([0xFF] ++ toBytes 3 (Config.noVoiceDetail s.free).toNat) (nextFree s)

/-- UNLOOP on a voice that plays in SOUNDING or RELEASING (R96, R144): the flag is cleared, the buffer realigned, the
follow-on lead and the refill test made. -/
def unloopVoice (v : Fin 24) (p : Playing) (put : Playing → Content) (s : State) : State :=
  placeRefill (testFollow v (realign v p (setContent v (put { p with loopActive := false }) s))) v

/-- The detail of UNLOOP (R51): whether the flag had been set. -/
def unloopDetail (v : Fin 24) (p : Playing) (s : State) : List Byte :=
  voiceDetail v s ++ [0, 0] ++ toBytes 1 (if p.loopActive then 1 else 0)

/-- UNLOOP on a voice whose entry into SOUNDING, if any, has taken its effect (R96). A refill that it makes due is placed
before the result is returned, and so before the completion write; the manual gives no order (DESIGN CHOICE, log entry 71). -/
def unloopNow (t : Taken) (v : Fin 24) (s : State) : State :=
  match (s.voice v).content with
  | .sounding p => giveResult t.slot .ok (unloopDetail v p s) (unloopVoice v p .sounding s)
  | .releasing p => giveResult t.slot .ok (unloopDetail v p s) (unloopVoice v p .releasing s)
  | _ => giveResult t.slot .badState (voiceDetail v s) s

/-- UNLOOP on a voice (R96). An entry still to come is completed first (log entry 15). -/
def unloopRequest (t : Taken) (v : Fin 24) (s : State) : State := unloopNow t v (completeEntry v s)

/-- UNLOOP (R96). -/
def requestUnloop (t : Taken) (v : Nat) (s : State) : State := withVoice t v (unloopRequest t) s

/-- RELEASE GROUP (R92, R97), its reports before its result (DESIGN CHOICE, log entry 63). -/
def requestReleaseGroup (t : Taken) (g : Nat) (s : State) : State :=
  if groupValid g then giveResult t.slot .ok (toBytes 1 (groupCount g (completeEntries (Content.inGroup g) s))) (releaseGroup g s)
  else giveResult t.slot .badArg [] s

/-! ### CANCEL (R117) -/

/-- The CANCELLED report of a voice (R53, R117). -/
def cancelledVoice (v : Fin 24) (c : Claim) (l : Link) (time : Word) : Report :=
  { claimReport .cancelled v c time ([0, 0] ++ toBytes 2 l.claim.toNat ++ toBytes 4 l.target.toNat) with tag := l.tag }

/-- The withdrawal a link sends acts on its voice: the claim number matches and the claim has not sounded (R117). -/
def linkActs (s : State) (v : Fin 24) (l : Link) : Bool :=
  (s.voice v).claimNo == l.claim && (s.voice v).content.incoming.isSome

/-- Empty a schedule link. -/
def clearLink (v : Fin 24) (s : State) : State :=
  { s with schedule := { s.schedule with links := s.schedule.links.set v none } }

/-- CANCEL at one link (R117): the number of voices withdrawn so far goes with the state. -/
def cancelLink (tag : Half) (a : Nat × State) (v : Fin 24) : Nat × State :=
  match a.2.schedule.links[v] with
  | some l =>
    if l.tag = tag then
      match linkActs a.2 v l, (a.2.voice v).content.incoming with
      | true, some i => (a.1 + 1, emit (cancelledVoice v i.claim l (now32 a.2)) (withdraw v (clearLink v a.2)))
      | _, _ => (a.1, clearLink v a.2)
    else a
  | none => a

/-- CANCEL (R117). The voices are withdrawn, and report CANCELLED, in ascending number (DESIGN CHOICE, log entry 57),
before the result is returned (DESIGN CHOICE, log entry 63). -/
def requestCancel (t : Taken) (tag : Half) (s : State) : State :=
  let es := s.schedule.entries
  let kept := es.filter fun e => e.tag != tag
  let r := allVoices.foldl (cancelLink tag) (0, setEntries kept s)
  giveResult t.slot .ok (toBytes 1 (es.length - kept.length) ++ toBytes 1 r.1) r.2

/-! ### ARM RULES, DISARM RULES, REOPEN (R131, R132) -/

/-- The flags of the rules the store holds. -/
def ruleFlags (s : State) : BitVec 64 := BitVec.ofNat 64 (2 ^ s.trigger.rules.length - 1)

/-- Put the armed flags, and give them as the detail (R131). -/
def armResult (t : Taken) (armed : BitVec 64) (s : State) : State :=
  giveResult t.slot .ok (toBytes 8 (armed &&& ruleFlags s).toNat) (setTrigger { s.trigger with armed := armed } s)

/-- ARM RULES (R131). -/
def requestArm (t : Taken) (mask : BitVec 64) (s : State) : State :=
  armResult t (s.trigger.armed ||| (mask &&& ruleFlags s)) s

/-- DISARM RULES (R131). -/
def requestDisarm (t : Taken) (mask : BitVec 64) (s : State) : State :=
  armResult t (s.trigger.armed &&& ~~~ (mask &&& ruleFlags s)) s

/-- The named groups that are CLOSED (R132). -/
def closedMask (mask : BitVec 8) (s : State) : BitVec 8 :=
  mask &&& BitVec.ofFnLE fun g : Fin 8 => s.trigger.groups[g].isSome

/-- The winner lines of the named groups that are CLOSED, four bits each, group 1 lowest (R51, R132). -/
def winnerLines (mask : BitVec 8) (s : State) : Nat :=
  (List.finRange 8).foldr (fun g n =>
    16 * n + (match s.trigger.groups[g] with
      | some w => if mask.getLsbD g.val then w.line.val else 0
      | none => 0)) 0

/-- REOPEN (R132). -/
def requestReopen (t : Taken) (mask : BitVec 8) (s : State) : State :=
  giveResult t.slot .ok (toBytes 1 (closedMask mask s).toNat ++ toBytes 4 (winnerLines mask s)) (reopenGroups mask s)

/-! ### PIN and UNPIN (R148, R149) -/

/-- A PENDING entry is made and its PIN job placed (R148). -/
def placePin (t : Taken) (a : Word) (f : ClipFormat) (s : State) : State :=
  place (readJob (.pin t.slot) a.toNat (Config.headFrames * f.size))
    (setCache (s.cache ++ [{ address := a, format := f, state := .pending t.slot false }]) s)

/-- PIN (R148). -/
def requestPin (t : Taken) (x : Word × ClipFormat) (s : State) : State :=
  if x.1.toNat % 4 ≠ 0 then giveResult t.slot .badArg [] s
  else
    match cacheEntry x.1 s with
    | some e =>
      if e.state.dropping then giveResult t.slot .busy [] s
      else giveResult t.slot .already ([0] ++ toBytes 1 e.format.code ++ toBytes 1 e.state.code) s
    | none =>
      if 16 ≤ s.cache.length then giveResult t.slot .cacheFull (toBytes 1 16) s else placePin t x.1 x.2 s

/-- The detail of an OK UNPIN (R51). -/
def unpinDetail (c : CacheState) : List Byte := [0, 0] ++ toBytes 1 c.code

/-- UNPIN of a PENDING entry (R149). The ABANDONED of a queued PIN's slot is returned before the UNPIN's own OK (DESIGN
CHOICE, log entry 59). -/
def unpinPending (t : Taken) (e : CacheEntry) (owner : Nat) (s : State) : State :=
  if pinInFlight owner s then giveResult t.slot .ok (unpinDetail e.state) (setEntry e.address (.pending owner true) s)
  else
    let s := { s with port := { s.port with pin := s.port.pin.filter fun j => j.kind != .pin owner } }
    giveResult t.slot .ok (unpinDetail e.state) (giveResult owner .abandoned [] (dropEntry e.address s))

/-- UNPIN (R149): it acts on the entry with the address, whatever its format. -/
def requestUnpin (t : Taken) (x : Word × ClipFormat) (s : State) : State :=
  match cacheEntry x.1 s with
  | none => giveResult t.slot .badArg [] s
  | some e =>
    match e.state with
    | .present _ => giveResult t.slot .ok (unpinDetail e.state) (dropEntry e.address s)
    | .pending owner dropping =>
      if dropping then giveResult t.slot .already [] s else unpinPending t e owner s

/-! ### TRIM (R163) -/

/-- TRIM on a bus (R163). -/
def trimBus (t : Taken) (level : Int) (b : Fin 4) (s : State) : State :=
  let old := s.mix.buses[b]
  giveResult t.slot .ok
    (toBytes 1 b.val ++ [0] ++ signedBytes 2 old.trim ++ signedBytes 2 (clampLevel level))
    { s with mix := { s.mix with buses := s.mix.buses.set b { old with trim := clampLevel level } } }

/-- TRIM (R163). -/
def requestTrim (t : Taken) (a : Nat × Int) (s : State) : State :=
  if h : a.1 < 4 then trimBus t a.2 ⟨a.1, h⟩ s else giveResult t.slot .badArg [] s

/-! ### HOLD and RESUME (R167 to R169) -/

/-- The hold state a depth asks for. -/
def Depth.state : Depth → HoldState
  | .light => .light
  | .deep => .deep

/-- The HOLD_ENTERED report (R53, R168). -/
def holdEnteredReport (old new : HoldState) (release : HoldRelease) (tag : Half) (time : Word) : Report :=
  { kind := .holdEntered, voice := noVoiceByte, tag := tag, selector := Selector.null, time := time
    detail := toBytes 1 old.code ++ toBytes 1 new.code ++ toBytes 1 release.code ++ toBytes 1 release.lineCode }

/-- The CANCELLED report of an entry under a deep hold (R53, R116). -/
def cancelledEntry (e : Entry) (time : Word) : Report :=
  { kind := .cancelled, voice := noVoiceByte, tag := e.tag, selector := e.cue.entry, time := time
    detail := toBytes 1 1 ++ [0, 0, 0] ++ toBytes 4 e.target.toNat }

/-- Entry into DEEP hold at the Fire Schedule (R116). -/
def deepHoldSchedule (s : State) : State :=
  s.schedule.entries.foldl (fun u e => emit (cancelledEntry e (now32 u)) u) (setEntries [] s)

/-- A hold is entered (R168). -/
def enterHold (d : Depth) (release : HoldRelease) (tag : Half) (s : State) : State :=
  let report := holdEnteredReport s.run.hold d.state release tag (now32 s)
  let s := emit report { s with run := { s.run with hold := d.state, release := some release } }
  match d with
  | .light => s
  | .deep => deepHoldCache (deepHoldVoices (deepHoldSchedule s))

/-- The cause of a BUSY (R51, R167): 1 PIN, 2 SCENE; a free value decides when both hold. -/
def holdBusy (s : State) : Option Nat :=
  match anyPinInFlight s, s.run.switch.isSome with
  | false, false => none
  | true, false => some 1
  | false, true => some 2
  | true, true => some (if Config.holdBusyCause s.free then 1 else 2)

/-- The detail of HOLD (R51): the hold state before and after, a line number, a cause. -/
def holdDetail (old new : HoldState) (line cause : Nat) : List Byte :=
  toBytes 1 old.code ++ toBytes 1 new.code ++ toBytes 1 line ++ toBytes 1 cause

/-- The release condition is a line that is already asserted (R167 test 5). -/
def releaseAsserted (s : State) : HoldRelease → Bool
  | .request => false
  | .line n => s.trigger.lines[n].level

/-- HOLD with a valid release condition (R167). HOLD_ENTERED is handed on before the result is returned (a DEEP hold: log
entry 46; a LIGHT one: DESIGN CHOICE, log entry 63). -/
def judgeHold (t : Taken) (d : Depth) (release : HoldRelease) (s : State) : State :=
  let old := s.run.hold
  if old = .deep ∨ (d = .light ∧ old = .light) then giveResult t.slot .already (holdDetail old old 0 0) s
  else
    match d, holdBusy s with
    | .deep, some cause => giveResult t.slot .busy (holdDetail old old 0 cause) (nextFree s)
    | _, _ =>
      if releaseAsserted s release then giveResult t.slot .notEntered (holdDetail old old release.lineCode 0) s
      else giveResult t.slot .ok (holdDetail old d.state 0 0) (enterHold d release (slotTag t.bytes) s)

/-- HOLD (R167). -/
def requestHold (t : Taken) (a : Depth × Option Nat) (s : State) : State :=
  match a.2 with
  | none => judgeHold t a.1 .request s
  | some n =>
    if h : n < 16 then judgeHold t a.1 (.line ⟨n, h⟩) s
    else giveResult t.slot .badArg (holdDetail s.run.hold s.run.hold 0 0) s

/-- RESUME (R169). HOLD_RELEASED is handed on before the result is returned (DESIGN CHOICE, log entry 63). -/
def requestResume (t : Taken) (_ : Unit) (s : State) : State :=
  if s.run.hold = .none then giveResult t.slot .badState [] s
  else giveResult t.slot .ok (toBytes 1 s.run.hold.code) (leaveHold (slotTag t.bytes) .request s)

/-! ### SCENE (R172) -/

/-- SCENE (R172). -/
def requestScene (t : Taken) (i : Nat) (s : State) : State :=
  if s.run.switch.isSome then giveResult t.slot .busy [] s
  else if (header s).sceneCount ≤ i then giveResult t.slot .limit [] s
  else
    beginSwitch { target := i, previous := s.run.current, slot := some t.slot, tag := slotTag t.bytes
                  phase := .loading, rules := 0 } s

/-! ### LINES WRITE and LINES MODIFY (R177, R178) -/

/-- Put the tally latch and enable the drivers; the detail holds the latch before and after and the sensed levels (R51). -/
def latchResult (t : Taken) (latch : BitVec 16) (s : State) : State :=
  giveResult t.slot .ok
    (toBytes 2 s.tally.latch.toNat ++ toBytes 2 latch.toNat ++ toBytes 2 (sensed s).toNat)
    { s with tally := { s.tally with latch := latch, enabled := true } }

/-- LINES WRITE (R177). -/
def requestLinesWrite (t : Taken) (a : BitVec 16 × BitVec 16) (s : State) : State :=
  latchResult t ((s.tally.latch &&& ~~~ a.1) ||| (a.2 &&& a.1)) s

/-- LINES MODIFY (R178). -/
def requestLinesModify (t : Taken) (a : BitVec 16 × BitVec 16) (s : State) : State :=
  latchResult t ((sensed s ||| a.1) &&& ~~~ a.2) s

/-! ### SET RATE (R32) -/

/-- Every voice is IDLE and nothing is booked (R32). -/
def rateFree (s : State) : Bool := s.voices.toList.all (fun x => x.content.isIdle) && s.schedule.entries.isEmpty

/-- SET RATE (R32). The RATE_CHANGE report of the change of state is handed on, and its writes placed, before the slot's
result is returned (DESIGN CHOICE, log entry 60). -/
def requestSetRate (t : Taken) (code : Nat) (s : State) : State :=
  if h : code < 7 then
    if rateFree s then
      giveResult t.slot .ok (toBytes 1 s.clock.rate.val ++ toBytes 1 s.clock.lock.code) (changeRate ⟨code, h⟩ s)
    else giveResult t.slot .busy [] s
  else giveResult t.slot .badArg [] s

/-! ### ACK FAULT (R184) -/

/-- The detail of ACK FAULT (R51): the record as it was. -/
def ackDetail (f : FaultCapture) : List Byte := f.bytes.take 8

/-- ACK FAULT (R184). -/
def requestAckFault (t : Taken) (_ : Unit) (s : State) : State :=
  giveResult t.slot .ok (ackDetail s.fault) (placeFaultRecord { s with fault := FaultCapture.reset })

/-! ### FIRE, PRIME and PROBE (R19, R60, R61) -/

/-- FIRE (R60). -/
def requestFire (t : Taken) (a : Selector × Int × Start) (s : State) : State :=
  takeSlate t (.fire a.2.2) a.1 (clampOffset a.2.1) s

/-- PRIME (R61). -/
def requestPrime (t : Taken) (a : Selector × Int) (s : State) : State := takeSlate t .prime a.1 (clampOffset a.2) s

/-- PROBE (R19). -/
def requestProbe (t : Taken) (a : Selector) (s : State) : State := takeSlate t .probe a 0 s

end Sys2Proof.Machine
end

