-- ==== Sys2Proof/Machine/Sample.lean ====
section
/-! DEFINITION. One period of the word clock (R20): the events due at the sample that ends are taken, the sample is played
and mixed, show time advances, and the inputs of the new sample are seen. -/

namespace Sys2Proof.Machine

/-! ### The owner of a request (R43) -/

/-- A request is handed to its owner (R43). -/
def ownerActs (t : Taken) (r : Request) (s : State) : State :=
  match r with
  | .fire sel offset start => requestFire t (sel, offset, start) s
  | .prime sel offset => requestPrime t (sel, offset) s
  | .probe sel => requestProbe t sel s
  | .go v frame => requestGo t (v, frame) s
  | .setVar v op x => requestSetVar t (v, op, x) s
  | .release v flag l => requestRelease t (v, flag, l) s
  | .cut v => requestCut t v s
  | .cutLast => requestCutLast t () s
  | .unloop v => requestUnloop t v s
  | .releaseGroup g => requestReleaseGroup t g s
  | .cancel tag => requestCancel t tag s
  | .armRules m => requestArm t m s
  | .disarmRules m => requestDisarm t m s
  | .reopen m => requestReopen t m s
  | .pin a f => requestPin t (a, f) s
  | .unpin a f => requestUnpin t (a, f) s
  | .trim b l => requestTrim t (b, l) s
  | .hold d l => requestHold t (d, l) s
  | .resume => requestResume t () s
  | .scene i => requestScene t i s
  | .linesWrite m x => requestLinesWrite t (m, x) s
  | .linesModify x y => requestLinesModify t (x, y) s
  | .setRate c => requestSetRate t c s
  | .ackFault => requestAckFault t () s

/-- The request waits for the resolver (R43). -/
def Request.resolves : Request → Bool
  | .fire _ _ _ => true
  | .prime _ _ => true
  | .probe _ => true
  | _ => false

/-- The head request is handed on, when its turn has come (R43, R57). -/
def headTaken (s : State) : State :=
  match headRequest s with
  | none => s
  | some (t, _, r) =>
    if r.resolves && !slateTurn s then s
    else
      let s := ownerActs t r (popHead s)
      settleQueue s.slate.queue s

/-- The resolver and the owners take what waits for them and can be taken at once (R43, R57); the first argument bounds
the number of takes: the intakes hold 24, 16 and 64 items. -/
def takeWaiting : Nat → State → State
  | 0, s => s
  | n + 1, s => takeWaiting n (headTaken (takeItem s))

/-- Most items that can wait in the intakes (R54). -/
def intakeRoom : Nat := 104

/-! ### Events still due at this sample -/

/-- Every event that is due at this sample and has not been taken yet is taken, in one of the orders the manual allows
(log entry 6). -/
def settle (s : State) : State :=
  let s := (List.finRange 4).foldl (fun t g => duckStep g t) s
  let s := closeWindow (predictedBoundary (takePulse s))
  let s := takeQueued s
  let s := (List.finRange 16).foldl (fun t n => lineEdge n t) s
  let s := (List.finRange 8).foldl (fun t k => keyEdge k t) s
  let s := allVoices.foldl (fun t v => followRequest v t) s
  let s := allVoices.foldl (fun t v => naturalEnd v t) s
  let s := allVoices.foldl (fun t v => releaseComplete v t) s
  let s := allVoices.foldl (fun t v => handoverFadeEnd v t) s
  let s := allVoices.foldl (fun t v => exactStart v t) s
  let s := if stoppingEnds s then endStopping s else s
  placeRefills (takeWaiting intakeRoom s)

/-! ### Playing (R86, R88, R101) -/

/-- The position after one sample (R86). -/
def Playing.advanced (p : Playing) : Nat :=
  match p.sound.loop with
  | some l => if p.loopActive ∧ p.position + 1 = l.stop then l.start else p.position + 1
  | none => p.position + 1

/-- A release whose cue does not play at this sample still counts it (R89). -/
def Playing.wait (p : Playing) : Playing :=
  { p with fromNext := false, fade := match p.fade with
      | .fadeIn n => .fadeIn n
      | .release f₀ l m => .release f₀ l (m + 1) }

/-- A playing cue after the sample it plays (R86, R88). -/
def Playing.play (p : Playing) (missing : Bool) : Playing :=
  { p with position := p.advanced, fade := p.fade.advance p.sound.fadeIn, underrun := p.underrun || missing }

/-- What a voice hands the Mix Engine at this sample (R101). -/
def Voice.contribution (x : Voice) : Option Contribution :=
  match x.content.playing with
  | none => none
  | some p =>
    if p.fromNext then none
    else some
      { frame := x.stream.head?, level := p.sound.level, offset := p.claim.req.cue.offset, fade := p.fadeValue
        duck := p.sound.duck, buses := p.sound.buses }

/-- All contributions of this sample, by ascending voice (R101). -/
def contributions (s : State) : List Contribution := s.voices.toList.filterMap Voice.contribution

/-- The UNDERRUN report (R53, R88). -/
def underrunReport (v : Fin 24) (p : Playing) (time : Word) : Report :=
  claimReport .underrun v p.claim time (toBytes 2 p.claim.number.toNat ++ [0, 0] ++ toBytes 3 p.position)

/-- The first underrun of a claim is reported (R88). -/
def reportUnderrun (v : Fin 24) (p : Playing) (missing : Bool) (s : State) : State :=
  if missing && !p.underrun then tell p (underrunReport v p (now32 s)) s else s

/-- A voice plays this sample (R86, R88). The outgoing cue of HANDOVER reports no underrun, and one does not count as the
claim's first: should the cue return to RELEASING, the next is reported (DESIGN CHOICE, log entry 54). -/
def playVoice (s : State) (v : Fin 24) : State :=
  let x := s.voice v
  let missing := x.stream.isEmpty
  match x.content with
  | .sounding p =>
    if p.fromNext then setContent v (.sounding p.wait) s
    else reportUnderrun v p missing (setVoice v { x with content := .sounding (p.play missing), stream := x.stream.tail } s)
  | .releasing p =>
    if p.fromNext then setContent v (.releasing p.wait) s
    else reportUnderrun v p missing (setVoice v { x with content := .releasing (p.play missing), stream := x.stream.tail } s)
  | .handover p i landed =>
    if p.fromNext then setContent v (.handover p.wait i landed) s
    else setVoice v { x with content := .handover (p.play false) i landed, stream := x.stream.tail } s
  | _ => s

/-! ### The new sample -/

/-- The Frame Clock at the new sample (R20, R24): a pulse is the first high after a low; the window of the boundary just
made is closed behind its last sample. -/
def Clock.tick (reference : Bool) (c : Clock) : Clock :=
  { c with
    showTime := c.showTime + 1
    lastOpen := c.lastOpen && decide ((c.showTime + 1 - c.last).toNat ≤ Config.windowReach)
    refEdge := reference && !c.refSeen, refSeen := reference }

/-- The inputs of the new sample are seen (R24, R119, R120, R176), duck groups count (R157), and the next queued event may
be taken (R123). -/
def newSample (p : Pins) (s : State) : State :=
  let s := sampleInputs p (setClock (s.clock.tick p.reference) s)
  let s := { setTrigger { s.trigger with queueTaken := false } s with tally := { s.tally with pulled := p.tally } }
  mapDucks (fun _ d => d.tick) s

/-- One period of the word clock (R20). The entries into SOUNDING whose first sample is the new one take their effect
there (R69, R82), before every other event of that sample: a duck group they key makes no step then (DESIGN CHOICE, log
entry 65). The voices play in ascending number, and so the UNDERRUN reports of one sample arise in that order (DESIGN CHOICE,
log entry 67). -/
def sampleTick (p : Pins) (s : State) : State :=
  let s := settle s
  let s := allVoices.foldl playVoice (mixBuses (contributions s) s)
  placeRefills (completeEntries (fun _ => true) (newSample p s))

end Sys2Proof.Machine
end

