-- ==== Sys2Proof/Machine/Answer.lean ====
section
/-! DEFINITION. The end of every command: the arbiter looks at the port (R139), and the next state is answered. -/

namespace Sys2Proof.Machine

/-- The next state of a command: the arbiter takes a job if the port is free and one waits (R139, log entry 4). -/
def answer (s : State) : Host.Outcome State Fault Refusal := .next (arbitrate s)

end Sys2Proof.Machine
end

