-- ==== Sys2Proof/Machine/ClockCommands.lean ====
section
/-! DEFINITION. The commands of the word clock and the frame reference (R20, R23, R24, R28). -/

namespace Sys2Proof.Machine

/-- SAMPLE (R20). -/
def execSample (pins : Pins) (s : State) : Host.Outcome State Fault Refusal := answer (sampleTick pins s)

/-- REFERENCE_PULSE (R24). -/
def execReferencePulse (s : State) : Host.Outcome State Fault Refusal := answer (takePulse s)

/-- PREDICTED_BOUNDARY (R23). -/
def execPredictedBoundary (s : State) : Host.Outcome State Fault Refusal := answer (predictedBoundary s)

/-- WINDOW_CLOSE (R28). -/
def execWindowClose (s : State) : Host.Outcome State Fault Refusal := answer (closeWindow s)

end Sys2Proof.Machine
end

