-- ==== Sys2Proof/Machine/JobCommands.lean ====
section
/-! DEFINITION. The ends of memory jobs (R138): each frees the port, brings show memory up to date, lets the owner act and lets the
arbiter take the next job. -/

namespace Sys2Proof.Machine

/-- The job HEADER_READ_DONE ends. -/
def JobKind.isHeaderReadDone (k : JobKind) : Bool :=
  match k with
  | .header => true
  | _ => false

/-- HEADER_READ_DONE (R38 steps 1 to 6). -/
def execHeaderReadDone (e : JobEnd) (s : State) : Host.Outcome State Fault Refusal :=
  .next (jobDone JobKind.isHeaderReadDone e headerDone s)

/-- SCENE_BUSY_CLEAR_DONE (R38 step 7). -/
def execSceneBusyClearDone (e : JobEnd) (failing : Nat) (s : State) : Host.Outcome State Fault Refusal :=
  .next (busyClearEnds e failing s)

/-- The job START_WRITTEN_TO_DONE ends. -/
def JobKind.isStartWrittenToDone (k : JobKind) : Bool :=
  match k with
  | .startWrittenTo => true
  | _ => false

/-- START_WRITTEN_TO_DONE (R38 step 9). -/
def execStartWrittenToDone (e : JobEnd) (s : State) : Host.Outcome State Fault Refusal :=
  .next (jobDone JobKind.isStartWrittenToDone e startWrittenToDone s)

/-- The job SLATE_READ_DONE ends. -/
def JobKind.isSlateReadDone (k : JobKind) : Bool :=
  match k with
  | .slateRead _ => true
  | _ => false

/-- SLATE_READ_DONE (R42). -/
def execSlateReadDone (e : JobEnd) (s : State) : Host.Outcome State Fault Refusal :=
  .next (jobDone JobKind.isSlateReadDone e slateReadDone s)

/-- The job TAKEN_WRITE_DONE ends. -/
def JobKind.isTakenWriteDone (k : JobKind) : Bool :=
  match k with
  | .takenWrite _ => true
  | _ => false

/-- TAKEN_WRITE_DONE (R42). -/
def execTakenWriteDone (e : JobEnd) (s : State) : Host.Outcome State Fault Refusal :=
  .next (jobDone JobKind.isTakenWriteDone e takenWriteDone s)

/-- The job COMPLETION_WRITE_DONE ends. -/
def JobKind.isCompletionWriteDone (k : JobKind) : Bool :=
  match k with
  | .completionWrite _ => true
  | _ => false

/-- COMPLETION_WRITE_DONE (R44). -/
def execCompletionWriteDone (e : JobEnd) (s : State) : Host.Outcome State Fault Refusal :=
  .next (jobDone JobKind.isCompletionWriteDone e completionWriteDone s)

/-- The job DESCRIPTOR_READ_DONE ends. -/
def JobKind.isDescriptorReadDone (k : JobKind) : Bool :=
  match k with
  | .descriptor _ => true
  | _ => false

/-- DESCRIPTOR_READ_DONE (R12). -/
def execDescriptorReadDone (e : JobEnd) (s : State) : Host.Outcome State Fault Refusal :=
  .next (jobDone JobKind.isDescriptorReadDone e (resolverReadDone .readingDescriptor fun r bs => descriptorRead r (decodeDescriptor bs)) s)

/-- The job CUE_READ_DONE ends. -/
def JobKind.isCueReadDone (k : JobKind) : Bool :=
  match k with
  | .cue _ => true
  | _ => false

/-- CUE_READ_DONE (R12). -/
def execCueReadDone (e : JobEnd) (s : State) : Host.Outcome State Fault Refusal :=
  .next (jobDone JobKind.isCueReadDone e (resolverReadDone .readingCue fun r bs => cueRead r (decodeCue bs)) s)

/-- The job HEAD_JOB_DONE ends. -/
def JobKind.isHeadJobDone (k : JobKind) : Bool :=
  match k with
  | .head _ _ => true
  | _ => false

/-- HEAD_JOB_DONE (R140). -/
def execHeadJobDone (e : JobEnd) (s : State) : Host.Outcome State Fault Refusal :=
  .next (jobDone JobKind.isHeadJobDone e headDone s)

/-- The job REFILL_JOB_DONE ends. -/
def JobKind.isRefillJobDone (k : JobKind) : Bool :=
  match k with
  | .refill _ _ _ _ _ => true
  | _ => false

/-- REFILL_JOB_DONE (R143). -/
def execRefillJobDone (e : JobEnd) (s : State) : Host.Outcome State Fault Refusal :=
  .next (jobDone JobKind.isRefillJobDone e refillDone s)

/-- The job PIN_JOB_DONE ends. -/
def JobKind.isPinJobDone (k : JobKind) : Bool :=
  match k with
  | .pin _ => true
  | _ => false

/-- PIN_JOB_DONE (R148). -/
def execPinJobDone (e : JobEnd) (s : State) : Host.Outcome State Fault Refusal :=
  .next (jobDone JobKind.isPinJobDone e pinDone s)

/-- The job SCENE_RECORD_READ_DONE ends. -/
def JobKind.isSceneRecordReadDone (k : JobKind) : Bool :=
  match k with
  | .sceneRecord _ => true
  | _ => false

/-- SCENE_RECORD_READ_DONE (R172). -/
def execSceneRecordReadDone (e : JobEnd) (s : State) : Host.Outcome State Fault Refusal :=
  .next (jobDone JobKind.isSceneRecordReadDone e (sceneReadDone fun w bs => sceneRecordRead w (decodeScene bs)) s)

/-- The job RULE_TABLE_READ_DONE ends. -/
def JobKind.isRuleTableReadDone (k : JobKind) : Bool :=
  match k with
  | .ruleTable _ => true
  | _ => false

/-- RULE_TABLE_READ_DONE (R172). -/
def execRuleTableReadDone (e : JobEnd) (s : State) : Host.Outcome State Fault Refusal :=
  .next (jobDone JobKind.isRuleTableReadDone e (sceneReadDone ruleTableRead) s)

/-- The job BUSY_WRITE_DONE ends. -/
def JobKind.isBusyWriteDone (k : JobKind) : Bool :=
  match k with
  | .busyWrite _ _ => true
  | _ => false

/-- BUSY_WRITE_DONE (R174). -/
def execBusyWriteDone (e : JobEnd) (s : State) : Host.Outcome State Fault Refusal :=
  .next (jobDone JobKind.isBusyWriteDone e busyWriteDone s)

/-- The job RETURNED_TO_READ_DONE ends. -/
def JobKind.isReturnedToReadDone (k : JobKind) : Bool :=
  match k with
  | .returnedTo => true
  | _ => false

/-- RETURNED_TO_READ_DONE (R181). -/
def execReturnedToReadDone (e : JobEnd) (s : State) : Host.Outcome State Fault Refusal :=
  .next (jobDone JobKind.isReturnedToReadDone e returnedToDone s)

/-- The job WRITTEN_TO_WRITE_DONE ends. -/
def JobKind.isWrittenToWriteDone (k : JobKind) : Bool :=
  match k with
  | .writtenTo => true
  | _ => false

/-- WRITTEN_TO_WRITE_DONE (R179). -/
def execWrittenToWriteDone (e : JobEnd) (s : State) : Host.Outcome State Fault Refusal :=
  .next (jobDone JobKind.isWrittenToWriteDone e writtenToDone s)

/-- The job MIRROR_WRITE_DONE ends. -/
def JobKind.isMirrorWriteDone (k : JobKind) : Bool :=
  match k with
  | .mirror => true
  | _ => false

/-- MIRROR_WRITE_DONE (R45). -/
def execMirrorWriteDone (e : JobEnd) (s : State) : Host.Outcome State Fault Refusal :=
  .next (jobDone JobKind.isMirrorWriteDone e mirrorWriteDone s)

/-- The job REPORT_RECORD_WRITE_DONE ends. -/
def JobKind.isReportRecordWriteDone (k : JobKind) : Bool :=
  match k with
  | .reportRecord _ => true
  | _ => false

/-- REPORT_RECORD_WRITE_DONE (R182). -/
def execReportRecordWriteDone (e : JobEnd) (s : State) : Host.Outcome State Fault Refusal :=
  .next (jobDone JobKind.isReportRecordWriteDone e plainWriteDone s)

/-- The job FAULT_RECORD_WRITE_DONE ends. -/
def JobKind.isFaultRecordWriteDone (k : JobKind) : Bool :=
  match k with
  | .faultRecord => true
  | _ => false

/-- FAULT_RECORD_WRITE_DONE (R184). -/
def execFaultRecordWriteDone (e : JobEnd) (s : State) : Host.Outcome State Fault Refusal :=
  .next (jobDone JobKind.isFaultRecordWriteDone e plainWriteDone s)

/-- FATAL_WRITE_FAULT (R185): a write by the part completes with a memory error while RUNNING or STOPPING. -/
def execFatalWriteFault (e : JobEnd) (s : State) : Host.Outcome State Fault Refusal :=
  .next (if isActive s then jobDone JobKind.isWrite { e with error := true } (fun j _ => writeError j) s else s)

end Sys2Proof.Machine
end

