-- ==== Sys2Proof/Machine/RegisterCommands.lean ====
section
/-! DEFINITION. The commands of the register window (R35 to R37, R41). -/

namespace Sys2Proof.Machine

/-- RUN_SET (R37): from STOPPED the part enters STARTING. -/
def execRunSet (enables : BitVec 3) (s : State) : Host.Outcome State Fault Refusal := answer (writeControl true false enables s)

/-- RUN_CLEAR (R39): from RUNNING the part enters STOPPING, from FAILED it goes to STOPPED. -/
def execRunClear (enables : BitVec 3) (s : State) : Host.Outcome State Fault Refusal := answer (writeControl false false enables s)

/-- WARM_RESET (R41). -/
def execWarmReset (s : State) : Host.Outcome State Fault Refusal := answer (doWarmReset s)

/-- COLD_RESET (R41). -/
def execColdReset (s : State) : Host.Outcome State Fault Refusal := answer (doColdReset s)

/-- INTERRUPT_ENABLE_WRITE (R36). -/
def execInterruptEnableWrite (enables : BitVec 3) (s : State) : Host.Outcome State Fault Refusal := answer (setEnables enables s)

/-- INTERRUPT_FLAG_CLEAR (R36). -/
def execInterruptFlagClear (value : Word) (s : State) : Host.Outcome State Fault Refusal := answer (writeStatus value s)

/-- REGISTER_WRITE (R35): the identity word ignores writes; the header base takes them. -/
def execRegisterWrite (offset : Nat) (value : Word) (s : State) : Host.Outcome State Fault Refusal := answer (writeRegister offset value s)

end Sys2Proof.Machine
end

