-- ==== Sys2Proof/Machine/RequestCommands.lean ====
section
/-! DEFINITION. The slate requests (R43): the request at the head of the intake queue is handed to its owner. -/

namespace Sys2Proof.Machine

/-- The arguments of a FIRE request. -/
def Request.asFire (r : Request) : Option (Selector × Int × Start) :=
  match r with
  | .fire x y z => some (x, y, z)
  | _ => none

/-- FIRE (R60): taken by the resolver when it is free and nothing waits in its own intakes (R57). -/
def execFire (s : State) : Host.Outcome State Fault Refusal :=
  .next (if slateTurn s then handOn Request.asFire requestFire s else s)

/-- The arguments of a PRIME request. -/
def Request.asPrime (r : Request) : Option (Selector × Int) :=
  match r with
  | .prime x y => some (x, y)
  | _ => none

/-- PRIME (R61). -/
def execPrime (s : State) : Host.Outcome State Fault Refusal :=
  .next (if slateTurn s then handOn Request.asPrime requestPrime s else s)

/-- The arguments of a PROBE request. -/
def Request.asProbe (r : Request) : Option Selector :=
  match r with
  | .probe x => some x
  | _ => none

/-- PROBE (R19). -/
def execProbe (s : State) : Host.Outcome State Fault Refusal :=
  .next (if slateTurn s then handOn Request.asProbe requestProbe s else s)

/-- The arguments of a GO request. -/
def Request.asGo (r : Request) : Option (Nat × Bool) :=
  match r with
  | .go x y => some (x, y)
  | _ => none

/-- GO (R72). -/
def execGo (s : State) : Host.Outcome State Fault Refusal :=
  .next (handOn Request.asGo requestGo s)

/-- The arguments of a SET_VAR request. -/
def Request.asSetVar (r : Request) : Option (Nat × VarOp × Half) :=
  match r with
  | .setVar x y z => some (x, y, z)
  | _ => none

/-- SET_VAR (R59). -/
def execSetVar (s : State) : Host.Outcome State Fault Refusal :=
  .next (handOn Request.asSetVar requestSetVar s)

/-- The arguments of a RELEASE request. -/
def Request.asRelease (r : Request) : Option (Nat × Bool × Nat) :=
  match r with
  | .release x y z => some (x, y, z)
  | _ => none

/-- RELEASE (R93). -/
def execRelease (s : State) : Host.Outcome State Fault Refusal :=
  .next (handOn Request.asRelease requestRelease s)

/-- The arguments of a CUT request. -/
def Request.asCut (r : Request) : Option Nat :=
  match r with
  | .cut x => some x
  | _ => none

/-- CUT (R94). -/
def execCut (s : State) : Host.Outcome State Fault Refusal :=
  .next (handOn Request.asCut requestCut s)

/-- The arguments of a CUT_LAST request. -/
def Request.asCutLast (r : Request) : Option Unit :=
  match r with
  | .cutLast => some ()
  | _ => none

/-- CUT_LAST (R95). -/
def execCutLast (s : State) : Host.Outcome State Fault Refusal :=
  .next (handOn Request.asCutLast requestCutLast s)

/-- The arguments of a UNLOOP request. -/
def Request.asUnloop (r : Request) : Option Nat :=
  match r with
  | .unloop x => some x
  | _ => none

/-- UNLOOP (R96). -/
def execUnloop (s : State) : Host.Outcome State Fault Refusal :=
  .next (handOn Request.asUnloop requestUnloop s)

/-- The arguments of a RELEASE_GROUP request. -/
def Request.asReleaseGroup (r : Request) : Option Nat :=
  match r with
  | .releaseGroup x => some x
  | _ => none

/-- RELEASE_GROUP (R97). -/
def execReleaseGroup (s : State) : Host.Outcome State Fault Refusal :=
  .next (handOn Request.asReleaseGroup requestReleaseGroup s)

/-- The arguments of a CANCEL request. -/
def Request.asCancel (r : Request) : Option Half :=
  match r with
  | .cancel x => some x
  | _ => none

/-- CANCEL (R117). -/
def execCancel (s : State) : Host.Outcome State Fault Refusal :=
  .next (handOn Request.asCancel requestCancel s)

/-- The arguments of a ARM_RULES request. -/
def Request.asArmRules (r : Request) : Option (BitVec 64) :=
  match r with
  | .armRules x => some x
  | _ => none

/-- ARM_RULES (R131). -/
def execArmRules (s : State) : Host.Outcome State Fault Refusal :=
  .next (handOn Request.asArmRules requestArm s)

/-- The arguments of a DISARM_RULES request. -/
def Request.asDisarmRules (r : Request) : Option (BitVec 64) :=
  match r with
  | .disarmRules x => some x
  | _ => none

/-- DISARM_RULES (R131). -/
def execDisarmRules (s : State) : Host.Outcome State Fault Refusal :=
  .next (handOn Request.asDisarmRules requestDisarm s)

/-- The arguments of a REOPEN request. -/
def Request.asReopen (r : Request) : Option (BitVec 8) :=
  match r with
  | .reopen x => some x
  | _ => none

/-- REOPEN (R132). -/
def execReopen (s : State) : Host.Outcome State Fault Refusal :=
  .next (handOn Request.asReopen requestReopen s)

/-- The arguments of a PIN request. -/
def Request.asPin (r : Request) : Option (Word × ClipFormat) :=
  match r with
  | .pin x y => some (x, y)
  | _ => none

/-- PIN (R148). -/
def execPin (s : State) : Host.Outcome State Fault Refusal :=
  .next (handOn Request.asPin requestPin s)

/-- The arguments of a UNPIN request. -/
def Request.asUnpin (r : Request) : Option (Word × ClipFormat) :=
  match r with
  | .unpin x y => some (x, y)
  | _ => none

/-- UNPIN (R149). -/
def execUnpin (s : State) : Host.Outcome State Fault Refusal :=
  .next (handOn Request.asUnpin requestUnpin s)

/-- The arguments of a TRIM request. -/
def Request.asTrim (r : Request) : Option (Nat × Int) :=
  match r with
  | .trim x y => some (x, y)
  | _ => none

/-- TRIM (R163). -/
def execTrim (s : State) : Host.Outcome State Fault Refusal :=
  .next (handOn Request.asTrim requestTrim s)

/-- The arguments of a HOLD request. -/
def Request.asHold (r : Request) : Option (Depth × Option Nat) :=
  match r with
  | .hold x y => some (x, y)
  | _ => none

/-- HOLD (R167). -/
def execHold (s : State) : Host.Outcome State Fault Refusal :=
  .next (handOn Request.asHold requestHold s)

/-- The arguments of a RESUME request. -/
def Request.asResume (r : Request) : Option Unit :=
  match r with
  | .resume => some ()
  | _ => none

/-- RESUME (R169). -/
def execResume (s : State) : Host.Outcome State Fault Refusal :=
  .next (handOn Request.asResume requestResume s)

/-- The arguments of a SCENE request. -/
def Request.asScene (r : Request) : Option Nat :=
  match r with
  | .scene x => some x
  | _ => none

/-- SCENE (R172). -/
def execScene (s : State) : Host.Outcome State Fault Refusal :=
  .next (handOn Request.asScene requestScene s)

/-- The arguments of a LINES_WRITE request. -/
def Request.asLinesWrite (r : Request) : Option (BitVec 16 × BitVec 16) :=
  match r with
  | .linesWrite x y => some (x, y)
  | _ => none

/-- LINES_WRITE (R177). -/
def execLinesWrite (s : State) : Host.Outcome State Fault Refusal :=
  .next (handOn Request.asLinesWrite requestLinesWrite s)

/-- The arguments of a LINES_MODIFY request. -/
def Request.asLinesModify (r : Request) : Option (BitVec 16 × BitVec 16) :=
  match r with
  | .linesModify x y => some (x, y)
  | _ => none

/-- LINES_MODIFY (R178). -/
def execLinesModify (s : State) : Host.Outcome State Fault Refusal :=
  .next (handOn Request.asLinesModify requestLinesModify s)

/-- The arguments of a SET_RATE request. -/
def Request.asSetRate (r : Request) : Option Nat :=
  match r with
  | .setRate x => some x
  | _ => none

/-- SET_RATE (R32). -/
def execSetRate (s : State) : Host.Outcome State Fault Refusal :=
  .next (handOn Request.asSetRate requestSetRate s)

/-- The arguments of a ACK_FAULT request. -/
def Request.asAckFault (r : Request) : Option Unit :=
  match r with
  | .ackFault => some ()
  | _ => none

/-- ACK_FAULT (R184). -/
def execAckFault (s : State) : Host.Outcome State Fault Refusal :=
  .next (handOn Request.asAckFault requestAckFault s)

end Sys2Proof.Machine
end

