-- ==== Sys2Proof/Machine/TriggerCommands.lean ====
section
/-! DEFINITION. The events of trigger lines and panel keys (R120, R122, R123). -/

namespace Sys2Proof.Machine

/-- LINE_EVENT (R122). -/
def execLineEvent (line : Fin 16) (s : State) : Host.Outcome State Fault Refusal := answer (lineEdge line s)

/-- KEY_EVENT (R120). -/
def execKeyEvent (key : Fin 8) (s : State) : Host.Outcome State Fault Refusal := answer (keyEdge key s)

/-- QUEUED_EVENT_TAKEN (R123). -/
def execQueuedEventTaken (s : State) : Host.Outcome State Fault Refusal := answer (takeQueued s)

end Sys2Proof.Machine
end

