-- ==== Sys2Proof/Machine/VoiceCommands.lean ====
section
/-! DEFINITION. The events of the part itself at a sample: the resolver's takes, the voices' events, duck steps and the end of STOPPING. -/

namespace Sys2Proof.Machine

/-- STOPPING_COMPLETE (R39). -/
def execStoppingComplete (s : State) : Host.Outcome State Fault Refusal := answer (if stoppingEnds s then endStopping s else s)

/-- RESOLVER_TAKE (R57). -/
def execResolverTake (s : State) : Host.Outcome State Fault Refusal := answer (takeItem s)

/-- EXACT_START (R69). -/
def execExactStart (voice : Fin 24) (s : State) : Host.Outcome State Fault Refusal := answer (exactStart voice s)

/-- FOLLOW_ON_REQUEST (R73). -/
def execFollowOnRequest (voice : Fin 24) (s : State) : Host.Outcome State Fault Refusal := answer (followRequest voice s)

/-- NATURAL_END (R87). -/
def execNaturalEnd (voice : Fin 24) (s : State) : Host.Outcome State Fault Refusal := answer (naturalEnd voice s)

/-- RELEASE_COMPLETE (R89). -/
def execReleaseComplete (voice : Fin 24) (s : State) : Host.Outcome State Fault Refusal := answer (releaseComplete voice s)

/-- HANDOVER_FADE_END (R90). -/
def execHandoverFadeEnd (voice : Fin 24) (s : State) : Host.Outcome State Fault Refusal := answer (handoverFadeEnd voice s)

/-- DUCK_STEP (R157). -/
def execDuckStep (group : Fin 4) (s : State) : Host.Outcome State Fault Refusal := answer (duckStep group s)

end Sys2Proof.Machine
end

