-- ==== Sys2Proof/Machine/Dispatch.lean ====
section
/-! DEFINITION. The meaning of every command, one arm each: its effect on everything but the queue of commands. -/

namespace Sys2Proof.Machine

def exec (i : Instr) (s : State) : Host.Outcome State Fault Refusal :=
  match i with
  | .runSet enables => Sys2Proof.Machine.execRunSet enables s
  | .runClear enables => Sys2Proof.Machine.execRunClear enables s
  | .warmReset => Sys2Proof.Machine.execWarmReset s
  | .coldReset => Sys2Proof.Machine.execColdReset s
  | .interruptEnableWrite enables => Sys2Proof.Machine.execInterruptEnableWrite enables s
  | .interruptFlagClear value => Sys2Proof.Machine.execInterruptFlagClear value s
  | .registerWrite offset value => Sys2Proof.Machine.execRegisterWrite offset value s
  | .sample pins => Sys2Proof.Machine.execSample pins s
  | .referencePulse => Sys2Proof.Machine.execReferencePulse s
  | .predictedBoundary => Sys2Proof.Machine.execPredictedBoundary s
  | .windowClose => Sys2Proof.Machine.execWindowClose s
  | .lineEvent line => Sys2Proof.Machine.execLineEvent line s
  | .keyEvent key => Sys2Proof.Machine.execKeyEvent key s
  | .queuedEventTaken => Sys2Proof.Machine.execQueuedEventTaken s
  | .headerReadDone e => Sys2Proof.Machine.execHeaderReadDone e s
  | .sceneBusyClearDone e failing => Sys2Proof.Machine.execSceneBusyClearDone e failing s
  | .startWrittenToDone e => Sys2Proof.Machine.execStartWrittenToDone e s
  | .stoppingComplete => Sys2Proof.Machine.execStoppingComplete s
  | .slateReadDone e => Sys2Proof.Machine.execSlateReadDone e s
  | .takenWriteDone e => Sys2Proof.Machine.execTakenWriteDone e s
  | .completionWriteDone e => Sys2Proof.Machine.execCompletionWriteDone e s
  | .resolverTake => Sys2Proof.Machine.execResolverTake s
  | .descriptorReadDone e => Sys2Proof.Machine.execDescriptorReadDone e s
  | .cueReadDone e => Sys2Proof.Machine.execCueReadDone e s
  | .headJobDone e => Sys2Proof.Machine.execHeadJobDone e s
  | .refillJobDone e => Sys2Proof.Machine.execRefillJobDone e s
  | .pinJobDone e => Sys2Proof.Machine.execPinJobDone e s
  | .sceneRecordReadDone e => Sys2Proof.Machine.execSceneRecordReadDone e s
  | .ruleTableReadDone e => Sys2Proof.Machine.execRuleTableReadDone e s
  | .busyWriteDone e => Sys2Proof.Machine.execBusyWriteDone e s
  | .returnedToReadDone e => Sys2Proof.Machine.execReturnedToReadDone e s
  | .writtenToWriteDone e => Sys2Proof.Machine.execWrittenToWriteDone e s
  | .fatalWriteFault e => Sys2Proof.Machine.execFatalWriteFault e s
  | .exactStart voice => Sys2Proof.Machine.execExactStart voice s
  | .followOnRequest voice => Sys2Proof.Machine.execFollowOnRequest voice s
  | .naturalEnd voice => Sys2Proof.Machine.execNaturalEnd voice s
  | .releaseComplete voice => Sys2Proof.Machine.execReleaseComplete voice s
  | .handoverFadeEnd voice => Sys2Proof.Machine.execHandoverFadeEnd voice s
  | .duckStep group => Sys2Proof.Machine.execDuckStep group s
  | .fire => Sys2Proof.Machine.execFire s
  | .prime => Sys2Proof.Machine.execPrime s
  | .probe => Sys2Proof.Machine.execProbe s
  | .go => Sys2Proof.Machine.execGo s
  | .setVar => Sys2Proof.Machine.execSetVar s
  | .release => Sys2Proof.Machine.execRelease s
  | .cut => Sys2Proof.Machine.execCut s
  | .cutLast => Sys2Proof.Machine.execCutLast s
  | .unloop => Sys2Proof.Machine.execUnloop s
  | .releaseGroup => Sys2Proof.Machine.execReleaseGroup s
  | .cancel => Sys2Proof.Machine.execCancel s
  | .armRules => Sys2Proof.Machine.execArmRules s
  | .disarmRules => Sys2Proof.Machine.execDisarmRules s
  | .reopen => Sys2Proof.Machine.execReopen s
  | .pin => Sys2Proof.Machine.execPin s
  | .unpin => Sys2Proof.Machine.execUnpin s
  | .trim => Sys2Proof.Machine.execTrim s
  | .hold => Sys2Proof.Machine.execHold s
  | .resume => Sys2Proof.Machine.execResume s
  | .scene => Sys2Proof.Machine.execScene s
  | .linesWrite => Sys2Proof.Machine.execLinesWrite s
  | .linesModify => Sys2Proof.Machine.execLinesModify s
  | .setRate => Sys2Proof.Machine.execSetRate s
  | .ackFault => Sys2Proof.Machine.execAckFault s
  | .mirrorWriteDone e => Sys2Proof.Machine.execMirrorWriteDone e s
  | .reportRecordWriteDone e => Sys2Proof.Machine.execReportRecordWriteDone e s
  | .faultRecordWriteDone e => Sys2Proof.Machine.execFaultRecordWriteDone e s

end Sys2Proof.Machine
end

