-- ==== Sys2Proof/Safety.lean ====
section
/-! DEFINITION. The terms in which claims about the part are stated: what a command leaves alone, the result of a slot, the
jobs at the port, and the properties that every command keeps. A run of the part never ends in a fault or a refusal, so
a safe run is one whose every state has these properties. -/

namespace Sys2Proof.Machine

/-! ### Slots and jobs -/

/-- The record of a held slot (R42). -/
def slotAt (i : Nat) (s : State) : Option Held := s.slate.held.find? fun h => h.taken.slot == i

/-- The result returned for a held slot, with its detail (R44). -/
def resultOf (i : Nat) (s : State) : Option (ResultCode × List Byte) :=
  (slotAt i s).bind fun h => h.result.map fun r => (r, h.detail)

/-- A held slot whose result is still to be returned. -/
def awaiting (i : Nat) (s : State) : Prop := ∃ h, slotAt i s = some h ∧ h.result = none

/-- A job is in flight or waits in a class queue (R138). -/
def atPort (j : Job) (s : State) : Prop :=
  s.port.inFlight = some j ∨ j ∈ s.port.refill ∨ j ∈ s.port.resolver ∨ j ∈ s.port.house ∨ j ∈ s.port.head
    ∨ j ∈ s.port.scene ∨ j ∈ s.port.pin

/-- The queue of a client class (R139). -/
def Port.queue (p : Port) : JobClass → List Job
  | .refill => p.refill
  | .resolver => p.resolver
  | .house => p.house
  | .head => p.head
  | .scene => p.scene
  | .pin => p.pin

/-- The writes that a newer one replaces while they wait (R179, R184). -/
def JobKind.replaceable : JobKind → Bool
  | .writtenTo => true
  | .faultRecord => true
  | _ => false

/-- The port goes on (R138 to R140, R143): a job in flight stays in flight; a waiting job stays at the port unless it is
stale or, if replaceable, a newer one has come; no job appears but those that meet `new`; the waiting jobs keep their
order. -/
def portGoesOn (new : Job → Prop) (u t : State) : Prop :=
  t.port.discard = u.port.discard
  ∧ (∀ j, u.port.inFlight = some j → t.port.inFlight = some j)
  ∧ (∀ j, atPort j u → atPort j t ∨ refillStale u j = true ∨ headStale u j = true
      ∨ j.kind.replaceable = true ∧ ∃ k, new k ∧ k.kind = j.kind)
  ∧ (∀ j, atPort j t → atPort j u ∨ new j)
  ∧ ∀ c, ∃ added : List Job, (∀ j ∈ added, new j)
      ∧ ((t.port.queue c).filter fun j => !j.kind.replaceable).Sublist
          ((u.port.queue c).filter (fun j => !j.kind.replaceable) ++ added)

/-! ### The header checks of a start (R38) -/

/-- Step 3 of R38. -/
def Header.inRange (h : Header) : Prop :=
  (1 ≤ h.directoryCount ∧ h.directoryCount ≤ 64) ∧ (1 ≤ h.sceneCount ∧ h.sceneCount ≤ 16)
  ∧ (1 ≤ h.slotCount ∧ h.slotCount ≤ 64) ∧ (16 ≤ h.reportCount ∧ h.reportCount ≤ 4096)
  ∧ h.reserve ≤ h.reportCount - 1 ∧ h.rate ≤ 6 ∧ h.returnedTo ≤ h.reportCount - 1

/-- Step 4 of R38. -/
def Header.aligned (h : Header) : Prop :=
  h.directory % 8 = 0 ∧ h.sceneTable % 32 = 0 ∧ h.slate % 32 = 0 ∧ h.strip % 16 = 0

/-- The header passes steps 2 to 5 of R38. -/
def Header.passes (h : Header) : Prop := h.version = 1 ∧ h.inRange ∧ h.aligned ∧ h.initialScene < h.sceneCount

/-- The first of steps 2 to 5 of R38 that the header fails gives this start fault code. -/
def Header.failsWith (h : Header) (f : StartFault) : Prop :=
  h.version ≠ 1 ∧ f = .hdrVersion
  ∨ h.version = 1 ∧ ¬ h.inRange ∧ f = .hdrRange
  ∨ h.version = 1 ∧ h.inRange ∧ ¬ h.aligned ∧ f = .hdrAlign
  ∨ h.version = 1 ∧ h.inRange ∧ h.aligned ∧ h.sceneCount ≤ h.initialScene ∧ f = .sceneInitial

/-! ### What a command leaves alone -/

/-- The voices are the same, but that the arbiter may have removed a stale refill (R139). -/
def voicesAlike (u t : State) : Prop :=
  ∀ v : Fin 24, { t.voice v with refillPending := (u.voice v).refillPending } = u.voice v

/-- `t` is `u` but for the memory port. -/
def portOnly (u t : State) : Prop := { t with port := u.port, voices := u.voices } = u ∧ voicesAlike u t

/-- `t` is `u` but for the arbiter's work: no job is placed. -/
def portBut (u t : State) : Prop := portOnly u t ∧ portGoesOn (fun _ => False) u t

/-- `t` is `u` but for the arbiter's work and one job placed, which is at the port. -/
def portPlus (k : Job) (u t : State) : Prop := portOnly u t ∧ portGoesOn (fun j => j = k) u t ∧ atPort k t

/-- The completion write of a slot (R44). -/
def JobKind.completes : JobKind → Prop
  | .completionWrite _ => True
  | _ => False

/-- A write of the Report Unit or of Fault Capture (R179, R184). -/
def JobKind.reports : JobKind → Prop
  | .reportRecord _ => True
  | .writtenTo => True
  | .faultRecord => True
  | _ => False

/-- The Slate Unit is the same but for the intake queue, the slot `i` and the slots whose requests waited in the queue. -/
def slotsAlike (i : Nat) (u t : State) : Prop :=
  { t.slate with held := u.slate.held, queue := u.slate.queue } = u.slate
    ∧ ∀ k, k ≠ i → k ∉ u.slate.queue.map Taken.slot → slotAt k t = slotAt k u

/-- `t` is `u` but for the port, the intake queue and the results of slots. -/
def slateOnly (i : Nat) (u t : State) : Prop :=
  { t with port := u.port, voices := u.voices, slate := u.slate } = u ∧ voicesAlike u t ∧ slotsAlike i u t

/-- The same, with no job placed but completion writes. -/
def slateBut (i : Nat) (u t : State) : Prop := slateOnly i u t ∧ portGoesOn (fun j => j.kind.completes) u t

/-- The same, with one more job placed, which is at the port. -/
def slatePlus (i : Nat) (k : Job) (u t : State) : Prop :=
  slateOnly i u t ∧ portGoesOn (fun j => j = k ∨ j.kind.completes) u t ∧ atPort k t

/-- `u` with the Report Unit, Fault Capture and the interrupt flags of `t`. -/
def withReports (u t : State) : State :=
  { u with reports := t.reports, fault := t.fault, regs := { u.regs with flags := t.regs.flags } }

/-- `t` is `u` but for reports that arise and the port. -/
def reportBut (u t : State) : Prop := portOnly (withReports u t) t ∧ portGoesOn (fun j => j.kind.reports) u t

/-- The same as `slateBut`, where reports may arise. -/
def reportingBut (i : Nat) (u t : State) : Prop :=
  slateOnly i (withReports u t) t ∧ portGoesOn (fun j => j.kind.completes ∨ j.kind.reports) u t

/-! ### Reports (R179, R180) -/

/-- There is room in the strip for a report of the class of `r`, handed on before any other from `s` on. -/
def hasRoom (r : Report) (s : State) : Prop :=
  isActive s = true ∧ s.reports.holdList = [] ∧ 0 < freeRoom s
    ∧ (r.kind.essential = true ∨ (header s).reserve < freeRoom s)

/-- The write of the report `r` as record number `n` of the strip. -/
def recordJob (n : Nat) (r : Report) (s : State) : Job :=
  writeJob (.reportRecord n) ((header s).strip + 32 * n) r.bytes

/-- The report `r`, handed to the Report Unit before any other from `s` on, is written into the strip when there is room
for it: its record write is at the port. -/
def firstReport (r : Report) (s t : State) : Prop := hasRoom r s → atPort (recordJob s.reports.writtenTo r s) t

/-- The essential reports `rs` are handed to the Report Unit in this order, before any other from `s` on: when there is
room for all of them, their record writes are at the port, at successive places of the strip. -/
def reportsInOrder (rs : List Report) (s t : State) : Prop :=
  isActive s = true → s.reports.holdList = [] → s.reports.writtenTo < (header s).reportCount → rs.length ≤ freeRoom s →
    ∀ (k n : Nat) (r : Report), rs[k]? = some r → n = (s.reports.writtenTo + k) % (header s).reportCount →
      r.kind.essential = true ∧ atPort (recordJob n r s) t

/-- Of two HOUSEKEEPING jobs, `a` is in flight or waits before `b`. -/
def aheadOf (a b : Job) (t : State) : Prop :=
  ∃ x y z : List Job, t.port.inFlight.toList ++ t.port.house = x ++ a :: (y ++ b :: z)

/-- The write of the report `r` stands before the completion write of the slot `i` with this result (log entries 60 and
63). -/
def reportsBeforeResult (i : Nat) (code : ResultCode) (detail : List Byte) (r : Report) (s t : State) : Prop :=
  ∀ h, slotAt i s = some h → h.written = true → hasRoom r s →
    aheadOf (recordJob s.reports.writtenTo r s)
      (writeJob (.completionWrite i) ((header s).slate + 32 * i) (completionBytes h.taken.bytes code detail)) t

/-- A report about a claim on voice `v`, at this sample (R52). -/
def aboutClaim (k : ReportKind) (v : Fin 24) (c : Claim) (detail : List Byte) (s : State) : Report :=
  { kind := k, voice := BitVec.ofNat 8 v.val, tag := c.req.tag, selector := c.req.cue.entry
    time := s.clock.showTime.setWidth 32, detail := detail }

/-- The ENDED report, not sounded, of the claim that voice `v` has not sounded, if it has one, with the code of the end reason
(R53, R91). -/
def endedUnsounded (reason : Byte) (s : State) (v : Fin 24) : Option Report :=
  (s.voice v).content.incoming.map fun i =>
    aboutClaim .ended v i.claim (toBytes 2 i.claim.number.toNat ++ [reason, 0]) s

/-- A report that names no voice and carries no tag (R52). -/
def aboutNone (k : ReportKind) (x : Selector) (detail : List Byte) (s : State) : Report :=
  { kind := k, voice := 0xFF, tag := 0, selector := x, time := s.clock.showTime.setWidth 32, detail := detail }

/-- The lock state changes to that of the clock `c` (R31): in RUNNING with a REF_STATE report of this detail, in any other
part state with none, and nothing else happens. -/
def lockChanges (detail : List Byte) (s : State) (c : Clock) (t : State) : Prop :=
  (isRunning s = true →
    reportBut { s with clock := c } t ∧ firstReport (aboutNone .refState Selector.null detail s) s t)
  ∧ (isRunning s = false → portBut { s with clock := c } t)

/-- The command `c` makes a frame boundary at this sample, which has none yet (R23, R30): a predicted boundary that is due, or
a pulse that re-epochs the clock. -/
def makesBoundary (c : Instr) (s : State) : Prop :=
  s.clock.madeHere = false ∧
  (c = .predictedBoundary ∧ s.clock.showTime = s.clock.next ∧ (s.clock.refEdge = false ∨ s.clock.lock ≠ .seeking)
  ∨ c = .referencePulse ∧ s.clock.refEdge = true
    ∧ (s.clock.lock = .seeking ∨ s.clock.lock = .holdover ∧ s.clock.inside = false))

/-- The consumers of the boundary that `c` makes from `s` find the state `b`: for a predicted one `s` itself; for a re-epoch the
state behind its change of lock state, with the REF_STATE report of that in RUNNING (R30, R31; log entries 6 and 36). -/
def boundaryFrom (c : Instr) (s b : State) : Prop :=
  (c = .predictedBoundary → b = s)
  ∧ (c = .referencePulse →
    b.clock = { s.clock with lock := .locked, stray := 0, missing := 0, refEdge := false }
    ∧ (isRunning s = false → b = { s with clock := b.clock })
    ∧ (isRunning s = true → reportBut { s with clock := b.clock } b
      ∧ firstReport (aboutNone .refState Selector.null (if s.clock.lock = .seeking then [0, 1, 0] else [2, 1, 4]) s) s b))

/-- The REFUSED report of a source other than a slot (R16, R53, R76). -/
def aboutRefusal (code : ResultCode) (source : Source) (origin : Nat) (tag : Half) (voice : Byte) (x : Selector)
    (value : List Byte) (s : State) : Report :=
  { aboutNone .refused x (toBytes 1 code.code ++ toBytes 1 source.code ++ toBytes 1 origin ++ value) s with
    voice := voice, tag := tag }

/-- The request at the head of the intake queue completes its slot `i` at once: the command answers a next state that
holds the result, and is `u` but for the port, the intake queue and the results of other queued slots. -/
def Answers (c : Instr) (s : State) (i : Nat) (r : ResultCode) (detail : List Byte) (u : State) : Prop :=
  ∃ t, exec c s = .next t ∧ resultOf i t = some (r, detail) ∧ slateBut i u t

/-- The same, where reports may arise, `r` the first of them, its write before the completion write. -/
def AnswersReporting (c : Instr) (s : State) (i : Nat) (code : ResultCode) (detail : List Byte) (r : Report) (u : State) :
    Prop :=
  ∃ t, exec c s = .next t ∧ resultOf i t = some (code, detail) ∧ reportingBut i u t ∧ firstReport r s t
    ∧ reportsBeforeResult i code detail r s t

/-- The state that claims, releases and reports leave alone, as one record of what the part is besides its voices, port,
reports and slots. -/
structure Rest where
  mem : List Host.Cell
  clock : Clock
  tally : Tally
  pending : List Instr
  cache : List CacheEntry
  run : RunControl
  buses : Vector Bus 4
  header : Option Header
  headerBase : Word
  runBit : Bool
  enables : BitVec 3
  part : PartState
  startFault : StartFault
  vars : Vector Half 32
  live : BitVec 64
  entries : List Entry
  lines : Vector Qualifier 16
  keys : Vector Qualifier 8
  qualify : Vector Nat 16
  rules : List Rule
  armed : BitVec 64
  groups : Vector (Option Winner) 8
  keyMap : Vector KeyEntry 8
  events : List Event
  returnedTo : Nat
  deriving DecidableEq, Repr

/-- The rest of a state. -/
def State.rest (s : State) : Rest :=
  { mem := s.mem, clock := s.clock, tally := s.tally, pending := s.pending, cache := s.cache, run := s.run
    buses := s.mix.buses, header := s.slate.header, headerBase := s.regs.headerBase, runBit := s.regs.run
    enables := s.regs.enables, part := s.regs.part, startFault := s.regs.startFault, vars := s.resolver.vars
    live := s.resolver.live, entries := s.schedule.entries, lines := s.trigger.lines, keys := s.trigger.keys
    qualify := s.trigger.qualify, rules := s.trigger.rules, armed := s.trigger.armed, groups := s.trigger.groups
    keyMap := s.trigger.keyMap, events := s.trigger.queue, returnedTo := s.reports.returnedTo }

/-! ### Details -/

/-- The result detail in the form of PROBE (R19, R51). -/
def probeForm (sheet rights cue length level hops condition : Nat) : List Byte :=
  toBytes 1 sheet ++ toBytes 1 rights ++ toBytes 1 cue ++ toBytes 3 length ++ toBytes 1 level
    ++ toBytes 1 (hops + 16 * condition)

/-! ### Voices -/

/-- What a release of length `l` with end reason `r` makes of a SOUNDING cue (R89). -/
def Playing.released (p : Playing) (l : Nat) (r : EndReason) : Content :=
  if l = 0 then .idle else .releasing { p with fade := .release p.fadeValue l 0, endReason := some r }

/-- What shortening to `l` makes of a release (R89). -/
def Playing.shortened (p : Playing) (l : Nat) : Content :=
  if l < p.fade.remaining then
    if l = 0 then .idle else .releasing { p with fade := .release p.fadeValue l 0 }
  else .releasing p

/-- What a release makes of a voice (R93, R94, R97, R99, R102): `length` is the release length for the cue that plays,
`shorten` says whether a release under way is shortened to it. -/
def Content.afterRelease (r : EndReason) (length : Playing → Nat) (shorten : Bool) : Content → Content
  | .sounding p => p.released (length p) r
  | .releasing p => if shorten then p.shortened (length p) else .releasing p
  | .handover p _ _ => if shorten then p.shortened (length p) else .releasing p
  | _ => .idle

/-- What the withdrawal of its unsounded claim makes of a voice (R91). -/
def Content.afterWithdraw : Content → Content
  | .priming _ => .idle
  | .armed _ => .idle
  | .handover p _ _ => .releasing p
  | c => c

/-- The claim number of a voice whose unsounded claim, if it has one, is withdrawn: in HANDOVER it advances (R78, R91). -/
def Voice.numberAfterWithdraw (x : Voice) : Half :=
  match x.content with
  | .handover _ _ _ => x.claimNo + 1
  | _ => x.claimNo

/-- The voice is IDLE, or RELEASING with at most `n` samples left. -/
def Content.silentWithin (n : Nat) : Content → Prop
  | .idle => True
  | .releasing p => p.fade.remaining ≤ n
  | _ => False

/-- One voice is the same, but that the arbiter may have removed a stale refill. -/
def voiceAlike (w : Fin 24) (s t : State) : Prop :=
  { t.voice w with refillPending := (s.voice w).refillPending } = s.voice w

/-- Voice `v` leaves SOUNDING or its claim ends: every other voice is the same, but for those whose unsounded claim follows
the claim `n` of `v` (R85). -/
def othersAlike (v : Fin 24) (n : Half) (s t : State) : Prop :=
  ∀ w, w ≠ v → (∀ i, (s.voice w).content.incoming = some i → i.follows v n = false) → voiceAlike w s t

/-- The claim of `i` has entered SOUNDING on voice `v` for the next sample (R69, R72, R82): the voice is SOUNDING from the
start of its clip, and the effects of the entry come with its first sample (log entry 15). -/
def entersNext (v : Fin 24) (i : Incoming) (late : Option Nat) (t : State) : Prop :=
  (t.voice v).content = .sounding
    { claim := i.claim, position := 0, loopActive := i.sound.loop.isSome, fade := .fadeIn 0, endReason := none
      followPlaced := false, underrun := false, fromNext := true, entry := some { mark := i.lateMark, samples := late }
      quiet := false }

/-- The entry of the cue `p` on voice `v` kicks voice `w` (R82). -/
def kicks (v : Fin 24) (p : Playing) (s : State) (w : Fin 24) : Bool :=
  match (s.voice w).content with
  | .sounding q => w != v && p.sound.group != 0 && q.entry.isNone && q.sound.group == p.sound.group
  | _ => false

/-- The first sample that a cue plays: this one, or the next when it entered SOUNDING by an event of this one (R82). -/
def firstSample (p : Playing) (s : State) : Time := if p.fromNext then s.clock.showTime + 1 else s.clock.showTime

/-- The FIRED report of an entry, with the first sample the cue plays (R53, R82). -/
def firedHere (v : Fin 24) (p : Playing) (s : State) : Report :=
  { aboutClaim .fired v p.claim
      (toBytes 2 p.claim.number.toNat ++ toBytes 1 p.claim.req.source.code ++ toBytes 1 p.claim.obtained.code) s with
    time := (firstSample p s).setWidth 32 }

/-- The LATE reports that follow FIRED (R53): of a late mark, in frames (R113), and of an EXACT start whose end sample has
passed, in samples and with tag 0 (R69). -/
def lateHere (v : Fin 24) (p : Playing) (l : Lateness) (frame : Word) (s : State) : List Report :=
  let late (detail : List Byte) : Report :=
    { aboutClaim .late v p.claim detail s with time := (firstSample p s).setWidth 32 }
  (match l.mark with
    | some target =>
      [late (toBytes 4 (min 65535 (frame - target).toNat) ++ [0] ++ toBytes 1 p.sound.lateAllowance)]
    | none => [])
  ++ match l.samples with
    | some n => [{ late (toBytes 4 (min 4294967295 n) ++ [1, 0]) with tag := 0 }]
    | none => []

/-- The cue `p` enters SOUNDING on voice `v` at this sample (R82, R141, R156): the head is taken up into the stream buffer,
the voice joins the tail of the start order, the other voices of its group are kicked, its duck groups are keyed, and FIRED
is written when there is room for it, with the LATE reports of the entry behind it. A duck group that becomes keyed loses a
step due at this sample, which R157 lets come first as well: for an entry that a SAMPLE makes, this is the model's choice (log
entry 65). -/
def entersSounding (v : Fin 24) (p : Playing) (s t : State) : Prop :=
  (∃ q, (t.voice v).content = .sounding q ∧ { q with followPlaced := p.followPlaced } = { p with entry := none })
  ∧ ((t.voice v).head = [] ∧ (t.voice v).feeding = some (s.voice v).claimNo ∧ (t.voice v).claimNo = (s.voice v).claimNo
    ∧ ((t.voice v).stream, (t.voice v).fetchPosition) =
        match p.sound.loop with
        | some l => if l.stop < (s.voice v).head.length then ((s.voice v).head.take l.stop, l.start)
            else ((s.voice v).head, (s.voice v).head.length)
        | none => ((s.voice v).head, (s.voice v).head.length))
  ∧ (s.startOrder.Nodup → t.startOrder = s.startOrder.filter (fun w => !kicks v p s w) ++ [v])
  ∧ (∀ w q, w ≠ v → (s.voice w).content = .sounding q →
      (t.voice w).content =
        if kicks v p s w then
          .releasing { q with fade := .release q.fadeValue (max q.sound.fadeOut 96) 0, endReason := some .kicked }
        else .sounding q)
  ∧ (∀ w, w ≠ v → (s.voice w).content.isSounding = false →
      (∀ i x q, (s.voice w).content.incoming = some i → kicks v p s x = true → (s.voice x).content = .sounding q →
        i.follows x q.claim.number = false) →
      (t.voice w).content = (s.voice w).content)
  ∧ (∀ groups (g : Fin 4), p.sound.duck = .key groups → groups.getLsbD g = true →
      t.mix.ducks[g].keying.getLsbD v = true ∧ t.mix.ducks[g].keyed = true
      ∧ (s.mix.ducks[g].keyed = false → t.mix.ducks[g].sub = 0 ∧ t.mix.ducks[g].due = false))
  ∧ ((∀ w, kicks v p s w = false) →
      ((∀ groups, p.sound.duck ≠ .key groups) → t.mix.ducks = s.mix.ducks)
      ∧ firstReport (firedHere v p s) s t
      ∧ ∀ l, p.entry = some l → reportsInOrder (firedHere v p s :: lateHere v p l t.clock.frame s) s t)

/-- A voice record before and after a sample that it plays (R86, R88, R89): one frame leaves the stream buffer, the position
advances by 1 and returns from the end of an active loop to its start, the fade-in count advances to the fade-in length at
most, and a release counts. A cue whose first sample is the next one only counts its release. -/
def sampled (x y : Voice) : Prop :=
  let after (p : Playing) (missing : Bool) : Playing :=
    if p.fromNext then
      { p with fromNext := false, fade := match p.fade with
          | .fadeIn n => .fadeIn n
          | .release f l m => .release f l (m + 1) }
    else
      { p with
        position := match p.sound.loop with
          | some l => if p.loopActive = true ∧ p.position + 1 = l.stop then l.start else p.position + 1
          | none => p.position + 1
        fade := match p.fade with
          | .fadeIn n => .fadeIn (min (n + 1) p.sound.fadeIn)
          | .release f l m => .release f l (m + 1)
        underrun := p.underrun || missing }
  let stream (p : Playing) : List Frame := if p.fromNext then x.stream else x.stream.tail
  match x.content with
  | .sounding p => y.content = .sounding (after p x.stream.isEmpty) ∧ y.stream = stream p
  | .releasing p => y.content = .releasing (after p x.stream.isEmpty) ∧ y.stream = stream p
  | .handover p i landed => y.content = .handover (after p false) i landed ∧ y.stream = stream p
  | _ => { y with refillPending := x.refillPending } = x

/-- The UNDERRUN report of voice `v` at this sample, if it gives one (R53, R88): at the first frame that a claim in SOUNDING
or RELEASING lacks, and at no later one; none for a cue cut at entry into FAILED (log entry 53), and the outgoing cue of
HANDOVER gives none. -/
def underrunHere (s : State) (v : Fin 24) : Option Report :=
  let told (p : Playing) : Option Report :=
    if p.fromNext = false ∧ (s.voice v).stream = [] ∧ p.underrun = false ∧ p.quiet = false then
      some (aboutClaim .underrun v p.claim (toBytes 2 p.claim.number.toNat ++ [0, 0] ++ toBytes 3 p.position) s)
    else none
  match (s.voice v).content with
  | .sounding p => told p
  | .releasing p => told p
  | _ => none

/-- The UNDERRUN reports of one sample, in ascending voice number (log entry 67). -/
def underruns (s : State) : List Report := (List.finRange 24).filterMap (underrunHere s)

/-- A qualifier after a sample at which it sees level `l`, with qualify count `q` (R119, R120): an edge still due at the sample
that ends has been taken; the candidate count is 0 at the qualified level and at the first sample of a new level, else it
advances by 1, and the edge is due when it has reached `q` (log entry 16). -/
def qualified (q : Nat) (l : Bool) (x : Qualifier) : Qualifier :=
  let level := if x.due then x.seen else x.level
  let count := if l = level ∨ l ≠ x.seen then 0 else x.count + 1
  { level := level, seen := l, count := count, due := decide (l ≠ level ∧ l = x.seen ∧ q ≤ count) }

/-! ### Refills (R142, R144) -/

/-- A REFILL job is due for voice `v` with cue `p` under feeding claim number `n`, when no refill is pending for it (R142): in
RUNNING and STOPPING (R150, log entry 66), and not behind a refill that failed (R145). -/
def needsRefill (s : State) (v : Fin 24) (p : Playing) (n : Half) : Prop :=
  isActive s = true ∧ (s.voice v).content.playing = some p ∧ (s.voice v).feeding = some n
  ∧ (s.voice v).stream.length ≤ 1024 ∧ (s.voice v).refillFailed = false
  ∧ (p.loopActive = true ∨ (s.voice v).fetchPosition < p.sound.length)

/-- The REFILL job of voice `v` from fetch position `first` on (R142): up to 512 frames, and up to the loop end while the loop
is active and its end ahead, else up to the clip length. -/
def refillFor (v : Fin 24) (p : Playing) (n : Half) (first : Nat) : Job :=
  let limit := match p.sound.loop with
    | some l => if p.loopActive = true ∧ first < l.stop then l.stop else p.sound.length
    | none => p.sound.length
  let frames := min 512 (limit - first)
  readJob (.refill v n first frames false) (p.sound.clip.toNat + first * p.sound.format.size)
    (frames * p.sound.format.size)

/-- The refill test of voice `v`, with its refill pending flag as given and the REFILL jobs of the voice among `old`, has led to
the state `t` (R142): the job is at the port when one is due, and pending unless an old one remains; else no REFILL job of
the voice is there but those of `old`. -/
def refillTested (v : Fin 24) (pending : Bool) (old : Job → Prop) (t : State) : Prop :=
  (∀ p n, pending = false → needsRefill t v p n → atPort (refillFor v p n (t.voice v).fetchPosition) t
    ∧ ((∀ j n first frames voided, j.kind = .refill v n first frames voided → ¬ old j) →
      (t.voice v).refillPending = true))
  ∧ ((pending = true ∨ ∀ p n, ¬ needsRefill t v p n) →
    ∀ j n first frames voided, j.kind = .refill v n first frames voided → atPort j t → old j)

/-! ### The mix (R151 to R154, R159) -/

/-- The fade value a cue's fade record gives at this sample (R153, R154). -/
def fadeNow (p : Playing) : Int :=
  match p.fade with
  | .fadeIn n => if n < p.sound.fadeIn then -256 + ⌊(256 * n : ℚ) / p.sound.fadeIn⌋ else 0
  | .release start length elapsed => start - ⌊((start + 256) * elapsed : ℚ) / length⌋

/-- The effective code of a cue on bus `b` (R151): silence when one of the three level codes is, else the clamped sum. -/
def codeNow (s : State) (p : Playing) (b : Fin 4) : Int :=
  let duck : Int := match p.sound.duck with
    | .member g => s.mix.ducks[g].offset
    | _ => 0
  if p.sound.level = -256 ∨ fadeNow p = -256 ∨ s.mix.buses[b].trim = -256 then -256
  else max (-256) (min 16 (p.sound.level + p.claim.req.cue.offset + fadeNow p + duck + s.mix.buses[b].trim))

/-- The mantissas of R152, for r from 0 to 15. -/
def mantissas : List Int :=
  [32768, 34219, 35734, 37316, 38968, 40693, 42495, 44376, 46341, 48393, 50535, 52773, 55109, 57549, 60097, 62757]

/-- What a sample value contributes at an effective code (R152): the exact product, rounded to nearest with halves towards
+∞. -/
def scaled (code sample : Int) : Int :=
  if code = -256 then 0
  else ⌊(sample * mantissas.getD (code % 16).toNat 0 : ℚ) / 2 ^ (15 - code / 16).toNat + 1 / 2⌋

/-- What voice `v` contributes to one side of bus `b` at this sample (R86, R88, R151, R152): nothing on an underrun, from a
cue whose first sample is the next one, or on a bus that the cue does not name. -/
def shareOf (s : State) (b : Fin 4) (side : Frame → Audio) (v : Fin 24) : Int :=
  match (s.voice v).content.playing, (s.voice v).stream.head? with
  | some p, some f =>
    if p.fromNext = false ∧ p.sound.buses.getLsbD b then scaled (codeNow s p b) (side f).toInt else 0
  | _, _ => 0

/-- The exact sum of one side of bus `b` at this sample (R159). -/
def sumOf (s : State) (b : Fin 4) (side : Frame → Audio) : Int := ((List.finRange 24).map (shareOf s b side)).sum

/-- A bus sample is the clamped sum (R159). -/
def clamped (x : Int) : Int := max (-8388608) (min 8388607 x)

/-- One sample of a duck group (R157): the count towards a step, which is due when it reaches the interval in force; at the
target the count is 0 (log entries 16 and 69). -/
def counted (d : Duck) : Duck :=
  if d.offset = (if d.keyed then -(d.depth : Int) else 0) then { d with sub := 0, due := false }
  else { d with sub := d.sub + 1, due := decide ((if d.keyed then d.attack else d.recovery) ≤ d.sub + 1) }

/-! ### Claims (R62 to R67, R74, R80) -/

/-- The leader check: a claim that carries a leader is taken only while that leader stands (R74). -/
def leaderHolds (r : ClaimRequest) (s : State) : Prop :=
  ∀ l n, r.leader = some (l, n) → (s.voice l).claimNo = n
    ∧ ((s.voice l).content.isSounding = true ∨ (s.voice l).lastEnd = some (n, true))

/-- The hold check (R63). -/
def holdLets (r : ClaimRequest) (s : State) : Prop := s.run.hold = .none ∨ s.run.hold = .light ∧ r.source = .key

/-- The condition step (R64). -/
def conditionLets (r : ClaimRequest) (s : State) : Prop :=
  ∀ c, r.cue.sound.condition = some c → c.holds s.resolver.vars = true

/-- Voice `v` is not the leader of the claim (R65, R80). -/
def notLeader (r : ClaimRequest) (v : Fin 24) : Prop := ∀ l n, r.leader = some (l, n) → l ≠ v

/-- Voice `v` holds the identity of the cue, by its claim `c` (R65). -/
def holdsIdentity (r : ClaimRequest) (s : State) (v : Fin 24) (c : Claim) : Prop :=
  notLeader r v ∧ c.req.cue.sheet = r.cue.sheet ∧ c.req.cue.cue = r.cue.cue
  ∧ ((∃ i, c = i.claim ∧ (s.voice v).content.incoming = some i) ∨ ∃ p, c = p.claim ∧ (s.voice v).content = .sounding p)

/-- The found voice of the retrigger step (R65): the latest claim time, ties to the lowest number. -/
def isFound (r : ClaimRequest) (s : State) (v : Fin 24) : Prop :=
  ∃ c, holdsIdentity r s v c ∧ ∀ w d, holdsIdentity r s w d →
    (w < v → Time.earlier d.time c.time = true) ∧ (v < w → Time.earlier c.time d.time = false)

/-- No voice is found, or the policy does not use the search (R65). -/
def goesOn (r : ClaimRequest) (s : State) : Prop :=
  r.cue.sound.retrigger = .layer ∨ ∀ w c, ¬ holdsIdentity r s w c

/-- Voice `v` is a candidate of the arbiter's third step, by its claim `c` (R80). -/
def mayBeStolen (r : ClaimRequest) (s : State) (v : Fin 24) (c : Claim) : Prop :=
  notLeader r v ∧ c.req.cue.sound.priority < r.cue.sound.priority
  ∧ ((∃ i, c = i.claim ∧ (s.voice v).content = .armed i) ∨ ∃ p, c = p.claim ∧ (s.voice v).content = .sounding p)

/-- The voice of the arbiter's third step (R80): the lowest class, then the oldest claim time, then the lowest number. -/
def isStolen (r : ClaimRequest) (s : State) (v : Fin 24) : Prop :=
  ∃ c, mayBeStolen r s v c ∧ ∀ w d, mayBeStolen r s w d → w ≠ v →
    c.req.cue.sound.priority < d.req.cue.sound.priority
    ∨ c.req.cue.sound.priority = d.req.cue.sound.priority
      ∧ (w < v → Time.earlier c.time d.time = true) ∧ (v < w → Time.earlier d.time c.time = false)

/-- The claim obtains voice `v` in this way (R65 to R67, R80). -/
def obtains (r : ClaimRequest) (s : State) (v : Fin 24) (way : Obtained) : Prop :=
  way = .restart ∧ r.cue.sound.retrigger = .restart ∧ isFound r s v
  ∨ goesOn r s ∧
    (way = .idle ∧ (s.voice v).content = .idle ∧ (∀ w, w < v → (s.voice w).content ≠ .idle)
    ∨ (∀ w, (s.voice w).content ≠ .idle) ∧
      (way = .releasing ∧ (∃ p, (s.voice v).content = .releasing p ∧ ∀ w q, (s.voice w).content = .releasing q →
          (w < v → p.fade.remaining < q.fade.remaining) ∧ (v < w → p.fade.remaining ≤ q.fade.remaining))
      ∨ (∀ w q, (s.voice w).content ≠ .releasing q) ∧ way = .stolen ∧ isStolen r s v))

/-- The cue that goes on sounding, as the outgoing cue, on a voice that a claim takes (R79). -/
def Content.outgoingFor (way : Obtained) : Content → Option Playing
  | .sounding p => some (if way = .stolen then { p with fade := .release p.fadeValue 480 0, endReason := none }
      else { p with fade := .release p.fadeValue 96 0, endReason := some .cut })
  | .releasing p => some p
  | .handover p _ _ => some p
  | _ => none

/-- The claim ends without a voice (R75, R76): a slot gets the result, any other source the REFUSED report, and nothing
else changes. -/
def refusedWith (r : ClaimRequest) (code : ResultCode) (detail : List Byte) (voice : Byte) (value : List Byte)
    (s t : State) : Prop :=
  (r.source = .slate → awaiting r.origin s → resultOf r.origin t = some (code, detail) ∧ slateBut r.origin s t)
  ∧ (r.source ≠ .slate → reportBut s t ∧ firstReport
      (aboutRefusal code r.source r.origin (if r.source = .schedule then r.tag else 0) voice r.cue.entry value s) s t)

/-- A resolution that ends with a code from a source other than a slot (R16): the REFUSED report, from the state `s`, with
the resolver left as in `u`. -/
def resolutionRefused (code : ResultCode) (source : Source) (origin : Nat) (x : Selector) (s u t : State) : Prop :=
  reportBut u t ∧ firstReport (aboutRefusal code source origin 0 0xFF x [0, 0, 0] s) s t

/-- The MISSED report of an entry of the Fire Schedule (R53, R114), at this sample. -/
def missedEntry (e : Entry) (reason : Byte) (frame : Word) (s : State) : Report :=
  { aboutNone .missed e.cue.entry ([reason, 0, 0, 0] ++ toBytes 4 e.target.toNat
      ++ toBytes 2 (min 65535 (frame - e.target).toNat)) s with tag := e.tag }

/-- The claim the Fire Schedule places for an entry or a fire (R107, R110). -/
def scheduled (cue : ResolvedCue) (source : Source) (origin : Nat) (tag : Half) (start : Start) (mark : Option Word) :
    ClaimRequest :=
  { cue := cue, source := source, origin := origin, tag := tag, start := start, lateMark := mark, leader := none }

/-- The walk of the Fire Schedule handles these entries one after another, in list order, from the state `s` to the state `t`
(R110): one that is ahead is claimed AT_FRAME, one late within its allowance FRAME with a late mark, and one later gives
MISSED, reason LATE, as the first report of its turn. -/
def walked (frame : Word) (ahead : Entry → Bool) : List Entry → State → State → Prop
  | [], s, t => t = s
  | e :: es, s, t =>
    let inTime : Prop := (frame - e.target).toNat ≤ e.cue.sound.lateAllowance
    ∃ u, (ahead e = true →
        u = claim (scheduled e.cue .schedule e.origin e.tag (.atFrame e.target false) none) (some e.target) s)
      ∧ (ahead e = false → inTime →
        u = claim (scheduled e.cue .schedule e.origin e.tag .frame (some e.target)) (some e.target) s)
      ∧ (ahead e = false → ¬ inTime → reportBut s u ∧ firstReport (missedEntry e 0 frame s) s u)
      ∧ walked frame ahead es u t

/-- Every voice is silent within `n` samples, nothing is booked and no work waits in the resolver (R39, R40). -/
def silentWithin (n : Nat) (t : State) : Prop :=
  (∀ v, (t.voice v).content.silentWithin n) ∧ t.schedule.entries = [] ∧ (∀ v : Fin 24, t.schedule.links[v] = none)
  ∧ t.resolver.follows = [] ∧ t.resolver.lines = [] ∧ t.resolver.current = none
  ∧ t.trigger.queue = [] ∧ (∀ k : Fin 8, t.trigger.holdLinks[k] = none)
  ∧ t.slate.queue = [] ∧ t.slate.scan = none ∧ t.slate.scanWaiting = false

/-! ### Ends of jobs -/

/-- The job in flight ends without error and has an owner (R138). -/
def endsWell (j : Job) (e : JobEnd) (s : State) : Prop :=
  s.port.inFlight = some j ∧ s.port.discard = false ∧ e.error = false ∧ j.outOfRange = false

/-- The state in which the owner of a job that ended without error acts: the port free, show memory up to date. -/
def atEnd (j : Job) (e : JobEnd) (s : State) : State :=
  { s with mem := memoryAfter j e false s.mem, port := { s.port with inFlight := none, discard := false } }

/-- The job in flight ends with a memory error and has an owner (R138). -/
def endsBadly (j : Job) (e : JobEnd) (s : State) : Prop :=
  s.port.inFlight = some j ∧ s.port.discard = false ∧ (e.error = true ∨ j.outOfRange = true)

/-- The state in which the owner of a job that ended with a memory error acts: the port free, show memory with the console
processor's writes and some of the job's own. -/
def atFault (j : Job) (e : JobEnd) (s : State) : State :=
  { s with mem := memoryAfter j e true s.mem, port := { s.port with inFlight := none, discard := false } }

/-- The bytes a read delivers when it ends. -/
def delivered (j : Job) (e : JobEnd) (s : State) : List Byte := readData j (atEnd j e s)

/-- A switch is committed with this scene record and these rules (R173): the whole record is in force, and the first busy
write waits at the port (R174). -/
def committed (w : Switch) (r : SceneRecord) (rules : List Rule) (s t : State) : Prop :=
  (t.run.current = some w.target ∧ t.run.staging = none
    ∧ t.run.switch = some { w with phase := .marking, rules := rules.length })
  ∧ (t.trigger.rules = rules ∧ t.trigger.keyMap = r.keyMap ∧ (∀ g : Fin 8, t.trigger.groups[g] = none)
    ∧ (∀ i : Fin 16, t.trigger.qualify[i] = 48 * r.qualify[i])
    ∧ ∀ i : Fin 64, t.trigger.armed.getLsbD i = match rules[i.val]? with
        | some x => x.initiallyArmed
        | none => false)
  ∧ (t.resolver.live = r.live
    ∧ ∀ i : Fin 32, t.resolver.vars[i] = if r.presetMask.getLsbD i then r.presets[i] else s.resolver.vars[i])
  ∧ ((∀ b : Fin 4, t.mix.buses[b].trim = r.trims[b])
    ∧ ∀ g : Fin 4, t.mix.ducks[g].depth = r.ducks[g].depth ∧ t.mix.ducks[g].attack = r.ducks[g].attack
      ∧ t.mix.ducks[g].recovery = r.ducks[g].recovery ∧ t.mix.ducks[g].keyLine = r.ducks[g].keyLine
      ∧ t.mix.ducks[g].offset = max s.mix.ducks[g].offset (-(r.ducks[g].depth : Int))
      ∧ t.mix.ducks[g].keying = s.mix.ducks[g].keying
      ∧ (t.mix.ducks[g].keyed = true ↔ s.mix.ducks[g].keying ≠ 0
          ∨ ∃ n, r.ducks[g].keyLine = some n ∧ s.trigger.lines[n].level = true)
      ∧ t.mix.ducks[g].sub = (if t.mix.ducks[g].keyed = s.mix.ducks[g].keyed then s.mix.ducks[g].sub else 0))
  ∧ (∃ j, atPort j t ∧ match w.previous with
      | some p => j = writeJob (.busyWrite p false) ((header s).sceneTable + 160 * p + 1) [0]
      | none => j = writeJob (.busyWrite w.target true) ((header s).sceneTable + 160 * w.target + 1) [1])

/-! ### Properties of every state of a run -/

/-- The voice is SOUNDING, its entry made: one whose first sample is the next is SOUNDING without it (log entry 15). -/
def Content.entered : Content → Bool
  | .sounding p => p.entry.isNone
  | _ => false

/-- The start-order list holds exactly the voices that have entered SOUNDING and not left it, each once (R83). -/
def orderExact (s : State) : Prop :=
  s.startOrder.Nodup ∧ ∀ v : Fin 24, v ∈ s.startOrder ↔ (s.voice v).content.entered = true

/-- At most one voice of each exclusive group has entered SOUNDING and not left it (R82). -/
def groupsExclusive (s : State) : Prop :=
  ∀ (v w : Fin 24) (p q : Playing), (s.voice v).content = .sounding p → (s.voice w).content = .sounding q →
    p.entry = none → q.entry = none → p.sound.group ≠ 0 → p.sound.group = q.sound.group → v = w

/-- Every duck offset lies between minus its depth and 0 (R157). -/
def ducksInRange (s : State) : Prop :=
  ∀ g : Fin 4, -(s.mix.ducks[g].depth : Int) ≤ s.mix.ducks[g].offset ∧ s.mix.ducks[g].offset ≤ 0

/-- Every bus output sample is a signed 24-bit number (R159). -/
def busesInRange (s : State) : Prop :=
  ∀ b : Fin 4, (-8388608 ≤ s.mix.buses[b].left ∧ s.mix.buses[b].left ≤ 8388607)
    ∧ (-8388608 ≤ s.mix.buses[b].right ∧ s.mix.buses[b].right ≤ 8388607)

/-- The schedule holds at most 64 entries (R105), the line intake 16 fires (R56), the event queue 16 events (R123) and the
hold list 16 reports (R180). -/
def queuesBounded (s : State) : Prop :=
  s.schedule.entries.length ≤ 64 ∧ s.resolver.lines.length ≤ 16 ∧ s.trigger.queue.length ≤ 16
    ∧ s.reports.holdList.length ≤ 16

/-- The counters that saturate: dropped and lost reports (R180), further faults (R183). -/
def countersBounded (s : State) : Prop :=
  s.reports.drops ≤ 65535 ∧ s.reports.lost ≤ 255 ∧ s.fault.further ≤ 255

/-- The head cache holds at most 16 entries, no two with the same address (R147). -/
def cacheSound (s : State) : Prop := s.cache.length ≤ 16 ∧ (s.cache.map CacheEntry.address).Nodup

/-- No slot is held twice (R42), and no leader has two follow-on requests waiting (R55). -/
def ownersDistinct (s : State) : Prop :=
  (s.slate.held.map fun h => h.taken.slot).Nodup ∧ (s.resolver.follows.map FollowOn.leader).Nodup

end Sys2Proof.Machine
end

