-- ==== Sys2Proof/Certificates/Slice0/Obligations.lean ====
section
/-! DEFINITION. The statements for the provers. Each docstring names the rule of spec/ its statement formalises. -/

section

open Sys2Proof Sys2Proof.Machine

/-! ### The step, and what every command keeps -/

/-- One step takes the command at the front of the queue and runs it with the queue's rest; on an empty queue the block
idles, which is the model's choice (log entry 7). -/
def Obligations.StepTakesFrontCommand : Prop :=
  (∀ (c : Instr) (rest : List Instr) (s : State),
    step { s with pending := c :: rest } = exec c { s with pending := rest })
  ∧ ∀ s : State, s.pending = [] → step s = .next s

/-- Every command answers a next state in every state, and leaves the queue of commands as it finds it: the manual gives
each row its effect (chapter 95), and a command that is not due changes nothing, the model's choice (log entry 9). -/
def Obligations.EveryCommandCompletes : Prop :=
  ∀ (c : Instr) (s : State), ∃ t, exec c s = .next t ∧ t.pending = s.pending

/-- Every step keeps show memory in its canonical form (log entry 1). -/
def Obligations.MemoryStaysCanonical : Prop :=
  ∀ s t : State, Memory.wf s.mem = true → step s = .next t → Memory.wf t.mem = true

/-- Every step keeps R83, that the start-order list holds exactly the voices in SOUNDING, each once, and R82's
consequence, that at most one voice of each exclusive group is SOUNDING. A voice whose first sample is the next one
counts from that sample (log entry 15). -/
def Obligations.OrderAndGroupsStayExact : Prop :=
  (∀ s t : State, orderExact s → step s = .next t → orderExact t)
  ∧ ∀ s t : State, groupsExclusive s → step s = .next t → groupsExclusive t

/-- Every step keeps every duck offset within minus its group's depth to 0 (R157) and every bus sample within 24 bits
(R159); the bounds of the schedule, the line intake, the event queue and the hold list (R56, R105, R123, R180), the
saturating counts (R180, R183), the head cache's 16 entries with distinct addresses (R147); and that no slot is held
twice and no leader has two follow-on requests (R42, R55). -/
def Obligations.BoundsAreKept : Prop :=
  (∀ s t : State, ducksInRange s → step s = .next t → ducksInRange t)
  ∧ (∀ s t : State, busesInRange s → step s = .next t → busesInRange t)
  ∧ (∀ s t : State, queuesBounded s → countersBounded s → step s = .next t → queuesBounded t ∧ countersBounded t)
  ∧ (∀ s t : State, cacheSound s → step s = .next t → cacheSound t)
  ∧ ∀ s t : State, ownersDistinct s → step s = .next t → ownersDistinct t

/-- The state after cold reset has every property that the steps keep. -/
def Obligations.ResetHasEveryProperty : Prop :=
  Memory.wf State.reset.mem = true ∧ orderExact State.reset ∧ groupsExclusive State.reset ∧ ducksInRange State.reset
  ∧ busesInRange State.reset ∧ queuesBounded State.reset ∧ countersBounded State.reset ∧ cacheSound State.reset
  ∧ ownersDistinct State.reset

/-! ### The register window (chapter 03 section 3.1) -/

/-- R22, whole: N and D of each rate code, which are the frames per second against the 48 kHz clock and give the samples
per frame; code 7 refused by SET RATE and by the header check; code 1 after cold reset. -/
def Obligations.RateTable : Prop :=
  (List.map (fun r : Fin 7 => (rateN r, rateD r)) (List.finRange 7)
    = [(2000, 1), (1920, 1), (8008, 5), (1600, 1), (960, 1), (4004, 5), (800, 1)])
  ∧ (List.map (fun r : Fin 7 => (rateN r / rateD r, (rateN r + rateD r - 1) / rateD r)) (List.finRange 7)
    = [(2000, 2000), (1920, 1920), (1601, 1602), (1600, 1600), (960, 960), (800, 801), (800, 800)])
  ∧ (∀ r : Fin 7, ∀ f, [(24, 1), (25, 1), (30000, 1001), (30, 1), (50, 1), (60000, 1001), (60, 1)][r.val]? = some f →
      f.1 * rateN r = 48000 * rateD r * f.2)
  ∧ (∀ (s : State) (tk : Taken) (rest : List Taken), headRequest s = some (tk, rest, .setRate 7) → awaiting tk.slot s →
      Answers .setRate s tk.slot .badArg [] s)
  ∧ (∀ h : Header, h.rate = 7 → h.check ≠ none)
  ∧ State.reset.clock.rate = 1 ∧ ∀ s t : State, exec .coldReset s = .next t → t.clock.rate = 1

/-- The layout of the four words, every bit of them (R36, R46), CF_IRQ (R36), and the writes (R35 to R37): enables are
put, flags written 1 are cleared, the header base takes a write but for its low 8 bits, the identity word takes none,
and a control word with WARM clear and RUN as it stands only puts the enables. Nothing else changes, and no job is
placed. A control word with WARM set is WARM_RESET; one with WARM clear and RUN changed is RUN_SET or RUN_CLEAR with its
enables. -/
def Obligations.RegisterWindow : Prop :=
  (∀ r : Registers,
    r.read 0 = some 0x0C240101#32 ∧ r.read 4 = some r.headerBase
    ∧ (∃ w, r.read 8 = some w ∧ w.getLsbD 0 = r.run ∧ BitVec.extractLsb' 8 3 w = r.enables
        ∧ ∀ i, i ≠ 0 → (i < 8 ∨ 11 ≤ i) → w.getLsbD i = false)
    ∧ (∃ w, r.read 12 = some w ∧ (BitVec.extractLsb' 0 3 w).toNat = r.part.code
        ∧ (BitVec.extractLsb' 4 4 w).toNat = r.startFault.code ∧ BitVec.extractLsb' 8 3 w = r.flags
        ∧ ∀ i, (i = 3 ∨ 11 ≤ i) → w.getLsbD i = false)
    ∧ (r.irq = true ↔ ∃ i : Fin 3, r.flags.getLsbD i = true ∧ r.enables.getLsbD i = true))
  ∧
  ∀ s : State,
    (∀ e, ∃ t, exec (.interruptEnableWrite e) s = .next t ∧ portBut { s with regs := { s.regs with enables := e } } t)
    ∧ (∀ w : Word, ∃ t f, exec (.interruptFlagClear w) s = .next t
        ∧ (∀ i : Fin 3, BitVec.getLsbD f i = (s.regs.flags.getLsbD i && !w.getLsbD (8 + i.val)))
        ∧ portBut { s with regs := { s.regs with flags := f } } t)
    ∧ (∀ w : Word, ∃ t, exec (.registerWrite 0 w) s = .next t ∧ portBut s t)
    ∧ (∀ w : Word, ∃ t b, exec (.registerWrite 4 w) s = .next t
        ∧ (∀ i : Fin 32, BitVec.getLsbD b i = (w.getLsbD i && decide (8 ≤ i.val)))
        ∧ portBut { s with regs := { s.regs with headerBase := b } } t)
    ∧ (∀ w : Word, w.getLsbD 1 = false → w.getLsbD 0 = s.regs.run → ∃ t, exec (.registerWrite 8 w) s = .next t
        ∧ portBut { s with regs := { s.regs with enables := BitVec.extractLsb' 8 3 w } } t)
    ∧ (∀ w : Word, w.getLsbD 1 = true → exec (.registerWrite 8 w) s = exec .warmReset s)
    ∧ (∀ w : Word, w.getLsbD 1 = false → w.getLsbD 0 ≠ s.regs.run → exec (.registerWrite 8 w) s =
        if w.getLsbD 0 then exec (.runSet (BitVec.extractLsb' 8 3 w)) s
        else exec (.runClear (BitVec.extractLsb' 8 3 w)) s)
    ∧ ∀ w : Word, exec (.registerWrite 12 w) s = exec (.interruptFlagClear w) s

/-- RUN_SET (R37, R38, R161, R166): from STOPPED with RUN 0 the part is STARTING with start fault NONE, no working
header copy, no hold, the meter count and peaks 0, and the header read at the port, as one 144-byte job (log entry 50);
in every other case only RUN and the enables are put. -/
def Obligations.RunSetStarts : Prop :=
  ∀ (s : State) (e : BitVec 3),
    (s.regs.part = .stopped → s.regs.run = false → ∃ t, exec (.runSet e) s = .next t
      ∧ portPlus (readJob .header s.regs.headerBase.toNat 144) { s with
          regs := { s.regs with run := true, enables := e, part := .starting, startFault := .none }
          slate := { s.slate with header := none }
          run := { s.run with hold := .none, release := none }
          mix := { s.mix with
            meterCount := 0, buses := Vector.ofFn fun b : Fin 4 => { s.mix.buses[b] with peak := 0 } } } t)
    ∧ (s.regs.part ≠ .stopped ∨ s.regs.run = true → ∃ t, exec (.runSet e) s = .next t
      ∧ portBut { s with regs := { s.regs with run := true, enables := e } } t)

/-- RUN_CLEAR (R37, R39): from RUNNING the part is STOPPING, every voice is silent within 96 samples, nothing is booked,
no work waits, and every held slot that waited for a result has ABANDONED; from FAILED it is STOPPED; in the other
states only RUN and the enables are put. -/
def Obligations.RunClearStops : Prop :=
  ∀ (s : State) (e : BitVec 3),
    (s.regs.part = .running → s.regs.run = true → ∃ t, exec (.runClear e) s = .next t
      ∧ t.regs.part = .stopping ∧ t.regs.run = false ∧ t.regs.enables = e ∧ t.regs.headerBase = s.regs.headerBase
      ∧ t.regs.startFault = s.regs.startFault
      ∧ silentWithin 96 t ∧ (∀ i, i < 64 → awaiting i s → resultOf i t = some (.abandoned, []))
      ∧ t.mem = s.mem ∧ t.clock = s.clock ∧ t.tally = s.tally ∧ t.resolver.vars = s.resolver.vars
      ∧ t.resolver.live = s.resolver.live ∧ t.trigger.rules = s.trigger.rules ∧ t.trigger.armed = s.trigger.armed
      ∧ t.trigger.groups = s.trigger.groups ∧ t.mix.buses = s.mix.buses ∧ t.run.hold = s.run.hold
      ∧ t.run.current = s.run.current ∧ t.slate.header = s.slate.header)
    ∧ (s.regs.part = .failed → s.regs.run = true → ∃ t, exec (.runClear e) s = .next t
      ∧ portBut { s with regs := { s.regs with run := false, enables := e, part := .stopped } } t)
    ∧ (s.regs.part ≠ .running → s.regs.part ≠ .failed ∨ s.regs.run = false → ∃ t, exec (.runClear e) s = .next t
      ∧ portBut { s with regs := { s.regs with run := false, enables := e } } t)

/-- WARM_RESET and COLD_RESET (R34, R36, R41, R58, R121, R138, R175, R176). Warm reset leaves the state after cold reset
but for the Frame Clock, the header base, the show variables, the tally latch, show memory, and a job in flight whose
completion will be discarded; cold reset leaves the state after cold reset but for show memory, in which only a write in
flight may change its own bytes: a busy write and a TAKEN write complete, of any other a free value says which bytes
landed (log entry 19; the busy 0 writes of a start are one job, log entry 20). Both keep the levels the inputs and the
reference were last seen at and the wires pulled from outside (log entries 17 and 18). -/
def Obligations.ResetsClear : Prop :=
  (∀ s : State, exec .warmReset s = .next { State.reset with
      clock := s.clock
      regs := { State.reset.regs with headerBase := s.regs.headerBase }
      resolver := { State.reset.resolver with vars := s.resolver.vars }
      trigger := { State.reset.trigger with
        lines := Vector.ofFn fun i : Fin 16 => { level := false, seen := s.trigger.lines[i].seen, count := 0, due := false }
        keys := Vector.ofFn fun i : Fin 8 => { level := false, seen := s.trigger.keys[i].seen, count := 0, due := false } }
      port := { State.reset.port with inFlight := s.port.inFlight, discard := s.port.inFlight.isSome }
      tally := { s.tally with enabled := false }
      mem := s.mem, free := s.free, pending := s.pending })
  ∧ ∀ s : State, ∃ m n, exec .coldReset s = .next { State.reset with
      clock := { State.reset.clock with refSeen := s.clock.refSeen }
      trigger := { State.reset.trigger with
        lines := Vector.ofFn fun i : Fin 16 => { level := false, seen := s.trigger.lines[i].seen, count := 0, due := false }
        keys := Vector.ofFn fun i : Fin 8 => { level := false, seen := s.trigger.keys[i].seen, count := 0, due := false } }
      tally := { s.tally with latch := 0, enabled := false }
      mem := m, free := n, pending := s.pending }
    ∧ (s.port.inFlight = none → m = s.mem ∧ n = s.free)
    ∧ ∀ j, s.port.inFlight = some j →
        ((∃ i, (∃ v, j.kind = .busyWrite i v) ∨ j.kind = .takenWrite i) → m = Memory.writeBytes s.mem j.address j.data)
        ∧ (∀ k, j.kind = .busyClear k → Memory.wf s.mem = true →
            ∀ a, (∀ i, i < k → a ≠ j.address + 160 * i) → Memory.read m a = Memory.read s.mem a)
        ∧ ((∀ k, j.kind ≠ .busyClear k) → Memory.wf s.mem = true →
            ∀ a, a < j.address ∨ j.address + j.data.length ≤ a → Memory.read m a = Memory.read s.mem a)

/-! ### The word clock and the frame reference (chapter 02) -/

/-- SAMPLE (R20, R24, R119, R120, R176): show time advances by 1 modulo 2^40, the inputs of the new sample are seen, and
show memory is left alone. Of every line and key the candidate count is 0 when the level seen is the qualified level and
at the first sample of a new level, and else advances by 1; the edge is due when it has reached the line's qualify
count, or 240 for a key. That the sample marks the edge as due for LINE_EVENT and KEY_EVENT is log entry 16, and that a
SAMPLE takes the edges still due at the sample that ends is log entry 14. -/
def Obligations.SampleAdvancesTime : Prop :=
  ∀ (p : Pins) (s : State), ∃ t, exec (.sample p) s = .next t
    ∧ t.clock.showTime = s.clock.showTime + 1 ∧ t.mem = s.mem
    ∧ t.clock.refSeen = p.reference ∧ t.clock.refEdge = (p.reference && !s.clock.refSeen)
    ∧ t.tally.pulled = p.tally
    ∧ t.trigger.qualify = s.trigger.qualify
    ∧ (∀ i : Fin 16, t.trigger.lines[i] = qualified s.trigger.qualify[i] (p.lines.getLsbD i) s.trigger.lines[i])
    ∧ ∀ i : Fin 8, t.trigger.keys[i] = qualified 240 (p.keys.getLsbD i) s.trigger.keys[i]

/-- SAMPLE when nothing is due (R82, R86, R88, R101, R151 to R154, R157, R159 to R161): every bus side is the clamped
exact sum of what the voices contribute, each at its effective code, rounded; a clamp sets the clip flag, and the peak
takes in both sides; a duck group off its target counts towards its step, due at the interval in force, and at the
target its count is 0 (log entries 16 and 69). Every voice that plays gives one frame and advances, the outgoing cue of
HANDOVER too; a cue whose first sample is the next one keeps its position and loses the mark, and a voice that plays no
cue is left alone; the outgoing cue of HANDOVER keeps its underrun flag, the model's choice (log entry 54). The first
frame that a claim lacks gives UNDERRUN, no later one does, and several at one sample come in ascending voice number
(log entry 67), none of them for a cue cut at entry into FAILED (log entry 53). With one voice whose entry into SOUNDING
is still to come, its effects follow at the new sample (log entry 15), behind those reports, and a duck group that it
keys makes no step due at that sample, which R157 lets come first as well: the model's choice (log entry 65). -/
def Obligations.QuietSamplePlays : Prop :=
  ∀ (p : Pins) (s : State), settle s = s →
    (∃ t, exec (.sample p) s = .next t
      ∧ (∀ (b : Fin 4) (l r : Int), l = sumOf s b Frame.left → r = sumOf s b Frame.right →
        t.mix.buses[b].left = clamped l ∧ t.mix.buses[b].right = clamped r
        ∧ (t.mix.buses[b].clipFlag = true ↔ s.mix.buses[b].clipFlag = true ∨ clamped l ≠ l ∨ clamped r ≠ r)
        ∧ t.mix.buses[b].peak = max s.mix.buses[b].peak (max (clamped l).natAbs (clamped r).natAbs)
        ∧ t.mix.buses[b].trim = s.mix.buses[b].trim ∧ t.mix.buses[b].clipCount = s.mix.buses[b].clipCount)
      ∧ t.clock.frame = s.clock.frame ∧ t.cache = s.cache ∧ t.run = s.run
      ∧ ((∀ v q, (s.voice v).content = .sounding q → q.entry = none) →
          (∀ v, sampled (s.voice v) (t.voice v)) ∧ t.startOrder = s.startOrder ∧ t.resolver = s.resolver
          ∧ (∀ g : Fin 4, t.mix.ducks[g] = counted s.mix.ducks[g])
          ∧ reportsInOrder (underruns s) s t ∧ (underruns s = [] → t.reports = s.reports)))
    ∧ ∀ (v : Fin 24) (q : Playing) (l : Lateness), (s.voice v).content = .sounding q → q.fromNext = true →
        q.entry = some l → (∀ w x, w ≠ v → (s.voice w).content = .sounding x → x.entry = none) →
        ∃ t u x, exec (.sample p) s = .next t ∧ (u.voice v).content = .sounding x ∧ entersSounding v x u t
          ∧ u.clock.showTime = s.clock.showTime + 1 ∧ u.startOrder = s.startOrder ∧ u.regs.part = s.regs.part
          ∧ (u.voice v).head = (s.voice v).head ∧ (∀ w, sampled (s.voice w) (u.voice w))
          ∧ u.mix.buses = t.mix.buses ∧ u.slate = s.slate ∧ u.resolver = s.resolver ∧ u.run = s.run
          ∧ (∀ g : Fin 4, u.mix.ducks[g] = counted s.mix.ducks[g])
          ∧ reportsInOrder (underruns s) s u ∧ (underruns s = [] → u.reports = s.reports ∧ u.port = s.port)

/-- REFERENCE_PULSE and WINDOW_CLOSE (R21, R24 to R30): in SEEKING, and in HOLDOVER outside the window, the pulse
re-epochs the clock and makes a boundary with cause RE_EPOCH, whose consumers the next statements describe; where a
boundary has been made at this sample already, that one takes the cause and no second is made (log entry 32). In LOCKED
a pulse inside the window clears both runs and marks the window, one outside is a stray, and the third stray drops the
lock (R27, whole); in HOLDOVER one inside the window restores the lock. In LOCKED, at the eighth sample behind a
boundary whose window held no pulse, the missing run advances, and the tenth miss drops the lock to HOLDOVER with both
runs 0 (R28, whole). In RUNNING each change of lock state gives a REF_STATE report (R31), before the reports of the
boundary that the same pulse makes (log entry 6), its null selector 0, the model's choice (log entry 36); in any other
part state a change that makes no boundary gives none. -/
def Obligations.PulseAndWindowJudged : Prop :=
  (∀ s : State, s.clock.refEdge = true →
    ((s.clock.lock = .seeking ∨ s.clock.lock = .holdover ∧ s.clock.inside = false) →
      ∀ f, f = (if s.clock.madeHere then s.clock.frame else s.clock.frame + 1) →
      ∃ t, exec .referencePulse s = .next t
        ∧ t.clock = { s.clock with
            frame := f, epoch := s.clock.showTime, k := 0, lock := .locked, stray := 0, missing := 0
            held := false, lastHeld := true, lastOpen := true, refEdge := false
            boundary := some { frame := f, sample := s.clock.showTime, cause := .reEpoch } }
        ∧ t.mem = s.mem ∧ t.regs.part = s.regs.part ∧ t.tally = s.tally ∧ t.resolver.vars = s.resolver.vars
        ∧ (isRunning s = true → firstReport (aboutNone .refState Selector.null
            (if s.clock.lock = .seeking then [0, 1, 0] else [2, 1, 4]) s) s t))
    ∧ (s.clock.lock = .locked → s.clock.inside = true →
      ∃ t, exec .referencePulse s = .next t ∧ portBut { s with clock := { s.clock with
        stray := 0, missing := 0, refEdge := false
        held := s.clock.held || s.clock.inNextWindow, lastHeld := s.clock.lastHeld || s.clock.lastOpen } } t)
    ∧ (s.clock.lock = .locked → s.clock.inside = false → s.clock.stray < 2 →
      ∃ t, exec .referencePulse s = .next t
        ∧ portBut { s with clock := { s.clock with stray := s.clock.stray + 1, refEdge := false } } t)
    ∧ (s.clock.lock = .locked → s.clock.inside = false → s.clock.stray = 2 →
      ∃ t, exec .referencePulse s = .next t
        ∧ lockChanges [1, 0, 1] s { s.clock with lock := .seeking, stray := 0, missing := 0, refEdge := false } t)
    ∧ (s.clock.lock = .holdover → s.clock.inside = true →
      ∃ t, exec .referencePulse s = .next t ∧ lockChanges [2, 1, 3] s { s.clock with
        lock := .locked, stray := 0, missing := 0, refEdge := false
        held := s.clock.held || s.clock.inNextWindow, lastHeld := s.clock.lastHeld || s.clock.lastOpen } t))
  ∧
  ∀ s : State, s.clock.lock = .locked → s.clock.lastOpen = true → s.clock.lastHeld = false → s.clock.refEdge = false →
    s.clock.showTime = s.clock.last + 8#40 →
    (s.clock.missing < 9 → ∃ t, exec .windowClose s = .next t
      ∧ portBut { s with clock := { s.clock with lastOpen := false, missing := s.clock.missing + 1 } } t)
    ∧ (s.clock.missing = 9 → ∃ t, exec .windowClose s = .next t
      ∧ lockChanges [1, 2, 2] s { s.clock with lastOpen := false, lock := .holdover, stray := 0, missing := 0 } t)

/-- PREDICTED_BOUNDARY (R21, R23): at its position the frame counter advances by 1 modulo 2^32, a boundary event with
cause PREDICTED is made, the boundary just made lies at this sample, and bounding k moves no later position; at any
other sample, where a boundary has been made already, or where a pulse in SEEKING is still to make it, nothing happens
(log entries 9 and 32). -/
def Obligations.PredictedBoundaryKeepsPattern : Prop :=
  ∀ s : State,
    (s.clock.showTime = s.clock.next → s.clock.madeHere = false → (s.clock.refEdge = false ∨ s.clock.lock ≠ .seeking) →
      ∃ t, exec .predictedBoundary s = .next t ∧ t.clock.frame = s.clock.frame + 1
        ∧ t.clock.boundary = some { frame := s.clock.frame + 1, sample := s.clock.showTime, cause := .predicted }
        ∧ t.clock.showTime = s.clock.showTime ∧ t.clock.last = s.clock.showTime ∧ t.clock.rate = s.clock.rate
        ∧ (∀ n, t.clock.boundaryAt (t.clock.k + n) = s.clock.boundaryAt (s.clock.k + 1 + n))
        ∧ t.clock.lock = s.clock.lock ∧ t.clock.stray = s.clock.stray ∧ t.clock.missing = s.clock.missing
        ∧ t.mem = s.mem ∧ t.regs.part = s.regs.part)
    ∧ ((s.clock.showTime ≠ s.clock.next ∨ s.clock.madeHere = true ∨ s.clock.refEdge = true ∧ s.clock.lock = .seeking) →
      ∃ t, exec .predictedBoundary s = .next t ∧ portBut s t)

/-- What a boundary hands to the units besides the voices (R30, R42, R45, R160, R161, R181), a predicted one or that of
a re-epoch, which comes behind the REF_STATE report of its change of lock state: in RUNNING a slate scan starts with the
read of slot 0, or waits for the one in progress, and the mirror write is placed, or waits for the one before it, with
the values of this boundary; in RUNNING and STOPPING the returned-to read is placed unless one is outstanding; clip
flags become counts, with a CLIP report in RUNNING, and the meter counts, with a METER report at its interval. The
mirror carries the clip counts after that counting (log entry 37) and bytes 34 to 127 of the header (log entry 50), and
the null selector of the reports is 0, the model's choice (log entry 36). That CLIP and METER are the first reports of
the boundary, and that the mirror is formed before the voices' starts and the walk of the schedule, rests on the order
in which the model lets the consumers of a boundary act, its choice (log entry 6). -/
def Obligations.BoundaryReachesUnits : Prop :=
  ∀ (s : State) (c : Instr), makesBoundary c s → ∃ b t, boundaryFrom c s b ∧ exec c s = .next t
      ∧ (isRunning b = true →
        (b.slate.scan = none → t.slate.scan = some 0 ∧ t.slate.scanWaiting = b.slate.scanWaiting
          ∧ atPort (readJob (.slateRead 0) (header b).slate 32) t)
        ∧ (∀ i, b.slate.scan = some i → t.slate.scan = some i ∧ t.slate.scanWaiting = true)
        ∧ ∃ drops scene data, data =
            toBytes 2 drops ++ toBytes 1 b.reports.lost ++ toBytes 1 b.clock.lock.code ++ toBytes 1 b.run.hold.code
              ++ [scene] ++ toBytes 4 (b.clock.frame + 1).toNat ++ toBytes 4 (b.clock.showTime.setWidth 32).toNat
              ++ toBytes 2 (sensed b).toNat ++ toBytes 2 b.tally.latch.toNat
              ++ (t.mix.buses.toList.map fun x => toBytes 2 x.clipCount).flatten ++ toBytes 4 0
              ++ (b.resolver.vars.toList.map fun v => toBytes 2 v.toNat).flatten
          ∧ (∀ i, b.run.current = some i → scene = BitVec.ofNat 8 i)
          ∧ ((∀ g : Fin 4, b.mix.buses[g].clipFlag = false) → b.mix.meterInterval = 0 → drops = b.reports.drops)
          ∧ (houseHas (fun k => k == .mirror) b = false →
              atPort (writeJob .mirror ((header b).base + 34) data) t ∧ t.slate.mirrorWaiting = b.slate.mirrorWaiting)
          ∧ (houseHas (fun k => k == .mirror) b = true → t.slate.mirrorWaiting = some data))
      ∧ (isRunning b = false → t.slate = b.slate)
      ∧ (isActive b = true → houseHas (fun k => k == .returnedTo) b = false →
          atPort (readJob .returnedTo ((header b).base + 28) 2) t)
      ∧ (isActive b = false ∨ houseHas (fun k => k == .returnedTo) b = true →
          ∀ j, atPort j t → j.kind = .returnedTo → atPort j b)
      ∧ (∀ g : Fin 4, t.mix.buses[g].clipFlag = false ∧ t.mix.buses[g].trim = b.mix.buses[g].trim
        ∧ t.mix.buses[g].clipCount =
            if b.mix.buses[g].clipFlag then min 65535 (b.mix.buses[g].clipCount + 1) else b.mix.buses[g].clipCount)
      ∧ (∀ mask : BitVec 4, (∀ g : Fin 4, mask.getLsbD g = b.mix.buses[g].clipFlag) → isRunning b = true → mask ≠ 0 →
          firstReport (aboutNone .clip Selector.null
            (toBytes 1 mask.toNat ++ [0] ++ toBytes 2 b.clock.frame.toNat) b) b t)
      ∧ (isRunning b = false ∨ b.mix.meterInterval = 0 → t.mix.meterCount = b.mix.meterCount
          ∧ ∀ g : Fin 4, t.mix.buses[g].peak = b.mix.buses[g].peak)
      ∧ (isRunning b = true → b.mix.meterInterval ≠ 0 →
        (b.mix.meterCount + 1 < b.mix.meterInterval → t.mix.meterCount = b.mix.meterCount + 1
          ∧ ∀ g : Fin 4, t.mix.buses[g].peak = b.mix.buses[g].peak)
        ∧ (b.mix.meterInterval ≤ b.mix.meterCount + 1 → t.mix.meterCount = 0
          ∧ (∀ g : Fin 4, t.mix.buses[g].peak = 0)
          ∧ ((∀ g : Fin 4, b.mix.buses[g].clipFlag = false) →
            firstReport (aboutNone .meter Selector.null
              (b.mix.buses.toList.map fun x => BitVec.ofNat 8 (min 255 (x.peak / 32768))) b) b t)))

/-- What a boundary, predicted or of a re-epoch (R30), hands to the voices (R69, R91, R111), with nothing booked and one
claim waiting: an ARMED voice enters SOUNDING at this sample when it waits for a frame, or for this one with no LIGHT
hold; a PRIMING or HANDOVER claim whose target it is becomes overdue; in a LIGHT hold a claim whose target it is is
withdrawn with MISSED, reason HELD; any other claim goes on waiting. A re-epoch acts behind the REF_STATE report of its
change of lock state (log entry 6), whose null selector is 0, the model's choice (log entry 36). -/
def Obligations.BoundaryReachesVoices : Prop :=
  ∀ (s : State) (c : Instr) (v : Fin 24) (i : Incoming) (f : Word), makesBoundary c s →
    f = s.clock.frame + 1 → s.schedule.entries = [] →
    (s.voice v).content.incoming = some i → (∀ w, w ≠ v → (s.voice w).content.incoming = none) →
    (∀ b : Fin 4, s.mix.buses[b].clipFlag = false) → s.mix.meterInterval = 0 →
    ∃ b t, boundaryFrom c s b ∧ exec c s = .next t
      ∧ ((s.voice v).content = .armed i → (i.start = .frame ∨ i.start = .atFrame f false ∧ s.run.hold ≠ .light) →
          entersSounding v (i.begin false none) b t)
      ∧ (i.start = .atFrame f false → s.run.hold ≠ .light →
          ((s.voice v).content = .priming i → (t.voice v).content = .priming { i with start := .atFrame f true })
          ∧ (∀ p l, (s.voice v).content = .handover p i l →
              (t.voice v).content = .handover p { i with start := .atFrame f true } l))
      ∧ (i.start = .atFrame f false → s.run.hold = .light →
          (t.voice v).content = (s.voice v).content.afterWithdraw ∧ (t.voice v).claimNo = (s.voice v).numberAfterWithdraw
          ∧ firstReport (aboutClaim .missed v i.claim
              ([1, 0] ++ toBytes 2 i.claim.number.toNat ++ toBytes 4 f.toNat ++ [0, 0]) s) b t)
      ∧ (i.start ≠ .atFrame f false → ((s.voice v).content = .armed i → i.start ≠ .frame) →
          (t.voice v).content = (s.voice v).content)
      ∧ (((s.voice v).content = .armed i → i.start ≠ .frame ∧ (i.start ≠ .atFrame f false ∨ s.run.hold = .light)) →
          t.startOrder = s.startOrder ∧ ∀ w, w ≠ v → voiceAlike w s t)

/-- The walk of the Fire Schedule at a boundary, predicted or of a re-epoch (R30, R110, R115), where no voice holds a
claim that has not sounded: the due entries leave the list and are handled one after another in list order, each claimed
at once (log entry 56), one whose target is ahead as AT_FRAME, one late within its allowance as FRAME with a late mark,
and one later than that MISSED, reason LATE; in a LIGHT hold the entries ahead stay in their place and the late ones go
with MISSED, reason HELD, in list order. The entries from the first that is 3 or more frames ahead stay. A re-epoch acts
behind the REF_STATE report of its change of lock state (log entry 6), whose null selector is 0, the model's choice (log
entry 36). -/
def Obligations.BoundaryWalksSchedule : Prop :=
  ∀ (s : State) (c : Instr) (due far : List Entry) (ahead : Entry → Bool), makesBoundary c s → isRunning s = true →
    (∀ v, (s.voice v).content.incoming = none) → (∀ b : Fin 4, s.mix.buses[b].clipFlag = false) →
    s.mix.meterInterval = 0 → s.schedule.entries = due ++ far →
    (∀ e ∈ due, (e.target - (s.clock.frame + 1)).toNat < 3 ∨ 2 ^ 31 ≤ (e.target - (s.clock.frame + 1)).toNat) →
    (∀ e, far.head? = some e → 3 ≤ (e.target - (s.clock.frame + 1)).toNat
      ∧ (e.target - (s.clock.frame + 1)).toNat < 2 ^ 31) →
    (∀ e, ahead e = true ↔ 1 ≤ (e.target - (s.clock.frame + 1)).toNat
      ∧ (e.target - (s.clock.frame + 1)).toNat < 2 ^ 31) →
    ∃ b t, boundaryFrom c s b ∧ exec c s = .next t
      ∧ (s.run.hold ≠ .light → t.schedule.entries = far)
      ∧ (s.run.hold = .light → t.schedule.entries = due.filter ahead ++ far ∧ (∀ v, voiceAlike v s t)
        ∧ reportsInOrder ((due.filter fun e => !ahead e).map fun e => missedEntry e 1 (s.clock.frame + 1) s) b t)
      ∧ (s.run.hold ≠ .light → ∃ u x, u.voices = s.voices ∧ u.startOrder = s.startOrder
        ∧ u.run = s.run ∧ u.resolver = s.resolver ∧ u.cache = s.cache ∧ u.mix.ducks = s.mix.ducks
        ∧ u.trigger = s.trigger ∧ u.reports = b.reports ∧ u.clock = t.clock ∧ u.slate.header = s.slate.header
        ∧ u.regs.part = s.regs.part ∧ u.schedule = { s.schedule with entries := far }
        ∧ walked (s.clock.frame + 1) ahead due u x ∧ portBut x t)
      ∧ ∀ e late, due = [e] → late = (s.clock.frame + 1 - e.target).toNat → s.run.hold ≠ .light → ahead e = false →
        e.cue.sound.lateAllowance < late →
        (∀ v, voiceAlike v s t) ∧ firstReport (missedEntry e 0 (s.clock.frame + 1) s) b t

/-! ### Trigger lines and panel keys (chapter 07) -/

/-- LINE_EVENT and QUEUED_EVENT_TAKEN (R119, R121 to R123, R125, R127, R135, R169): a due edge makes the qualified level
the level seen; outside RUNNING its event is discarded; while a switch is in LOADING or events wait, it joins the tail
of the event queue, or, when that is full, is dropped with TRIGGER_DROPPED; else the rules are evaluated, and an armed
matching rule with a FIRE action and no group places its fire. The assert edge of the line a hold waits for releases the
hold, whatever becomes of its event, with HOLD_RELEASED as the first report of the edge (log entry 58); no other edge
releases one. The null selector of those reports is 0, the model's choice (log entry 36). A duck group whose key line
the edge moves is re-judged, and where its keyed flag changes its sub-counter is 0 and no step is due (R156, R157). The
head of the event queue leaves it when its turn comes, one a sample, and is evaluated as KeyEventTaken and
RulesEvaluated say; where this sample's event has been taken, the next one waits (log entry 70), and while a switch is
loading a command to take one does nothing (log entry 9). -/
def Obligations.LineAndQueuedEventsTaken : Prop :=
  (∀ (n : Fin 16) (s : State), s.trigger.lines[n].due = true → ∃ t, exec (.lineEvent n) s = .next t
    ∧ t.trigger.lines = s.trigger.lines.set n
        { s.trigger.lines[n] with level := s.trigger.lines[n].seen, count := 0, due := false }
    ∧ t.mem = s.mem ∧ t.clock = s.clock ∧ t.tally = s.tally ∧ t.mix.buses = s.mix.buses ∧ t.cache = s.cache
    ∧ (isRunning s = false → t.trigger.queue = s.trigger.queue ∧ t.resolver = s.resolver ∧ t.startOrder = s.startOrder)
    ∧ (isRunning s = true → (isLoading s = true ∨ s.trigger.queue ≠ []) → s.trigger.queue.length < 16 →
        t.trigger.queue = s.trigger.queue ++ [.line n s.trigger.lines[n].seen s.clock.showTime]
        ∧ t.resolver = s.resolver ∧ t.startOrder = s.startOrder)
    ∧ (isRunning s = true → isLoading s = false → s.trigger.queue = [] → ∀ (r : Rule) (x : Selector),
        s.trigger.rules = [r] → r.action = some (.fire x) → r.group = none → s.trigger.armed.getLsbD 0 = true →
        r.sources.getLsbD n = true → r.edge = .both → r.guardCond = none → s.resolver.lines.length < 16 →
        t.resolver = { s.resolver with lines := s.resolver.lines ++
          [{ source := .rule, origin := 0, selector := x, level := r.level, frame := r.frame }] }))
  ∧ (∀ (s : State) (e : Event) (q : List Event), isRunning s = true → isLoading s = false →
      s.trigger.queueTaken = false → s.trigger.queue = e :: q → ∃ t, exec .queuedEventTaken s = .next t
        ∧ t.trigger.queue = q ∧ t.trigger.queueTaken = true ∧ t.mem = s.mem ∧ t.clock = s.clock
        ∧ (∀ k at_, e = .key k true at_ → s.resolver.lines.length < 16 →
            t.resolver = { s.resolver with lines := s.resolver.lines ++
              [{ source := .key, origin := k.val, selector := s.trigger.keyMap[k].selector, level := 0, frame := false }] }))
  ∧ (∀ s : State, isLoading s = true ∨ s.trigger.queueTaken = true →
      ∃ t, exec .queuedEventTaken s = .next t ∧ portBut s t)
  ∧ ∀ (n : Fin 16) (s : State), s.trigger.lines[n].due = true → ∃ t, exec (.lineEvent n) s = .next t
    ∧ (isRunning s = true → (isLoading s = true ∨ s.trigger.queue ≠ []) → 16 ≤ s.trigger.queue.length →
        t.trigger.queue = s.trigger.queue ∧ t.resolver = s.resolver
        ∧ ((s.run.hold = .none ∨ s.run.release ≠ some (.line n)) → firstReport (aboutNone .triggerDropped Selector.null
            ([1, 0] ++ toBytes 1 n.val ++ [if s.trigger.lines[n].seen then 0 else 1, 0xFF]) s) s t))
    ∧ (s.trigger.lines[n].seen = true → s.run.release = some (.line n) → s.run.hold ≠ .none →
        t.run = { s.run with hold := .none, release := none }
        ∧ firstReport (aboutNone .holdReleased Selector.null
            (toBytes 1 s.run.hold.code ++ [1] ++ toBytes 1 n.val) s) s t)
    ∧ (s.trigger.lines[n].seen = false ∨ s.run.release ≠ some (.line n) ∨ s.run.hold = .none → t.run = s.run)
    ∧ ((isRunning s = false ∨ isLoading s = true ∨ s.trigger.queue ≠ []
          ∨ ∀ r ∈ s.trigger.rules, r.action ≠ some .cutLast ∧ ∀ g, r.action ≠ some (.releaseGroup g)) →
        ∀ (g : Fin 4) (d : Duck), d = s.mix.ducks[g] →
        (∀ on : Bool, d.keyLine = some n → (on = true ↔ d.keying ≠ 0 ∨ s.trigger.lines[n].seen = true) →
          t.mix.ducks[g] = if on = d.keyed then d else { d with keyed := on, sub := 0, due := false })
        ∧ (d.keyLine ≠ some n → (d.keyed = true ↔ d.keying ≠ 0 ∨ ∃ m, d.keyLine = some m ∧ s.trigger.lines[m].level = true) →
          t.mix.ducks[g] = d))

/-- KEY_EVENT, and a key event at the head of the event queue whose turn has come (R78, R91, R98, R120, R122, R123, R133
to R135): a press places one fire of the key map's selector at the tail of the line intake, or, when that is full, is
dropped with TRIGGER_DROPPED, which carries the event sample; a release empties the key's hold-to-play link, and with
hold-to-play set releases the voice that the link names, if it still has that claim number: by its own fade-out when it
plays, withdrawn when it has not sounded, with ENDED and, in HANDOVER, the next claim number (a voice whose entry into
SOUNDING is still to come completes it first, log entry 15). While a switch is loading or events wait, the event joins
the tail of the event queue, or, when that is full, is dropped with TRIGGER_DROPPED, whose null selector is 0, the
model's choice (log entry 36). Outside RUNNING only the level follows. -/
def Obligations.KeyEventTaken : Prop :=
  (∀ (c : Instr) (k : Fin 8) (press : Bool) (at_ : Time) (s u : State),
    isRunning s = true → isLoading s = false →
    (c = .keyEvent k ∧ s.trigger.keys[k].due = true ∧ s.trigger.queue = [] ∧ press = s.trigger.keys[k].seen
        ∧ at_ = s.clock.showTime ∧ u = { s with trigger := { s.trigger with
          keys := s.trigger.keys.set k { s.trigger.keys[k] with level := s.trigger.keys[k].seen, count := 0, due := false } } }
      ∨ ∃ q, c = .queuedEventTaken ∧ s.trigger.queue = .key k press at_ :: q ∧ s.trigger.queueTaken = false
        ∧ u = { s with trigger := { s.trigger with queue := q, queueTaken := true } }) →
    (press = true → s.resolver.lines.length < 16 → ∃ t, exec c s = .next t
      ∧ portBut { u with resolver := { s.resolver with lines := s.resolver.lines ++
          [{ source := .key, origin := k.val, selector := s.trigger.keyMap[k].selector, level := 0, frame := false }] } } t)
    ∧ (press = true → 16 ≤ s.resolver.lines.length → ∃ t, exec c s = .next t
      ∧ t.resolver = s.resolver ∧ t.trigger = u.trigger ∧ t.rest = u.rest ∧ voicesAlike s t
      ∧ firstReport { aboutNone .triggerDropped s.trigger.keyMap[k].selector
          ([0, 1] ++ toBytes 1 k.val ++ [0, 0xFF]) s with time := at_.setWidth 32 } s t)
    ∧ (press = false → (s.trigger.keyMap[k].holdToPlay = false ∨ s.trigger.holdLinks[k] = none
        ∨ ∃ v n, s.trigger.holdLinks[k] = some (v, n) ∧ (s.voice v).claimNo ≠ n) → ∃ t, exec c s = .next t
      ∧ portBut { u with trigger := { u.trigger with holdLinks := s.trigger.holdLinks.set k none } } t)
    ∧ (press = false → s.trigger.keyMap[k].holdToPlay = true →
      ∀ v x, s.trigger.holdLinks[k] = some (v, (s.voice v).claimNo) → x = completeEntry v s →
      ∃ t, exec c s = .next t ∧ t.trigger.holdLinks[k] = none ∧ t.rest = u.rest
        ∧ (t.voice v).content = (match (s.voice v).content with
            | .handover p _ _ => .releasing p
            | _ => (x.voice v).content.afterRelease .released (fun p => p.sound.fadeOut) true)
        ∧ (t.voice v).claimNo = (s.voice v).numberAfterWithdraw
        ∧ t.startOrder = (if (x.voice v).content.isSounding then x.startOrder.erase v else x.startOrder)
        ∧ (∀ p, (x.voice v).content = .sounding p → othersAlike v p.claim.number x t)
        ∧ ((x.voice v).content.isSounding = false → ∀ w, w ≠ v → voiceAlike w x t)
        ∧ ∀ i, (s.voice v).content.incoming = some i → (t.voice v).lastEnd = some (i.claim.number, false)
            ∧ firstReport (aboutClaim .ended v i.claim (toBytes 2 i.claim.number.toNat ++ [1, 0]) s) s t))
  ∧ ∀ (k : Fin 8) (s u : State), s.trigger.keys[k].due = true →
    u = { s with trigger := { s.trigger with
      keys := s.trigger.keys.set k { s.trigger.keys[k] with level := s.trigger.keys[k].seen, count := 0, due := false } } } →
    (isRunning s = true → (isLoading s = true ∨ s.trigger.queue ≠ []) → ∃ t, exec (.keyEvent k) s = .next t
      ∧ (s.trigger.queue.length < 16 → portBut { u with trigger := { u.trigger with
          queue := s.trigger.queue ++ [.key k s.trigger.keys[k].seen s.clock.showTime] } } t)
      ∧ (16 ≤ s.trigger.queue.length → t.trigger = u.trigger ∧ t.resolver = s.resolver ∧ voicesAlike s t
        ∧ firstReport (aboutNone .triggerDropped Selector.null
            ([1, 1] ++ toBytes 1 k.val ++ [if s.trigger.keys[k].seen then 0 else 1, 0xFF]) s) s t))
    ∧ (isRunning s = false → ∃ t, exec (.keyEvent k) s = .next t ∧ portBut u t)

/-- The rule store at a taken line event (R123, R125 to R130), one taken as it arises or at the head of the event queue
when its turn comes, with its own event sample: from the first rule, of index `k`, whose tests all pass: armed, source
line, edge, guard on the show variables, a valid action. Without a group its action is carried out; in an OPEN arrival
group it wins, closes the group, acts and reports WON; in a CLOSED one it is locked out, does nothing else and reports
LOCKED_OUT; of an action other than FIRE both carry the null selector, which is 0, the model's choice (log entry 36). It
ends the evaluation unless its continue flag is set; with no such rule nothing happens. -/
def Obligations.RulesEvaluated : Prop :=
  ∀ (c : Instr) (n : Fin 16) (up : Bool) (at_ : Time) (s : State) (passes : Nat → Rule → Bool),
    isRunning s = true → isLoading s = false →
    (c = .lineEvent n ∧ s.trigger.lines[n].due = true ∧ s.trigger.queue = [] ∧ up = s.trigger.lines[n].seen
        ∧ at_ = s.clock.showTime ∧ (s.run.hold = .none ∨ s.run.release ≠ some (.line n))
      ∨ ∃ q, c = .queuedEventTaken ∧ s.trigger.queue = .line n up at_ :: q ∧ s.trigger.queueTaken = false) →
    (∀ i r, passes i r = true ↔ r.action ≠ none ∧ s.trigger.armed.getLsbD i = true ∧ r.sources.getLsbD n = true
      ∧ (r.edge = .both ∨ r.edge = .assert ∧ up = true ∨ r.edge = .deassert ∧ up = false)
      ∧ ∀ c, r.guardCond = some c → c.holds s.resolver.vars = true) →
    ∃ t, exec c s = .next t
      ∧ ((∀ i r, s.trigger.rules[i]? = some r → passes i r = false) →
          t.resolver = s.resolver ∧ t.trigger.groups = s.trigger.groups ∧ t.startOrder = s.startOrder
          ∧ t.reports = s.reports ∧ voicesAlike s t)
      ∧ ∀ (k : Nat) (r : Rule) (a : RuleAction), s.trigger.rules[k]? = some r → passes k r = true → r.action = some a →
        (∀ i x, i < k → s.trigger.rules[i]? = some x → passes i x = false) →
        (r.continues = false →
          ((r.group = none ∨ ∃ g, r.group = some g ∧ s.trigger.groups[g] = none) →
            (∀ x, a = .fire x → s.resolver.lines.length < 16 → t.resolver = { s.resolver with lines := s.resolver.lines ++
              [{ source := .rule, origin := k, selector := x, level := r.level, frame := r.frame }] })
            ∧ (∀ x, a = .fire x → 16 ≤ s.resolver.lines.length → t.resolver = s.resolver
              ∧ firstReport { aboutNone .triggerDropped x
                ([0, 0] ++ toBytes 1 n.val ++ [if up then 0 else 1] ++ toBytes 1 k) s with time := at_.setWidth 32 } s t)
            ∧ (∀ v x y, a = .varAdd v x → ∀ h : v < 32,
              y = BitVec.ofNat 16 (min 65535 (s.resolver.vars[v].toNat + x.toNat)) →
              t.resolver = { s.resolver with vars := s.resolver.vars.set v y })
            ∧ (∀ v x, a = .varSet v x → ∀ h : v < 32, t.resolver = { s.resolver with vars := s.resolver.vars.set v x })
            ∧ (∀ v x, (a = .varAdd v x ∨ a = .varSet v x) → 32 ≤ v → t.resolver = s.resolver)
            ∧ (∀ v p, a = .cutLast → s.startOrder.getLast? = some v → (s.voice v).content = .sounding p →
              p.entry = none → (t.voice v).content = p.released 96 .cut ∧ t.startOrder = s.startOrder.erase v)
            ∧ (a = .cutLast → s.startOrder = [] → voicesAlike s t)
            ∧ (∀ g, a = .releaseGroup g → 1 ≤ g → g ≤ 15 →
              (∀ w p, (s.voice w).content = .sounding p → p.entry = none) → ∀ w, (s.voice w).content.inGroup g = true →
              (t.voice w).content = (s.voice w).content.afterRelease .released (fun p => p.sound.fadeOut) false)
            ∧ (∀ g, a = .releaseGroup g → (g = 0 ∨ 16 ≤ g) → voicesAlike s t)
            ∧ (r.group = none → ∀ mask, a = .reopen mask →
              ∀ g : Fin 8, t.trigger.groups[g] = if mask.getLsbD g then none else s.trigger.groups[g])
            ∧ (r.group = none → (∀ mask, a ≠ .reopen mask) → t.trigger.groups = s.trigger.groups))
          ∧ ∀ g : Fin 8, r.group = some g →
            (s.trigger.groups[g] = none →
              t.trigger.groups[g] = some { line := n, sample := at_, rule := k }
              ∧ ((∀ h, a ≠ .releaseGroup h) → a ≠ .cutLast → (∀ x, a = .fire x → s.resolver.lines.length < 16) →
                firstReport { aboutNone .won (match a with | .fire x => x | _ => Selector.null)
                  (toBytes 1 (g.val + 1) ++ toBytes 1 n.val ++ [if up then 0 else 1] ++ toBytes 1 k) s with
                    time := at_.setWidth 32 } s t))
            ∧ ∀ w, s.trigger.groups[g] = some w → t.trigger.groups = s.trigger.groups ∧ t.resolver = s.resolver
              ∧ voicesAlike s t
              ∧ firstReport { aboutNone .lockedOut (match a with | .fire x => x | _ => Selector.null)
                  (toBytes 1 (g.val + 1) ++ toBytes 1 n.val ++ toBytes 1 k ++ toBytes 1 w.line.val
                    ++ toBytes 2 (min 65535 (at_ - w.sample).toNat)) s with time := at_.setWidth 32 } s t)
        ∧ (∀ x y r₂, r.continues = true → a = .fire x → r.group = none → s.trigger.rules[k + 1]? = some r₂ →
            passes (k + 1) r₂ = true → r₂.action = some (.fire y) → r₂.group = none → r₂.continues = false →
            s.resolver.lines.length < 15 → t.resolver = { s.resolver with lines := s.resolver.lines ++
              [{ source := .rule, origin := k, selector := x, level := r.level, frame := r.frame },
               { source := .rule, origin := k + 1, selector := y, level := r₂.level, frame := r₂.frame }] })

/-! ### Starting and stopping (chapter 03 section 3.2) -/

/-- HEADER_READ_DONE (R33, R38 steps 1 to 7): a header that passes the checks of version, ranges, alignments and initial
scene becomes the working copy, and the busy 0 writes are at the port, as one job (log entry 20). A rate code that is
the one in force leaves the Frame Clock as it is; another is put in force with this sample as the epoch, k and both runs
0 and the lock state SEEKING, with no report. A header that fails gives FAILED with the code of the first check that
fails, in that order, and leaves the rate; a memory error gives FAILED with HDR_MEMORY. The header is read as one job
(log entry 50), and a failed start holds no switch record (log entry 52). -/
def Obligations.HeaderReadDone : Prop :=
  ∀ (e : JobEnd) (s : State) (j : Job), j.kind = .header →
    (endsWell j e s → ∀ h, h = decodeHeader j.address (delivered j e s) →
      (h.passes → ∃ t, exec (.headerReadDone e) s = .next t
        ∧ t.slate.header = some h ∧ t.mix.meterInterval = h.meterInterval
        ∧ (∀ code : Fin 7, code.val = h.rate → t.clock = if s.clock.rate = code then s.clock else { s.clock with
            rate := code, epoch := s.clock.showTime, k := 0, lock := .seeking, stray := 0, missing := 0
            held := false, lastHeld := false, lastOpen := false })
        ∧ (isRunning s = false → t.reports = s.reports) ∧ t.regs.part = s.regs.part ∧ t.mem = (atEnd j e s).mem
        ∧ atPort (writeJob (.busyClear h.sceneCount) (h.sceneTable + 1) []) t)
      ∧ ∀ f, h.failsWith f → ∃ t, exec (.headerReadDone e) s = .next t ∧ t.regs.part = .failed
        ∧ t.regs.startFault = f ∧ t.run.switch = none ∧ t.mem = (atEnd j e s).mem ∧ t.slate = s.slate
        ∧ t.clock = s.clock)
    ∧ (s.port.inFlight = some j → s.port.discard = false → e.error = true → ∃ t, exec (.headerReadDone e) s = .next t
        ∧ t.regs.part = .failed ∧ t.regs.startFault = .hdrMemory ∧ t.slate = s.slate ∧ t.clock = s.clock)

/-- SCENE_BUSY_CLEAR_DONE, START_WRITTEN_TO_DONE and STOPPING_COMPLETE (R37, R38 steps 7 to 9, R39, R182, R184): the
busy 0 writes, one job (log entry 20), clear each scene's busy byte and the initial load begins, with no previous scene
(log entry 23); a memory error on the write of one scene, those before it written, or on the written-to write, ends the
start in FAILED with HDR_MEMORY and is captured, the former with a free detail (log entry 21); the written-to write of
the start sets no REPORT flag (log entry 26), and the part is RUNNING with the fault record write at the port, or
STOPPING when RUN was cleared; STOPPING ends STOPPED with the hold list discarded, or, with RUN set, STARTING again with
the header read as one job (log entry 50) at the port. -/
def Obligations.StartAndStopGoOn : Prop :=
  (∀ (e : JobEnd) (n : Nat) (s : State) (j : Job) (count : Nat), endsWell j e s → j.kind = .busyClear count →
    Memory.wf s.mem = true → 1 ≤ j.address → j.address + 160 * count ≤ 2 ^ 32 → j.data = [] →
    ∃ t, exec (.sceneBusyClearDone e n) s = .next t
      ∧ (∀ i, i < count → Memory.read t.mem (j.address + 160 * i) = 0)
      ∧ (∀ a, (∀ i, i < count → a ≠ j.address + 160 * i) → Memory.read t.mem a = Memory.read (atEnd j e s).mem a)
      ∧ t.run.switch = some
          { target := (header s).initialScene, previous := none, slot := none, tag := 0, phase := .loading, rules := 0 }
      ∧ atPort (readJob (.sceneRecord (header s).initialScene)
          ((header s).sceneTable + 160 * (header s).initialScene) 160) t
      ∧ t.regs = s.regs ∧ t.clock = s.clock ∧ t.slate = s.slate)
  ∧ (∀ (e : JobEnd) (n : Nat) (s : State) (j : Job) (count : Nat), s.port.inFlight = some j → s.port.discard = false →
    e.error = true → j.kind = .busyClear count → n < count → Memory.wf s.mem = true → 1 ≤ j.address →
    j.address + 160 * count ≤ 2 ^ 32 → j.data = [] → ∃ t, exec (.sceneBusyClearDone e n) s = .next t
      ∧ t.regs.part = .failed ∧ t.regs.startFault = .hdrMemory ∧ t.run.switch = none ∧ t.clock = s.clock
      ∧ t.slate = s.slate ∧ voicesAlike s t
      ∧ (s.fault.record = none → ∃ d, t.fault.record = some
          { source := .slate, kind := .write, address := BitVec.ofNat 32 (j.address + 160 * n), detail := d })
      ∧ (∀ i, i < n → Memory.read t.mem (j.address + 160 * i) = 0)
      ∧ ∀ a, (∀ i, i ≤ n → a ≠ j.address + 160 * i) → Memory.read t.mem a = Memory.read (atEnd j e s).mem a)
  ∧ (∀ (e : JobEnd) (s : State) (j : Job), endsBadly j e s → j.kind = .startWrittenTo →
    ∃ t, exec (.startWrittenToDone e) s = .next t
      ∧ t.regs.part = .failed ∧ t.regs.startFault = .hdrMemory ∧ t.run.switch = none ∧ t.clock = s.clock
      ∧ t.slate = s.slate ∧ voicesAlike s t ∧ t.mem = (atFault j e s).mem
      ∧ (s.fault.record = none → j.address < 2 ^ 32 → t.fault.record = some
          { source := .report, kind := .write, address := BitVec.ofNat 32 j.address, detail := 0xFFFF }))
  ∧ (∀ (e : JobEnd) (s : State) (j : Job), endsWell j e s → j.kind = .startWrittenTo →
      (s.regs.run = true → ∃ t, exec (.startWrittenToDone e) s = .next t
        ∧ portPlus (writeJob .faultRecord ((header s).base + 128) s.fault.bytes)
            { atEnd j e s with regs := { s.regs with part := .running } } t)
      ∧ (s.regs.run = false → ∃ t, exec (.startWrittenToDone e) s = .next t ∧ t.regs.part = .stopping
        ∧ silentWithin 96 t ∧ t.clock = s.clock ∧ t.mem = (atEnd j e s).mem))
  ∧ ∀ s : State, s.regs.part = .stopping → (∀ v, (s.voice v).content = .idle) →
      (∀ h ∈ s.slate.held, h.result ≠ some .abandoned) →
      (s.regs.run = false → ∃ t, exec .stoppingComplete s = .next t
        ∧ portBut { s with
            regs := { s.regs with part := .stopped }
            reports := { s.reports with
              lost := min 255 (s.reports.lost + s.reports.holdList.length), holdList := [], backPressure := false } } t)
      ∧ (s.regs.run = true → ∃ t, exec .stoppingComplete s = .next t ∧ t.regs.part = .starting
        ∧ atPort (readJob .header s.regs.headerBase.toNat 144) t ∧ t.reports.holdList = [] ∧ t.mem = s.mem)

/-! ### The request slate (chapter 03 section 3.3) -/

/-- SLATE_READ_DONE (R42): with no back-pressure a POSTED slot that is not held is held with its TAKEN write at the
port, and the scan goes on to the next slot, whose read is placed in this event (log entry 31), or ends behind the last;
under back-pressure nothing is taken and the scan ends. When a scan ends, one that waits starts with the read of slot 0.
A read with a memory error is captured, its slot passed over, and the scan goes on with the next (R146). -/
def Obligations.SlateReadTakesSlot : Prop :=
  (∀ (e : JobEnd) (s : State) (j : Job) (i : Nat), endsWell j e s → j.kind = .slateRead i → s.slate.scan = some i →
    ∃ t, exec (.slateReadDone e) s = .next t
      ∧ (s.reports.backPressure = false → field (delivered j e s) 0 2 = 1 → (∀ h ∈ s.slate.held, h.taken.slot ≠ i) →
          t.slate.held = s.slate.held ++
            [{ taken := { slot := i, bytes := delivered j e s }, written := false, result := none, detail := [] }]
          ∧ atPort (writeJob (.takenWrite i) ((header s).slate + 32 * i) [2, 0]) t)
      ∧ ((s.reports.backPressure = true ∨ field (delivered j e s) 0 2 ≠ 1 ∨ ∃ h ∈ s.slate.held, h.taken.slot = i) →
          t.slate.held = s.slate.held
          ∧ portGoesOn (fun k => ∃ n, k.kind = .slateRead n) (atEnd j e s) t)
      ∧ (s.reports.backPressure = false → i + 1 < (header s).slotCount → t.slate.scan = some (i + 1)
          ∧ atPort (readJob (.slateRead (i + 1)) ((header s).slate + 32 * (i + 1)) 32) t
          ∧ t.slate.scanWaiting = s.slate.scanWaiting)
      ∧ (s.reports.backPressure = true ∨ (header s).slotCount ≤ i + 1 →
          (s.slate.scanWaiting = false → t.slate.scan = none)
          ∧ (s.slate.scanWaiting = true → t.slate.scan = some 0 ∧ t.slate.scanWaiting = false
            ∧ atPort (readJob (.slateRead 0) (header s).slate 32) t))
      ∧ { t with port := s.port, voices := s.voices, slate := s.slate, mem := s.mem } = s ∧ voicesAlike s t
      ∧ t.mem = (atEnd j e s).mem)
  ∧ ∀ (e : JobEnd) (s : State) (j : Job) (i : Nat), endsBadly j e s → j.kind = .slateRead i → s.slate.scan = some i →
    ∃ t, exec (.slateReadDone e) s = .next t ∧ t.slate.held = s.slate.held ∧ t.slate.queue = s.slate.queue
      ∧ (s.fault.record = none → j.address < 2 ^ 32 → t.fault.record = some
          { source := .slate, kind := .read, address := BitVec.ofNat 32 j.address, detail := BitVec.ofNat 32 i })
      ∧ (i + 1 < (header s).slotCount → t.slate.scan = some (i + 1) ∧ t.slate.scanWaiting = s.slate.scanWaiting
          ∧ atPort (readJob (.slateRead (i + 1)) ((header s).slate + 32 * (i + 1)) 32) t)
      ∧ ((header s).slotCount ≤ i + 1 →
          (s.slate.scanWaiting = false → t.slate.scan = none)
          ∧ (s.slate.scanWaiting = true → t.slate.scan = some 0 ∧ t.slate.scanWaiting = false
            ∧ atPort (readJob (.slateRead 0) (header s).slate 32) t))
      ∧ voicesAlike s t ∧ t.mem = (atFault j e s).mem ∧ t.regs.part = s.regs.part ∧ t.reports = s.reports

/-- TAKEN_WRITE_DONE and COMPLETION_WRITE_DONE (R42 to R44): a taken slot's request joins the tail of the intake queue;
one that cannot be decoded completes at once; a completion write that ends frees its slot and sets the SLATE flag. -/
def Obligations.SlotWritesEnd : Prop :=
  (∀ (e : JobEnd) (s : State) (j : Job) (i : Nat) (h : Held), endsWell j e s → j.kind = .takenWrite i →
    isRunning s = true → slotAt i s = some h → h.result = none →
    (∀ r, decodeRequest h.taken.bytes = .ok r → (∀ x ∈ s.slate.queue, ∃ q, decodeRequest x.bytes = .ok q) →
      ∃ t, exec (.takenWriteDone e) s = .next t ∧ t.slate.queue = s.slate.queue ++ [h.taken]
        ∧ slotAt i t = some { h with written := true } ∧ slateBut i (atEnd j e s) t)
    ∧ ∀ c, decodeRequest h.taken.bytes = .error c → s.slate.queue = [] →
      ∃ t, exec (.takenWriteDone e) s = .next t ∧ t.slate.queue = [] ∧ resultOf i t = some (c, [])
        ∧ atPort (writeJob (.completionWrite i) ((header s).slate + 32 * i) (completionBytes h.taken.bytes c [])) t
        ∧ slateBut i (atEnd j e s) t)
  ∧ ∀ (e : JobEnd) (s : State) (j : Job) (i : Nat), endsWell j e s → j.kind = .completionWrite i →
      ∃ t f, exec (.completionWriteDone e) s = .next t ∧ slotAt i t = none
        ∧ (∀ k, k ≠ i → slotAt k t = slotAt k s)
        ∧ (∀ b : Fin 3, BitVec.getLsbD f b = (s.regs.flags.getLsbD b || b.val == 1))
        ∧ portBut { atEnd j e s with
            regs := { s.regs with flags := f }, slate := { s.slate with held := t.slate.held } } t

/-! ### The Cue Resolver (chapters 01 and 04) -/

/-- RESOLVER_TAKE (R55 to R57, R73): while the part is RUNNING and the resolver free, the head of the internal intake is
taken, else that of the line intake; its resolution begins, with the descriptor read at the port, or ends at once with
NULL_REF for a null selector and LIMIT for a sheet beyond the directory, both told by a REFUSED report (R12, R16); with
both empty nothing happens (log entry 9). -/
def Obligations.ResolverTakesInOrder : Prop :=
  ∀ s : State, resolverFree s = true →
    (∀ f fs, s.resolver.follows = f :: fs → f.selector.sheet ≠ 0 → f.selector.sheet.toNat < (header s).directoryCount →
      ∃ t, exec .resolverTake s = .next t
        ∧ portPlus (readJob (.descriptor f.leader.val) ((header s).directory + 8 * f.selector.sheet.toNat) 8)
          { s with resolver := { s.resolver with
            follows := fs
            current := some
              { source := .followOn, origin := f.leader.val, tag := 0, purpose := .fire (.exact f.stop)
                entry := f.selector, current := f.selector, direct := true
                level := max f.level f.selector.level.toNat, offset := 0, hops := 0, lastDescriptor := none
                lastCue := none, clipLength := 0, phase := .readingDescriptor, leader := some (f.leader, f.claim) } } } t)
    ∧ (∀ f fs, s.resolver.follows = [] → s.resolver.lines = f :: fs → f.selector.sheet ≠ 0 →
      f.selector.sheet.toNat < (header s).directoryCount →
      ∃ t, exec .resolverTake s = .next t
        ∧ portPlus (readJob (.descriptor f.origin) ((header s).directory + 8 * f.selector.sheet.toNat) 8)
          { s with resolver := { s.resolver with
            lines := fs
            current := some
              { source := f.source, origin := f.origin, tag := 0
                purpose := .fire (if f.frame then .frame else .immediate)
                entry := f.selector, current := f.selector, direct := true
                level := max f.level f.selector.level.toNat, offset := 0, hops := 0, lastDescriptor := none
                lastCue := none, clipLength := 0, phase := .readingDescriptor, leader := none } } } t)
    ∧ (∀ (code : ResultCode) (x : Selector), x.sheet = 0 ∧ code = .nullRef
          ∨ x.sheet ≠ 0 ∧ (header s).directoryCount ≤ x.sheet.toNat ∧ code = .limit →
      (∀ f fs, s.resolver.follows = f :: fs → f.selector = x → ∃ t, exec .resolverTake s = .next t
        ∧ resolutionRefused code .followOn f.leader.val x s { s with resolver := { s.resolver with follows := fs } } t)
      ∧ ∀ f fs, s.resolver.follows = [] → s.resolver.lines = f :: fs → f.selector = x → f.source ≠ .slate →
        ∃ t, exec .resolverTake s = .next t
        ∧ resolutionRefused code f.source f.origin x s { s with resolver := { s.resolver with lines := fs } } t)
    ∧ (s.resolver.follows = [] → s.resolver.lines = [] → ∃ t, exec .resolverTake s = .next t ∧ portBut s t)

/-- DESCRIPTOR_READ_DONE and the LINK, EMPTY, INVALID and malformed cases of CUE_READ_DONE (R1, R10, R12, R13, R16, R17,
R19): a descriptor that passes the checks leads to the cue record read; one that fails, a record that is no cue, and a
memory error, which goes to Fault Capture, end a slate resolution with the code of the rule and the detail in the form
of PROBE, and one of any other source with that code in a REFUSED report; a LINK is followed, its level raised and its
offset clamped, until the fifth hop. -/
def Obligations.ResolverReadsJudged : Prop :=
  ∀ (e : JobEnd) (s : State) (j : Job) (o : Nat) (r : Resolution), s.resolver.current = some r →
    (endsWell j e s → j.kind = .descriptor o → r.phase = .readingDescriptor →
      ∀ (d : Descriptor), d = decodeDescriptor (delivered j e s) →
      (d.present = true → d.kind ≠ .invalid → (d.kind = .library → r.direct = false) → r.level ≤ d.rights →
        (d.kind = .play → s.resolver.live.getLsbD r.current.sheet.toNat = true) → r.current.cue.toNat < d.count →
        ∃ t, exec (.descriptorReadDone e) s = .next t
          ∧ portPlus (readJob (.cue r.origin) (d.base + 32 * r.current.cue.toNat) 32)
            { atEnd j e s with resolver := { s.resolver with
              current := some { r with lastDescriptor := some d, phase := .readingCue } } } t)
      ∧ ∀ (code : ResultCode) (kind rights : Nat),
          (d.present = false ∧ code = .notPresent ∧ kind = 0 ∧ rights = 0
            ∨ d.present = true ∧ kind = (match d.kind with | .play => 1 | .library => 2 | .invalid => 3)
              ∧ rights = d.rights
              ∧ ((d.kind = .invalid ∨ d.kind = .library ∧ r.direct = true) ∧ code = .type
                ∨ d.kind ≠ .invalid ∧ (d.kind = .library → r.direct = false) ∧ (d.rights < r.level ∧ code = .rights
                  ∨ r.level ≤ d.rights ∧ (d.kind = .play
                      ∧ s.resolver.live.getLsbD r.current.sheet.toNat = false ∧ code = .notLive
                    ∨ (d.kind = .play → s.resolver.live.getLsbD r.current.sheet.toNat = true)
                      ∧ d.count ≤ r.current.cue.toNat ∧ code = .limit)))) →
          ∃ t, exec (.descriptorReadDone e) s = .next t
            ∧ (r.source = .slate → awaiting r.origin s → resultOf r.origin t
                = some (code, probeForm kind rights (cueKindCode r.lastCue) r.clipLength r.level r.hops 0)
              ∧ slateBut r.origin { atEnd j e s with resolver := { s.resolver with current := none } } t)
            ∧ (r.source ≠ .slate → resolutionRefused code r.source r.origin r.entry s
                { atEnd j e s with resolver := { s.resolver with current := none } } t))
    ∧ (endsWell j e s → j.kind = .cue o → r.phase = .readingCue →
      ∀ (c : CueRecord) (kind rights : Nat), c = decodeCue (delivered j e s) →
      kind = sheetKindCode r.lastDescriptor → rights = sheetRightsCode r.lastDescriptor →
      (∀ l, c = .link l → r.hops < 4 → l.target.sheet ≠ 0 → l.target.sheet.toNat < (header s).directoryCount →
        ∃ t, exec (.cueReadDone e) s = .next t
          ∧ portPlus (readJob (.descriptor r.origin) ((header s).directory + 8 * l.target.sheet.toNat) 8)
            { atEnd j e s with resolver := { s.resolver with
              current := some { r with
                lastCue := some .link, clipLength := 0, hops := r.hops + 1
                level := max r.level (max l.carry l.target.level.toNat)
                offset := max (-64) (min 16 (r.offset + l.offset))
                current := l.target, direct := false, phase := .readingDescriptor } } } t)
      ∧ ∀ (code : ResultCode) (cue length level hops : Nat),
          (c = .empty ∧ code = .notPresent ∧ cue = 1 ∧ length = 0 ∧ level = r.level ∧ hops = r.hops
            ∨ c = .invalid ∧ code = .type ∧ cue = 4 ∧ length = 0 ∧ level = r.level ∧ hops = r.hops
            ∨ c = .badSound length ∧ code = .badCue ∧ cue = 2 ∧ level = r.level ∧ hops = r.hops
            ∨ (∃ l, c = .link l ∧ cue = 3 ∧ length = 0 ∧ hops = r.hops + 1
              ∧ (r.hops = 4 ∧ code = .linkDepth ∧ level = r.level
                ∨ r.hops < 4 ∧ l.target.sheet = 0 ∧ code = .nullRef ∧ level = max r.level l.carry
                ∨ r.hops < 4 ∧ l.target.sheet ≠ 0 ∧ (header s).directoryCount ≤ l.target.sheet.toNat ∧ code = .limit
                  ∧ level = max r.level (max l.carry l.target.level.toNat)))) →
          ∃ t, exec (.cueReadDone e) s = .next t
            ∧ (r.source = .slate → awaiting r.origin s →
              resultOf r.origin t = some (code, probeForm kind rights cue length level hops 0)
              ∧ slateBut r.origin { atEnd j e s with resolver := { s.resolver with current := none } } t)
            ∧ (r.source ≠ .slate → resolutionRefused code r.source r.origin r.entry s
                { atEnd j e s with resolver := { s.resolver with current := none } } t))
    ∧ ∀ c, endsBadly j e s → (j.kind = .descriptor o ∧ r.phase = .readingDescriptor ∧ c = .descriptorReadDone e
        ∨ j.kind = .cue o ∧ r.phase = .readingCue ∧ c = .cueReadDone e) →
        ∃ t, exec c s = .next t
          ∧ (r.source = .slate → awaiting r.origin s → t.reports = s.reports
            ∧ resultOf r.origin t = some (.memoryError, probeForm (sheetKindCode r.lastDescriptor)
                (sheetRightsCode r.lastDescriptor) (cueKindCode r.lastCue) r.clipLength r.level r.hops 0))
          ∧ (r.source ≠ .slate → firstReport
              (aboutRefusal .memoryError r.source r.origin 0 0xFF r.entry [0, 0, 0] s) s t)
          ∧ t.resolver = { s.resolver with current := none } ∧ voicesAlike s t ∧ t.mem = (atFault j e s).mem
          ∧ t.regs.part = s.regs.part
          ∧ (s.fault.record = none → j.address < 2 ^ 32 → t.fault.record = some
              { source := .resolver, kind := .read, address := BitVec.ofNat 32 j.address, detail := BitVec.ofNat 32 o })

/-- CUE_READ_DONE of a SOUND cue (R14, R15, R19, R62, R106): PROBE has OK with the detail of R19, its condition judged
on the show variables; PRIME is claimed with no start, an AT_FRAME fire goes to the schedule's intake, any other fire is
claimed. One fired from the slate (R14, R15, R62, R66 to R68, R75, R77, R140): with no hold, a true or absent condition
and retrigger LAYER, the lowest IDLE voice takes the claim: it is PRIMING under the next claim number, its head read is
at the port, and the slot has OK. -/
def Obligations.CueHandedOn : Prop :=
  (∀ (e : JobEnd) (s u : State) (j : Job) (o : Nat) (r : Resolution) (c : SoundCue) (cue : ResolvedCue) (q : ClaimRequest),
    endsWell j e s → j.kind = .cue o → s.resolver.current = some r → r.phase = .readingCue →
    decodeCue (delivered j e s) = .sound c → u = { atEnd j e s with resolver := { s.resolver with current := none } } →
    cue = { sheet := r.current.sheet, cue := r.current.cue, entry := r.entry, sound := c, level := r.level
            offset := r.offset, hops := r.hops } →
    q = { cue := cue, source := r.source, origin := r.origin, tag := r.tag, start := .none, lateMark := none
          leader := r.leader } →
    (r.purpose = .probe → r.source = .slate → awaiting r.origin s → ∃ t condition, exec (.cueReadDone e) s = .next t
      ∧ (c.condition = none → condition = 0)
      ∧ (∀ x, c.condition = some x → condition = if x.holds s.resolver.vars then 1 else 2)
      ∧ resultOf r.origin t = some (.ok, probeForm (sheetKindCode r.lastDescriptor) (sheetRightsCode r.lastDescriptor) 2
          c.length r.level r.hops condition)
      ∧ slateBut r.origin u t)
    ∧ (r.purpose = .prime → ∃ t, exec (.cueReadDone e) s = .next t ∧ portBut (claim q none u) t)
    ∧ (∀ target late, r.purpose = .fire (.atFrame target late) → ∃ t, exec (.cueReadDone e) s = .next t
      ∧ portBut (scheduleIntake cue r.origin r.tag target u) t)
    ∧ ∀ start, r.purpose = .fire start → (∀ target late, start ≠ .atFrame target late) →
      ∃ t, exec (.cueReadDone e) s = .next t ∧ portBut (claim { q with start := start } none u) t)
  ∧
  ∀ (e : JobEnd) (s : State) (j : Job) (o : Nat) (r : Resolution) (c : SoundCue) (start : Start) (v : Fin 24),
    endsWell j e s → j.kind = .cue o → s.resolver.current = some r → r.phase = .readingCue →
    decodeCue (delivered j e s) = .sound c → r.source = .slate → r.leader = none → awaiting r.origin s →
    r.purpose = .fire start → (start = .immediate ∨ start = .frame) →
    s.run.hold = .none → (∀ x, c.condition = some x → x.holds s.resolver.vars = true) → c.retrigger = .layer →
    (s.voice v).content = .idle → (∀ w, w < v → (s.voice w).content ≠ .idle) →
    (∀ x ∈ s.cache, x.address ≠ c.clip) →
    ∃ t i, exec (.cueReadDone e) s = .next t
      ∧ (t.voice v).claimNo = (s.voice v).claimNo + 1 ∧ (t.voice v).content = .priming i
      ∧ i.claim.number = (s.voice v).claimNo + 1 ∧ i.claim.time = s.clock.showTime ∧ i.claim.obtained = .idle
      ∧ i.claim.req.cue.sound = c ∧ i.claim.req.cue.entry = r.entry ∧ i.claim.req.tag = r.tag
      ∧ i.claim.req.cue.level = r.level ∧ i.claim.req.cue.offset = r.offset
      ∧ i.start = (if c.armOnly then .none else start)
      ∧ atPort (readJob (.head v ((s.voice v).claimNo + 1)) c.clip.toNat (min c.length 2048 * c.format.size)) t
      ∧ resultOf r.origin t = some (.ok, toBytes 1 v.val ++ toBytes 2 ((s.voice v).claimNo + 1).toNat ++ [0]
          ++ toBytes 1 r.level ++ signedBytes 1 r.offset ++ toBytes 1 r.hops)
      ∧ t.resolver = { s.resolver with current := none } ∧ t.startOrder = s.startOrder
      ∧ (∀ w, w ≠ v → voiceAlike w s t) ∧ t.rest = (atEnd j e s).rest

/-- A claim that is refused (R62 to R65, R74 to R76): the comparisons of a condition; a follow-on whose leader does not
stand is dropped with FOLLOW_CANCELLED; then HELD, COND_FALSE, ALREADY for IGNORE with a found voice, and NO_VOICE when
there is no IDLE voice, no RELEASING one and no ARMED or SOUNDING one of a lower class. A slot gets the result with its
detail, any other source the REFUSED report; no voice changes. -/
def Obligations.ClaimRefused : Prop :=
  (∀ x y : Half, (Comparison.holds .eq x y = true ↔ x = y) ∧ (Comparison.holds .ne x y = true ↔ x ≠ y)
    ∧ (Comparison.holds .ge x y = true ↔ y.toNat ≤ x.toNat) ∧ (Comparison.holds .lt x y = true ↔ x.toNat < y.toNat))
  ∧ ∀ (r : ClaimRequest) (link : Option Word) (s t : State) (level hops : List Byte), t = claim r link s →
    level = toBytes 1 r.cue.level → hops = toBytes 1 r.cue.hops →
    (¬ leaderHolds r s → r.source ≠ .slate → portOnly (withReports s t) t
      ∧ ∀ l n, r.leader = some (l, n) → firstReport
          (aboutNone .followCancelled r.cue.entry (toBytes 1 l.val ++ [0] ++ toBytes 2 n.toNat) s) s t)
    ∧ (leaderHolds r s → ¬ holdLets r s →
        refusedWith r .held ([0xFF, 0, 0] ++ toBytes 1 s.run.hold.code ++ level ++ [0] ++ hops) 0xFF [0, 0, 0] s t)
    ∧ (leaderHolds r s → holdLets r s → ∀ c, r.cue.sound.condition = some c → c.holds s.resolver.vars = false →
        refusedWith r .condFalse
          ([0xFF] ++ toBytes 2 s.resolver.vars[c.var].toNat ++ toBytes 1 c.var.val ++ level ++ [0] ++ hops) 0xFF
          (toBytes 1 c.var.val ++ toBytes 2 s.resolver.vars[c.var].toNat) s t)
    ∧ (leaderHolds r s → holdLets r s → conditionLets r s →
      (∀ v, r.cue.sound.retrigger = .ignore → isFound r s v → refusedWith r .already
        (toBytes 1 v.val ++ toBytes 2 (s.voice v).claimNo.toNat ++ [0] ++ level ++ [0] ++ hops) (BitVec.ofNat 8 v.val)
        [0, 0, 0] s t)
      ∧ (goesOn r s → (∀ w, (s.voice w).content ≠ .idle) → (∀ w p, (s.voice w).content ≠ .releasing p) →
        (∀ w c, ¬ mayBeStolen r s w c) → refusedWith r .noVoice
          ([0xFF, 0, 0] ++ toBytes 1 r.cue.sound.priority ++ level ++ [0] ++ hops) 0xFF [0, 0, 0] s t))

/-- A claim that obtains a voice (R53, R65 to R68, R75, R79 to R81, R84, R109, R134, R140), by RESTART or from the
arbiter: the claim number advances; IDLE, PRIMING and ARMED voices are PRIMING for the claim; SOUNDING, RELEASING and
HANDOVER ones are in HANDOVER behind their outgoing cue, faded over 480 samples after a steal and 96 after a restart. A
SOUNDING voice whose entry is still to come completes it first (log entry 15). The HEAD job is at the port, or the head
is served from the head cache, and an IMMEDIATE or late EXACT start then is SOUNDING from this sample on (log entry 15).
A steal reports STOLEN first (log entry 55); a displaced claim that never sounded is the last end (log entry 41); a
SOUNDING voice leaves the start order and keys no duck group; a scheduled claim makes its link; a slot has OK with its
detail; a key's link is set. The claim of a key released before, with hold-to-play set, is released at once and leaves
the link empty; where the head cache serves it, the head lands before the key is told, the model's choice (log entry 6),
so that an IMMEDIATE cue is SOUNDING and released by its fade-out. -/
def Obligations.ClaimTakesVoice : Prop :=
  ∀ (r : ClaimRequest) (link : Option Word) (s t u : State) (v : Fin 24) (way : Obtained) (n : Half) (i : Incoming)
      (released : Bool),
    leaderHolds r s → holdLets r s → conditionLets r s → obtains r s v way →
    (∀ target, r.start ≠ .atFrame target true) →
    (released = true ↔ r.source = .key ∧ ∃ k : Fin 8, k.val = r.origin ∧ s.trigger.keys[k].level = false
      ∧ s.trigger.keyMap[k].holdToPlay = true) →
    t = claim r link s → u = completeEntry v s → n = (s.voice v).claimNo + 1 →
    i = { claim := { req := r, number := n, time := s.clock.showTime, obtained := way }
          start := if r.cue.sound.armOnly then .none else r.start
          lateMark := if r.cue.sound.armOnly then none else r.lateMark } →
    (released = false →
      ((t.voice v).claimNo = n ∧ t.rest = s.rest
        ∧ (∀ old, (u.voice v).content.incoming = some old → (t.voice v).lastEnd = some (old.claim.number, false))
        ∧ ((u.voice v).content.incoming = none → (t.voice v).lastEnd = (u.voice v).lastEnd)
        ∧ t.startOrder = (if (u.voice v).content.isSounding then u.startOrder.erase v else u.startOrder)
        ∧ ((u.voice v).content.playing ≠ none → (u.voice v).content.incoming = none →
            ∀ g : Fin 4, t.mix.ducks[g].keying.getLsbD v = false)
        ∧ (∀ p, (u.voice v).content = .sounding p → othersAlike v p.claim.number u t)
        ∧ ((u.voice v).content.isSounding = false → ∀ w, w ≠ v → t.voice w = u.voice w))
      ∧ ((∀ x ∈ s.cache, x.address = r.cue.sound.clip → x.format = r.cue.sound.format → ∀ f, x.state ≠ .present f) →
        (∀ p, (u.voice v).content.outgoingFor way = some p → (t.voice v).content = .handover p i false)
        ∧ ((u.voice v).content.outgoingFor way = none → (t.voice v).content = .priming i)
        ∧ (t.voice v).head = []
        ∧ atPort (readJob (.head v n) r.cue.sound.clip.toNat
            (min r.cue.sound.length 2048 * r.cue.sound.format.size)) t)
      ∧ (∀ x f, cacheSound s → x ∈ s.cache → x.address = r.cue.sound.clip → x.format = r.cue.sound.format →
          x.state = .present f →
        (∀ p, (u.voice v).content.outgoingFor way = some p → (t.voice v).content = .handover p i true)
        ∧ (t.voice v).head = f.take (min r.cue.sound.length 2048)
        ∧ ((u.voice v).content.outgoingFor way = none →
          ((i.start = .frame ∨ i.start = .none ∨ (∃ target, i.start = .atFrame target false)
              ∨ ∃ stop, i.start = .exact stop ∧ Time.earlier s.clock.showTime stop = true) →
            (t.voice v).content = .armed i)
          ∧ (i.start = .immediate → entersNext v i none t)
          ∧ ∀ stop, i.start = .exact stop → Time.earlier s.clock.showTime stop = false →
            entersNext v i (some (s.clock.showTime + 1 - stop).toNat) t)
        ∧ ∀ j, atPort j t → j.kind.cls = .head → atPort j s)
      ∧ ((∀ target, link = some target → t.schedule.links[v] = some { claim := n, tag := r.tag, target := target })
        ∧ (link = none → t.schedule = s.schedule))
      ∧ (∀ c state, way = .stolen → ((∃ a, (u.voice v).content = .armed a ∧ c = a.claim ∧ state = 2)
            ∨ ∃ p, (u.voice v).content = .sounding p ∧ c = p.claim ∧ state = 3) →
          firstReport (aboutClaim .stolen v c (toBytes 2 c.number.toNat ++ [state]
            ++ toBytes 1 c.req.cue.sound.priority ++ toBytes 1 r.cue.sound.priority) u) u t)
      ∧ (r.source = .slate → awaiting r.origin s → resultOf r.origin t = some (.ok, toBytes 1 v.val ++ toBytes 2 n.toNat
          ++ toBytes 1 way.code ++ toBytes 1 r.cue.level ++ signedBytes 1 r.cue.offset ++ toBytes 1 r.cue.hops))
      ∧ (r.source = .key → ∀ k : Fin 8, k.val = r.origin → t.trigger.holdLinks[k] = some (v, n)))
    ∧ (released = true → (t.rest = s.rest ∧ ∀ k : Fin 8, k.val = r.origin → t.trigger.holdLinks[k] = none)
      ∧ ((∀ x ∈ s.cache, x.address = r.cue.sound.clip → x.format = r.cue.sound.format → ∀ f, x.state ≠ .present f) →
        (t.voice v).lastEnd = some (n, false)
        ∧ (∀ p, (u.voice v).content.outgoingFor way = some p → (t.voice v).content = .releasing p)
        ∧ ((u.voice v).content.outgoingFor way = none → (t.voice v).content = .idle)
        ∧ ((s.voice v).content = .idle → (∀ w, w ≠ v → t.voice w = s.voice w) ∧ t.startOrder = s.startOrder
          ∧ firstReport (aboutClaim .ended v i.claim (toBytes 2 n.toNat ++ [1, 0]) s) s t))
      ∧ ∀ x f, cacheSound s → x ∈ s.cache → x.address = r.cue.sound.clip → x.format = r.cue.sound.format →
          x.state = .present f →
        (∀ p, (u.voice v).content.outgoingFor way = some p → (t.voice v).content = .releasing p)
        ∧ ((u.voice v).content.outgoingFor way = none →
          ((i.start = .frame ∨ i.start = .none) → (t.voice v).content = .idle ∧ (t.voice v).lastEnd = some (n, false))
          ∧ (i.start = .immediate → ∃ b, (t.voice v).content =
              { i.begin true none with entry := none, followPlaced := b }.released r.cue.sound.fadeOut .released)))

/-- The schedule's intake (R105 to R107): refused HELD in a DEEP hold; a target 3 or more frames ahead is booked behind
every entry at its distance or nearer, or refused SCHEDULE_FULL; one 1 or 2 frames ahead is claimed as AT_FRAME, one
late within its allowance as FRAME with a late mark; one later than that is refused MISSED. -/
def Obligations.ScheduleIntakeJudged : Prop :=
  ∀ (cue : ResolvedCue) (slot : Nat) (tag : Half) (target : Word) (s t : State) (ahead late : Nat)
      (level hops : List Byte), t = scheduleIntake cue slot tag target s → awaiting slot s →
    ahead = (target - s.clock.frame).toNat → late = (s.clock.frame - target).toNat →
    level = toBytes 1 cue.level → hops = toBytes 1 cue.hops →
    (s.run.hold = .deep → resultOf slot t = some (.held, [0xFF, 0, 0, 2] ++ level ++ [0] ++ hops) ∧ slateBut slot s t)
    ∧ (s.run.hold ≠ .deep → 3 ≤ ahead → ahead < 2 ^ 31 →
      (s.schedule.entries.length < 64 → ∃ before behind, s.schedule.entries = before ++ behind
        ∧ (∀ x ∈ before, (x.target - s.clock.frame).toNat ≤ ahead)
        ∧ (∀ x, behind.head? = some x → ahead < (x.target - s.clock.frame).toNat)
        ∧ resultOf slot t = some (.queued, toBytes 1 (s.schedule.entries.length + 1) ++ toBytes 4 ahead ++ level
            ++ signedBytes 1 cue.offset ++ hops)
        ∧ slateBut slot { s with schedule := { s.schedule with
            entries := before ++ { target := target, cue := cue, tag := tag, origin := slot } :: behind } } t)
      ∧ (64 ≤ s.schedule.entries.length → resultOf slot t = some (.scheduleFull,
          [0] ++ toBytes 4 ahead ++ level ++ [0] ++ hops) ∧ slateBut slot s t))
    ∧ (s.run.hold ≠ .deep → 1 ≤ ahead → ahead ≤ 2 →
        t = claim (scheduled cue .slate slot tag (.atFrame target false) none) (some target) s)
    ∧ (s.run.hold ≠ .deep → (ahead = 0 ∨ 2 ^ 31 ≤ ahead) → late ≤ cue.sound.lateAllowance →
        t = claim (scheduled cue .slate slot tag .frame (some target)) (some target) s)
    ∧ (s.run.hold ≠ .deep → (ahead = 0 ∨ 2 ^ 31 ≤ ahead) → cue.sound.lateAllowance < late →
        resultOf slot t = some (.missed, [0] ++ toBytes 2 (min 65535 late) ++ toBytes 1 cue.sound.lateAllowance
          ++ [0] ++ level ++ [0] ++ hops) ∧ slateBut slot s t)

/-! ### Fetching (chapter 08) -/

/-- HEAD_JOB_DONE (R69, R78, R112, R140, R145): a head that is awaited fills the head buffer, and a PRIMING voice acts
on its pending start: FRAME, NONE, an AT_FRAME whose boundary is not made and an EXACT whose end sample is not reached
wait ARMED; IMMEDIATE, and an EXACT that is late, are SOUNDING from this sample on with the next as the first one they
play (log entry 15); an overdue AT_FRAME starts at the next frame with a late mark within its allowance, else is MISSED,
as it is in a LIGHT hold. In HANDOVER the head landed flag is set. A memory error withdraws the claim with MEMORY_FAULT,
and is captured; in HANDOVER the claim number then advances (R91). A stale head is dropped. -/
def Obligations.HeadLands : Prop :=
  ∀ (e : JobEnd) (s : State) (j : Job) (v : Fin 24) (n : Half), j.kind = .head v n →
    (endsWell j e s → n = (s.voice v).claimNo → ∃ t, exec (.headJobDone e) s = .next t
      ∧ (∀ i frames late, (s.voice v).content = .priming i →
        frames = decodeFrames i.sound.format (min i.sound.length 2048) 0 (delivered j e s) →
        (∀ c, (i.start = .frame ∨ i.start = .none ∨ (∃ target, i.start = .atFrame target false)
              ∨ ∃ stop, i.start = .exact stop ∧ Time.earlier s.clock.showTime stop = true) ∧ c = Content.armed i
            ∨ i.start = .immediate ∧ c = .sounding (i.begin true none)
            ∨ (∃ stop, i.start = .exact stop ∧ Time.earlier s.clock.showTime stop = false
              ∧ c = .sounding (i.begin true (some (s.clock.showTime + 1 - stop).toNat)))
            ∨ (∃ target, i.start = .atFrame target true ∧ s.run.hold ≠ .light
              ∧ (s.clock.frame - target).toNat ≤ i.sound.lateAllowance
              ∧ c = .armed { i with start := .frame, lateMark := some target }) →
          portBut (setVoice v { s.voice v with head := frames, content := c } (atEnd j e s)) t)
        ∧ (∀ target reason, i.start = .atFrame target true → late = (s.clock.frame - target).toNat →
          (s.run.hold = .light ∧ reason = 1 ∨ s.run.hold ≠ .light ∧ i.sound.lateAllowance < late ∧ reason = 0) →
          (t.voice v).content = .idle ∧ (t.voice v).claimNo = (s.voice v).claimNo
          ∧ (∀ w, w ≠ v → voiceAlike w s t) ∧ t.startOrder = s.startOrder
          ∧ firstReport (aboutClaim .missed v i.claim ([reason, 0] ++ toBytes 2 i.claim.number.toNat
              ++ toBytes 4 target.toNat ++ toBytes 2 (min 65535 late)) s) s t))
      ∧ (∀ p i l, (s.voice v).content = .handover p i l →
        portBut (setVoice v { s.voice v with
          head := decodeFrames i.sound.format (min i.sound.length 2048) 0 (delivered j e s)
          content := .handover p i true } (atEnd j e s)) t))
    ∧ (endsBadly j e s → n = (s.voice v).claimNo → ∀ i, (s.voice v).content.incoming = some i →
        (∀ p, (s.voice v).content ≠ .armed p) → ∃ t, exec (.headJobDone e) s = .next t
        ∧ (t.voice v).content = (s.voice v).content.afterWithdraw ∧ (t.voice v).claimNo = (s.voice v).numberAfterWithdraw
        ∧ (∀ w, w ≠ v → voiceAlike w s t)
        ∧ (t.voice v).lastEnd = some (i.claim.number, false) ∧ t.mem = (atFault j e s).mem
        ∧ t.startOrder = s.startOrder ∧ t.regs.part = s.regs.part ∧ t.clock = s.clock
        ∧ (j.address < 2 ^ 32 →
          (s.fault.record = none → t.fault.record = some
            { source := .fetch, kind := .read, address := BitVec.ofNat 32 j.address, detail := BitVec.ofNat 32 v.val })
          ∧ firstReport (aboutClaim .memoryFault v i.claim
              ([0, 0] ++ toBytes 2 i.claim.number.toNat ++ toBytes 4 j.address) s) s t))
    ∧ (endsWell j e s → (n ≠ (s.voice v).claimNo ∨ (∀ i, (s.voice v).content ≠ .priming i)
          ∧ ∀ p i l, (s.voice v).content ≠ .handover p i l) →
        ∃ t, exec (.headJobDone e) s = .next t ∧ portBut (atEnd j e s) t)

/-- REFILL_JOB_DONE, and the refill test of SAMPLE (R142, R143, R145): the frames of a refill join the stream buffer and
the fetch position advances by them, returning to the loop start at the end of an active loop; a refill that is stale or
voided gives none. A memory error is captured, and cuts a voice whose refill is not stale, with MEMORY_FAULT and no
further refill. In FAILED a refill in flight lands as in the other states (log entry 29). No job is placed but the
voice's next refill. MEMORY_FAULT is handed on before the FOLLOW_CANCELLED and ENDED reports that the cut causes, the
model's choice (log entry 64). A SAMPLE with nothing due tests every voice, and the end of a refill its own: with no
refill pending, in RUNNING and STOPPING only (log entry 66), at most 1,024 frames buffered and something left to fetch,
the next REFILL job is at the port, from the fetch position, of at most 512 frames and up to its limit; else none is
placed. -/
def Obligations.RefillLands : Prop :=
  (∀ (pins : Pins) (s : State), settle s = s → ∃ t, exec (.sample pins) s = .next t
    ∧ ∀ v, refillTested v (s.voice v).refillPending (fun k => atPort k s) t)
  ∧ (∀ (e : JobEnd) (s : State) (j : Job) (v : Fin 24) (n : Half) (first frames : Nat) (voided : Bool),
    j.kind = .refill v n first frames voided → (endsWell j e s ∨ endsBadly j e s) →
    ∃ t, exec (.refillJobDone e) s = .next t ∧ refillTested v false (fun k => atPort k (atEnd j e s)) t)
  ∧ ∀ (e : JobEnd) (s : State) (j : Job) (v : Fin 24) (n : Half) (first frames : Nat) (voided : Bool) (p : Playing),
    j.kind = .refill v n first frames voided → (s.voice v).content.playing = some p →
    (endsWell j e s → (s.voice v).feeding = some n → voided = false → ∃ t, exec (.refillJobDone e) s = .next t
      ∧ (t.voice v).stream = (s.voice v).stream
          ++ decodeFrames p.sound.format frames (s.voice v).fetchPosition (delivered j e s)
      ∧ (t.voice v).fetchPosition = (match p.sound.loop with
          | some l => if p.loopActive ∧ (s.voice v).fetchPosition + frames = l.stop then l.start
              else (s.voice v).fetchPosition + frames
          | none => (s.voice v).fetchPosition + frames)
      ∧ (t.voice v).content = (s.voice v).content ∧ (∀ w, w ≠ v → voiceAlike w s t)
      ∧ { t with port := s.port, voices := s.voices, mem := s.mem } = s ∧ t.mem = (atEnd j e s).mem
      ∧ portGoesOn (fun k => k.kind.refills v = true) (atEnd j e s) t)
    ∧ (endsWell j e s → ((s.voice v).feeding ≠ some n ∨ voided = true) → ∃ t, exec (.refillJobDone e) s = .next t
      ∧ portOnly (atEnd j e s) t ∧ portGoesOn (fun k => k.kind.refills v = true) (atEnd j e s) t)
    ∧ (endsBadly j e s → (s.voice v).feeding = some n → voided = false →
        (∀ q, (s.voice v).content = .sounding q → q.entry = none) → p.quiet = false →
        ∃ t, exec (.refillJobDone e) s = .next t
        ∧ (t.voice v).content = (s.voice v).content.afterRelease .cut (fun _ => 96) true
        ∧ (t.voice v).refillFailed = true ∧ t.mem = (atFault j e s).mem ∧ t.regs.part = s.regs.part
        ∧ t.startOrder = (if (s.voice v).content.isSounding then s.startOrder.erase v else s.startOrder)
        ∧ (j.address < 2 ^ 32 →
          (s.fault.record = none → t.fault.record = some
            { source := .fetch, kind := .read, address := BitVec.ofNat 32 j.address, detail := BitVec.ofNat 32 v.val })
          ∧ firstReport (aboutClaim .memoryFault v p.claim
              ([1, 0] ++ toBytes 2 p.claim.number.toNat ++ toBytes 4 j.address) s) s t))
    ∧ (endsBadly j e s → ((s.voice v).feeding ≠ some n ∨ voided = true) → ∃ t, exec (.refillJobDone e) s = .next t
      ∧ voicesAlike s t ∧ t.startOrder = s.startOrder ∧ t.reports = s.reports ∧ t.mem = (atFault j e s).mem
      ∧ t.resolver = s.resolver ∧ t.clock = s.clock)

/-- PIN_JOB_DONE (R148, R149): without error the entry is PRESENT with its 2,048 frames and the slot has OK with the
number of entries and the format; with a memory error, which is captured, the entry is removed and the slot has
MEMORY_ERROR with the failing address, the first of the job (log entry 38); a dropping entry is removed and its slot
ABANDONED. -/
def Obligations.PinJobEnds : Prop :=
  ∀ (e : JobEnd) (s : State) (j : Job) (i : Nat) (x : CacheEntry) (dropping : Bool), j.kind = .pin i →
    cacheSound s → x ∈ s.cache → x.state = .pending i dropping →
    (∀ y ∈ s.cache, ∀ d, y.state = .pending i d → y = x) → awaiting i s →
    (endsWell j e s → dropping = false → ∃ t, exec (.pinJobDone e) s = .next t
      ∧ resultOf i t = some (.ok, toBytes 1 s.cache.length ++ toBytes 1 x.format.code)
      ∧ { x with state := .present (decodeFrames x.format 2048 0 (delivered j e s)) } ∈ t.cache
      ∧ t.cache.length = s.cache.length ∧ (∀ y ∈ s.cache, y ≠ x → y ∈ t.cache)
      ∧ slateBut i { atEnd j e s with cache := t.cache } t)
    ∧ (endsBadly j e s → dropping = false → j.address < 2 ^ 32 → ∃ t, exec (.pinJobDone e) s = .next t
      ∧ resultOf i t = some (.memoryError, [0, 0, 0, 0] ++ toBytes 4 j.address)
      ∧ t.cache = s.cache.filter (fun y => y.address != x.address) ∧ voicesAlike s t ∧ t.mem = (atFault j e s).mem
      ∧ (s.fault.record = none → t.fault.record = some
          { source := .pin, kind := .read, address := BitVec.ofNat 32 j.address, detail := BitVec.ofNat 32 i }))
    ∧ (endsWell j e s → dropping = true → ∃ t, exec (.pinJobDone e) s = .next t ∧ resultOf i t = some (.abandoned, [])
      ∧ slateBut i { atEnd j e s with cache := s.cache.filter fun y => y.address != x.address } t)

/-! ### Scenes (chapter 10) -/

/-- SCENE_RECORD_READ_DONE and RULE_TABLE_READ_DONE (R172 to R174): a present record that is neither busy nor current
commits the switch at once when it has no rules, else when its rules are read: rules, arrival groups, key map, qualify
counts, live set, preset variables, trims and duck settings change together, and the duck groups are re-judged with
their new key lines (R158). A record that is not present, one that is busy or current, and a memory error, which is
captured, abandon the switch: the slot has NOT_PRESENT, BUSY or MEMORY_ERROR with the failing address, the first of the
job (log entry 38), or the start fails with SCENE_INITIAL. -/
def Obligations.SceneCommits : Prop :=
  (∀ (e : JobEnd) (s : State) (j : Job) (w : Switch) (i : Nat), endsWell j e s → s.run.switch = some w →
    w.phase = .loading →
    (j.kind = .sceneRecord i → ∀ r, r = decodeScene (delivered j e s) →
      (r.present = true → (w.slot = none ∨ r.busy = false ∧ s.run.current ≠ some w.target) →
        (r.ruleCount = 0 → ∃ t, exec (.sceneRecordReadDone e) s = .next t ∧ committed w r [] s t
          ∧ t.mem = (atEnd j e s).mem ∧ t.clock = s.clock ∧ t.regs = s.regs ∧ t.slate = s.slate ∧ t.tally = s.tally
          ∧ t.schedule = s.schedule ∧ t.cache = s.cache ∧ t.startOrder = s.startOrder ∧ voicesAlike s t)
        ∧ (r.ruleCount ≠ 0 → ∃ t, exec (.sceneRecordReadDone e) s = .next t
          ∧ portPlus (readJob (.ruleTable w.target) r.ruleTable (16 * r.ruleCount))
              { atEnd j e s with run := { s.run with staging := some r } } t))
      ∧ (∀ slot, r.present = false → w.slot = some slot → awaiting slot s →
          ∃ t, exec (.sceneRecordReadDone e) s = .next t
            ∧ resultOf slot t = some (.notPresent, [0] ++ toBytes 1 w.target ++ [0, 0, 0, 0, 0, 0])
            ∧ slateBut slot { atEnd j e s with run := { s.run with switch := none, staging := none } } t)
      ∧ (∀ slot, r.present = true → (r.busy = true ∨ s.run.current = some w.target) → w.slot = some slot →
          awaiting slot s → ∃ t, exec (.sceneRecordReadDone e) s = .next t
            ∧ resultOf slot t = some (.busy, [0] ++ toBytes 1 w.target ++ [0, 0, 0, 0, 0, 0])
            ∧ slateBut slot { atEnd j e s with run := { s.run with switch := none, staging := none } } t)
      ∧ (r.present = false → w.slot = none → ∃ t, exec (.sceneRecordReadDone e) s = .next t
          ∧ t.regs.part = .failed ∧ t.regs.startFault = .sceneInitial ∧ t.run.switch = none ∧ t.run.staging = none
          ∧ t.mem = (atEnd j e s).mem ∧ t.slate = s.slate ∧ t.run.current = s.run.current))
    ∧ (j.kind = .ruleTable i → ∀ r, s.run.staging = some r → ∃ t, exec (.ruleTableReadDone e) s = .next t
        ∧ committed w r (decodeRules r.ruleCount (delivered j e s)) s t
        ∧ t.mem = (atEnd j e s).mem ∧ t.clock = s.clock ∧ t.regs = s.regs ∧ t.slate = s.slate ∧ t.tally = s.tally
        ∧ t.schedule = s.schedule ∧ t.cache = s.cache ∧ t.startOrder = s.startOrder ∧ voicesAlike s t))
  ∧ ∀ (e : JobEnd) (s : State) (j : Job) (w : Switch) (i : Nat) (c : Instr), endsBadly j e s → s.run.switch = some w →
    w.phase = .loading → (j.kind = .sceneRecord i ∧ c = .sceneRecordReadDone e
      ∨ j.kind = .ruleTable i ∧ c = .ruleTableReadDone e) →
    ∃ t, exec c s = .next t ∧ t.run = { s.run with switch := none, staging := none } ∧ t.mem = (atFault j e s).mem
      ∧ t.trigger = s.trigger ∧ t.resolver = s.resolver ∧ t.mix = s.mix ∧ t.clock = s.clock ∧ voicesAlike s t
      ∧ (s.fault.record = none → j.address < 2 ^ 32 → t.fault.record = some
          { source := .scene, kind := .read, address := BitVec.ofNat 32 j.address, detail := BitVec.ofNat 32 i })
      ∧ (∀ slot, w.slot = some slot → t.regs.part = s.regs.part ∧ (awaiting slot s → j.address < 2 ^ 32 →
          resultOf slot t = some (.memoryError, [0] ++ toBytes 1 w.target ++ [0, 0] ++ toBytes 4 j.address)))
      ∧ (w.slot = none → t.regs.part = .failed ∧ t.regs.startFault = .sceneInitial)

/-- BUSY_WRITE_DONE (R38, R174): behind busy 0 the busy 1 write of the target is placed, in RUNNING only and not before
(log entry 22): where it ends in another state the switch ends without it; behind busy 1 the switch ends, with OK for
its slot, or with the written-to write of the start when it is the initial load, whose busy write, when it fails, ends
the start with SCENE_INITIAL and is captured. -/
def Obligations.BusyWritesEnd : Prop :=
  ∀ (e : JobEnd) (s : State) (j : Job) (w : Switch) (i : Nat), s.run.switch = some w →
    (endsWell j e s → j.kind = .busyWrite i false → isRunning s = true → ∃ t, exec (.busyWriteDone e) s = .next t
      ∧ portPlus (writeJob (.busyWrite w.target true) ((header s).sceneTable + 160 * w.target + 1) [1]) (atEnd j e s) t)
    ∧ (endsWell j e s → j.kind = .busyWrite i false → isRunning s = false → ∃ t, exec (.busyWriteDone e) s = .next t
      ∧ portBut { atEnd j e s with run := { s.run with switch := none, staging := none } } t)
    ∧ (endsWell j e s → j.kind = .busyWrite i true →
      (∀ slot p, w.slot = some slot → w.previous = some p → awaiting slot s → ∃ t, exec (.busyWriteDone e) s = .next t
        ∧ resultOf slot t = some (.ok, toBytes 1 p ++ toBytes 1 w.target ++ toBytes 1 w.rules)
        ∧ slateBut slot { atEnd j e s with
            run := { s.run with switch := none, staging := none }, free := s.free + 1 } t)
      ∧ (w.slot = none → ∃ t, exec (.busyWriteDone e) s = .next t
        ∧ portPlus (writeJob .startWrittenTo ((header s).base + 32) (toBytes 2 (header s).returnedTo)) { atEnd j e s with
            run := { s.run with switch := none, staging := none }
            reports := { s.reports with writtenTo := (header s).returnedTo, returnedTo := (header s).returnedTo } } t))
    ∧ ∀ value, endsBadly j e s → j.kind = .busyWrite i value → s.regs.part = .starting → w.slot = none →
      ∃ t, exec (.busyWriteDone e) s = .next t
        ∧ t.regs.part = .failed ∧ t.regs.startFault = .sceneInitial ∧ t.run.switch = none ∧ voicesAlike s t
        ∧ t.mem = (atFault j e s).mem ∧ t.clock = s.clock ∧ t.slate = s.slate
        ∧ (s.fault.record = none → j.address < 2 ^ 32 → t.fault.record = some
            { source := .scene, kind := .write, address := BitVec.ofNat 32 j.address, detail := BitVec.ofNat 32 i })

/-! ### Reports and Fault Capture (chapter 11) -/

/-- A report handed to the Report Unit (R179, R180): what it does in each column of the table of R180 while the part is
RUNNING or STOPPING, and nothing in the other states. -/
def Obligations.ReportTable : Prop :=
  ∀ (r : Report) (s : State),
    (isActive s = false → emit r s = s)
    ∧ (isActive s = true → s.reports.holdList = [] →
        (r.kind.essential = true ∧ 0 < freeRoom s ∨ r.kind.essential = false ∧ (header s).reserve < freeRoom s) →
        (emit r s).reports = { s.reports with writtenTo := (s.reports.writtenTo + 1) % (header s).reportCount }
        ∧ atPort (writeJob (.reportRecord s.reports.writtenTo) ((header s).strip + 32 * s.reports.writtenTo) r.bytes)
            (emit r s)
        ∧ atPort (writeJob .writtenTo ((header s).base + 32)
            (toBytes 2 ((s.reports.writtenTo + 1) % (header s).reportCount))) (emit r s)
        ∧ portGoesOn (fun k => k.kind = .reportRecord s.reports.writtenTo ∨ k.kind = .writtenTo) s (emit r s)
        ∧ { emit r s with reports := s.reports, port := s.port } = s)
    ∧ (isActive s = true → r.kind.essential = false →
        (s.reports.holdList ≠ [] ∨ freeRoom s ≤ (header s).reserve) →
        emit r s = { s with reports := { s.reports with drops := min 65535 (s.reports.drops + 1) } })
    ∧ (isActive s = true → r.kind.essential = true → s.reports.holdList = [] → freeRoom s = 0 →
        emit r s = { s with reports := { s.reports with holdList := [r] } })
    ∧ (isActive s = true → r.kind.essential = true → 1 ≤ s.reports.holdList.length → s.reports.holdList.length < 16 →
        (emit r s).reports.holdList = s.reports.holdList ++ [r]
        ∧ (emit r s).reports.backPressure = (s.reports.backPressure || decide (s.reports.holdList.length = 15))
        ∧ { emit r s with reports := s.reports } = s)
    ∧ (isActive s = true → r.kind.essential = true → 16 ≤ s.reports.holdList.length →
        (emit r s).reports = { s.reports with lost := min 255 (s.reports.lost + 1) }
        ∧ (s.fault.record = none → (emit r s).fault.record =
            some { source := .report, kind := .reportOverflow, address := 0, detail := BitVec.ofNat 32 r.kind.code }
          ∧ (emit r s).regs.flags = s.regs.flags ||| 4#3))

/-- The ends of the Report Unit's, Fault Capture's and the mirror's jobs. RETURNED_TO_READ_DONE (R181): a value below
the report count becomes the returned-to index, any other is ignored; the hold list drains from its head while there is
room, its record writes at successive places of the strip and the written-to update behind them; back-pressure is
cleared once fewer than 16 wait. WRITTEN_TO_WRITE_DONE sets the REPORT flag (R179); REPORT_RECORD_WRITE_DONE and
FAULT_RECORD_WRITE_DONE only free the port (R182, R184); MIRROR_WRITE_DONE places the mirror write that waits, if one
does (R45). -/
def Obligations.ReportJobsEnd : Prop :=
  (∀ (e : JobEnd) (s : State) (j : Job), endsWell j e s → j.kind = .returnedTo → 0 < (header s).reportCount →
    s.reports.writtenTo < (header s).reportCount → ∀ n k u, n = field (delivered j e s) 0 2 →
    u = { atEnd j e s with reports := { s.reports with
      returnedTo := if n < (header s).reportCount then n else s.reports.returnedTo } } →
    k = min s.reports.holdList.length (freeRoom u) →
    ∃ t, exec (.returnedToReadDone e) s = .next t
      ∧ t.reports = { u.reports with
          writtenTo := (s.reports.writtenTo + k) % (header s).reportCount
          holdList := s.reports.holdList.drop k
          backPressure := s.reports.backPressure && decide (16 ≤ s.reports.holdList.length - k) }
      ∧ { t with port := s.port, voices := s.voices, reports := s.reports, mem := s.mem } = s ∧ voicesAlike s t
      ∧ portGoesOn (fun x => x.kind.reports) (atEnd j e s) t
      ∧ (∀ i r, i < k → s.reports.holdList[i]? = some r →
          atPort (recordJob ((s.reports.writtenTo + i) % (header s).reportCount) r s) t)
      ∧ (0 < k → atPort (writeJob .writtenTo ((header s).base + 32)
          (toBytes 2 ((s.reports.writtenTo + k) % (header s).reportCount))) t)
      ∧ t.mem = (atEnd j e s).mem)
  ∧ ∀ (e : JobEnd) (s : State) (j : Job), endsWell j e s →
    (j.kind = .writtenTo → ∃ t f, exec (.writtenToWriteDone e) s = .next t
      ∧ (∀ b : Fin 3, BitVec.getLsbD f b = (s.regs.flags.getLsbD b || b.val == 0))
      ∧ portBut { atEnd j e s with regs := { s.regs with flags := f } } t)
    ∧ (∀ n, j.kind = .reportRecord n → ∃ t, exec (.reportRecordWriteDone e) s = .next t ∧ portBut (atEnd j e s) t)
    ∧ (j.kind = .faultRecord → ∃ t, exec (.faultRecordWriteDone e) s = .next t ∧ portBut (atEnd j e s) t)
    ∧ (j.kind = .mirror →
      (s.slate.mirrorWaiting = none → ∃ t, exec (.mirrorWriteDone e) s = .next t ∧ portBut (atEnd j e s) t)
      ∧ ∀ data, s.slate.mirrorWaiting = some data → ∃ t, exec (.mirrorWriteDone e) s = .next t
        ∧ portPlus (writeJob .mirror ((header s).base + 34) data)
            { atEnd j e s with slate := { s.slate with mirrorWaiting := none } } t)

/-- FATAL_WRITE_FAULT (R40, R183, R185): a write that fails while RUNNING or STOPPING takes the part to FAILED with
RUNTIME_WRITE, every voice silent within 96 samples, its cue marked to end without a report (log entry 53), nothing
booked, no slot held, and the fault captured; in the other states nothing happens (log entry 9). -/
def Obligations.FatalWriteFails : Prop :=
  ∀ (e : JobEnd) (s : State),
    (∀ j, s.port.inFlight = some j → s.port.discard = false → j.kind.isWrite = true → isActive s = true →
      ∃ t, exec (.fatalWriteFault e) s = .next t
        ∧ t.regs.part = .failed ∧ t.regs.startFault = .runtimeWrite ∧ silentWithin 96 t ∧ t.slate.held = []
        ∧ t.run.switch = none ∧ t.reports.holdList = []
        ∧ (s.fault.record = none → ∃ x, t.fault.record = some x ∧ x.kind = .write)
        ∧ t.mem = memoryAfter j { e with error := true } true s.mem
        ∧ (∀ v p, (t.voice v).content = .releasing p → p.quiet = true)
        ∧ t.clock = s.clock ∧ t.tally = s.tally ∧ t.resolver.vars = s.resolver.vars ∧ t.regs.run = s.regs.run)
    ∧ (isActive s = false → exec (.fatalWriteFault e) s = .next s)

/-- The arbiter (R139): a job placed at an idle port is taken at once. It leaves a job in flight alone; with the port
free it takes the head of the first class that holds one, in the order REFILL, RESOLVER, HOUSEKEEPING, HEAD, SCENE, PIN,
and of the REFILL jobs that are not stale the one whose voice has the fewest frames, the lowest voice first. -/
def Obligations.ArbiterOrder : Prop :=
  ∀ s : State,
    (∀ j, s.port.inFlight = none → (∀ c, s.port.queue c = []) →
      place j s = { s with port := { s.port with inFlight := some j } })
    ∧ (s.port.inFlight ≠ none → arbitrate s = s)
    ∧ (s.port.inFlight = none → s.port.refill = [] →
      (∀ j q, s.port.resolver = j :: q → arbitrate s = { s with port := { s.port with inFlight := some j, resolver := q } })
      ∧ (s.port.resolver = [] →
        (∀ j q, s.port.house = j :: q → arbitrate s = { s with port := { s.port with inFlight := some j, house := q } })
        ∧ (s.port.house = [] →
          (∀ j q, s.port.head = j :: q → headStale s j = false →
            arbitrate s = { s with port := { s.port with inFlight := some j, head := q } })
          ∧ (s.port.head = [] →
            (∀ j q, s.port.scene = j :: q → arbitrate s = { s with port := { s.port with inFlight := some j, scene := q } })
            ∧ ∀ j q, s.port.scene = [] → s.port.pin = j :: q →
              arbitrate s = { s with port := { s.port with inFlight := some j, pin := q } }))))
    ∧ (s.port.inFlight = none → ∀ j ∈ s.port.refill, refillStale s j = false →
      ∃ b, (arbitrate s).port.inFlight = some b ∧ b ∈ s.port.refill ∧ refillStale s b = false
        ∧ refillKey s b ≤ refillKey s j)

/-! ### Events of a voice or a duck group (chapters 05 and 09) -/

/-- EXACT_START (R69, R82): an ARMED voice whose end sample has come enters SOUNDING at this sample, with all the
effects of the entry; before it nothing happens (log entry 9). An entry still to come, that of a cue whose first sample
is the next one, has the same effects when an event of this sample brings it forward (log entry 15), its FIRED and LATE
reports carrying the sample at which the cue first plays; a voice without one is left alone. -/
def Obligations.ExactStartSounds : Prop :=
  (∀ (v : Fin 24) (s : State) (i : Incoming) (stop : Time), (s.voice v).content = .armed i → i.start = .exact stop →
    (Time.earlier s.clock.showTime stop = false → ∃ t, exec (.exactStart v) s = .next t
      ∧ entersSounding v (i.begin false none) s t)
    ∧ (Time.earlier s.clock.showTime stop = true → ∃ t, exec (.exactStart v) s = .next t ∧ portBut s t))
  ∧ ∀ (v : Fin 24) (s : State),
    (∀ p l, (s.voice v).content = .sounding p → p.entry = some l → entersSounding v p s (completeEntry v s))
    ∧ ((∀ p, (s.voice v).content = .sounding p → p.entry = none) → completeEntry v s = s)

/-- FOLLOW_ON_REQUEST (R55, R73): within 9,600 samples of its end, a SOUNDING voice with a follow selector and no active
loop places one request, with the end sample of its clip, at the tail of the internal intake or in the place of its
earlier one, and no other request moves; otherwise nothing happens (log entry 9). A voice whose entry into SOUNDING is
still to come places none before it (log entry 15). -/
def Obligations.FollowOnRequestPlaced : Prop :=
  ∀ (v : Fin 24) (s : State) (p : Playing), (s.voice v).content = .sounding p →
    (isRunning s = true → p.sound.follow.sheet ≠ 0 → p.loopActive = false → p.followPlaced = false → p.entry = none →
      p.sound.length - p.position ≤ 9600 → ∃ t f fs, exec (.followOnRequest v) s = .next t
        ∧ f = { leader := v, claim := p.claim.number, selector := p.sound.follow, level := p.claim.req.cue.level
                stop := firstSample p s + BitVec.ofNat 40 (p.sound.length - p.position) }
        ∧ ((∀ g ∈ s.resolver.follows, g.leader ≠ v) → fs = s.resolver.follows ++ [f])
        ∧ (∀ before old behind, s.resolver.follows = before ++ old :: behind → old.leader = v →
            (∀ g ∈ before, g.leader ≠ v) → fs = before ++ f :: behind)
        ∧ portBut { setContent v (.sounding { p with followPlaced := true }) s with
            resolver := { s.resolver with follows := fs } } t)
    ∧ (isRunning s = false ∨ p.sound.follow.sheet = 0 ∨ p.loopActive = true ∨ p.followPlaced = true ∨ p.entry ≠ none
        ∨ 9600 < p.sound.length - p.position → ∃ t, exec (.followOnRequest v) s = .next t ∧ portBut s t)

/-- NATURAL_END, RELEASE_COMPLETE and HANDOVER_FADE_END (R83, R84, R87, R89, R90, R100, R156): a SOUNDING voice that has
played its clip goes IDLE, leaves the start order and keys no duck group, its last end a natural one, with ENDED, reason
NATURAL; a RELEASING voice that has played its clip or run its release goes IDLE with the ENDED its end reason calls
for, none for a cue cut at entry into FAILED (log entry 53). A handover fade that has run its length, or whose clip has
ended, leaves the incoming claim PRIMING, or ARMED when its head has landed and it waits for a frame, or, landed and
IMMEDIATE, SOUNDING from this sample on with the next as the first one it plays (log entry 15), with the outgoing claim
recorded as not ended by natural end. Before that nothing happens (log entry 9). -/
def Obligations.ClipsAndFadesEnd : Prop :=
  (∀ (v : Fin 24) (s : State) (p : Playing), (s.voice v).content = .sounding p →
    (p.sound.length ≤ p.position → ∃ t, exec (.naturalEnd v) s = .next t
      ∧ (t.voice v).content = .idle ∧ (t.voice v).lastEnd = some (p.claim.number, true) ∧ (t.voice v).stream = []
      ∧ (t.voice v).claimNo = (s.voice v).claimNo ∧ t.startOrder = s.startOrder.erase v
      ∧ (∀ (g : Fin 4) (w : Fin 24), t.mix.ducks[g].keying.getLsbD w =
          (s.mix.ducks[g].keying.getLsbD w && decide (w ≠ v)))
      ∧ (∀ w, w ≠ v → voiceAlike w s t) ∧ t.rest = s.rest
      ∧ firstReport (aboutClaim .ended v p.claim (toBytes 2 p.claim.number.toNat ++ [0, 1]) s) s t)
    ∧ (p.position < p.sound.length → ∃ t, exec (.naturalEnd v) s = .next t ∧ portBut s t))
  ∧ (∀ (v : Fin 24) (s : State) (p : Playing) (f : Int) (l m : Nat) (c : Instr), (s.voice v).content = .releasing p →
    p.fade = .release f l m →
    (c = .naturalEnd v ∧ p.sound.length ≤ p.position ∨ c = .releaseComplete v ∧ l ≤ m → ∃ t, exec c s = .next t
      ∧ (t.voice v).content = .idle ∧ (t.voice v).lastEnd = some (p.claim.number, false) ∧ (t.voice v).stream = []
      ∧ (∀ g : Fin 4, t.mix.ducks[g].keying.getLsbD v = false)
      ∧ t.startOrder = s.startOrder ∧ (∀ w, w ≠ v → voiceAlike w s t) ∧ t.rest = s.rest
      ∧ (∀ r, p.endReason = some r → p.quiet = false →
          firstReport (aboutClaim .ended v p.claim (toBytes 2 p.claim.number.toNat ++ toBytes 1 r.code ++ [1]) s) s t)
      ∧ (p.endReason = none ∨ p.quiet = true → t.reports = s.reports))
    ∧ (c = .naturalEnd v ∧ p.position < p.sound.length ∨ c = .releaseComplete v ∧ m < l →
        ∃ t, exec c s = .next t ∧ portBut s t))
  ∧ ∀ (v : Fin 24) (s : State) (p : Playing) (i : Incoming) (landed : Bool) (f : Int) (l m : Nat),
    (s.voice v).content = .handover p i landed → p.fade = .release f l m →
    (l ≤ m ∨ p.sound.length ≤ p.position →
      ∃ t, exec (.handoverFadeEnd v) s = .next t
        ∧ (landed = false ∨ i.start = .frame → (t.voice v).content = (if landed then .armed i else .priming i))
        ∧ (landed = true → i.start = .immediate → entersNext v i none t)
        ∧ (landed = false ∨ i.start = .frame ∨ i.start = .immediate →
          (t.voice v).lastEnd = some (p.claim.number, false) ∧ (t.voice v).stream = []
          ∧ (t.voice v).head = (s.voice v).head ∧ (t.voice v).claimNo = (s.voice v).claimNo
          ∧ t.startOrder = s.startOrder ∧ (∀ w, w ≠ v → voiceAlike w s t) ∧ t.rest = s.rest)
        ∧ (∀ r, p.endReason = some r → p.quiet = false →
          firstReport (aboutClaim .ended v p.claim (toBytes 2 p.claim.number.toNat ++ toBytes 1 r.code ++ [1]) s) s t))
    ∧ (m < l → p.position < p.sound.length → ∃ t, exec (.handoverFadeEnd v) s = .next t ∧ portBut s t)

/-- DUCK_STEP (R157): a due step moves the offset one code towards the target, minus the depth while keyed and 0 while
not, and sets the sub-counter to 0; when none is due nothing happens (log entries 9 and 16). -/
def Obligations.DuckStepMoves : Prop :=
  ∀ (g : Fin 4) (s : State) (d : Duck) (target : Int), d = s.mix.ducks[g] →
    target = (if d.keyed then -(d.depth : Int) else 0) →
    (d.due = true → ∃ t, exec (.duckStep g) s = .next t
      ∧ portBut { s with mix := { s.mix with ducks := s.mix.ducks.set g { d with
          offset := if d.offset < target then d.offset + 1 else if target < d.offset then d.offset - 1 else d.offset
          sub := 0, due := false } } } t)
    ∧ (d.due = false → ∃ t, exec (.duckStep g) s = .next t ∧ portBut s t)

/-! ### The requests (chapters 02 to 11) -/

/-- FIRE, PRIME and PROBE (R4, R11, R12, R19, R43, R57, R60, R61): when the resolver is free and nothing waits in its
own intakes, the request's resolution begins: the larger of the slot's level and the selector's, the offset clamped, and
the descriptor read at the port; a null selector, whose level is not used, gives NULL_REF, a sheet beyond the directory
LIMIT, both with the detail in the form of PROBE; until then the request waits (R43), and the command changes nothing
(log entry 9). -/
def Obligations.ResolutionsBegin : Prop :=
  ∀ (s : State) (tk : Taken) (rest : List Taken) (q : Request) (x : Selector) (o : Int) (purpose : Purpose) (c : Instr),
    headRequest s = some (tk, rest, q) →
    (c = .fire ∧ (∃ start, q = .fire x o start ∧ purpose = .fire start) ∨ c = .prime ∧ q = .prime x o ∧ purpose = .prime
      ∨ c = .probe ∧ q = .probe x ∧ purpose = .probe ∧ o = 0) →
    (slateTurn s = true →
      (x.sheet ≠ 0 → x.sheet.toNat < (header s).directoryCount → ∃ t, exec c s = .next t
        ∧ slatePlus tk.slot (readJob (.descriptor tk.slot) ((header s).directory + 8 * x.sheet.toNat) 8)
          { s with resolver := { s.resolver with
            current := some
              { source := .slate, origin := tk.slot, tag := slotTag tk.bytes, purpose := purpose, entry := x, current := x
                direct := true, level := max (slotLevel tk.bytes) x.level.toNat, offset := max (-64) (min 16 o), hops := 0
                lastDescriptor := none, lastCue := none, clipLength := 0, phase := .readingDescriptor, leader := none } } } t)
      ∧ (x.sheet = 0 → awaiting tk.slot s →
          Answers c s tk.slot .nullRef (probeForm 0 0 0 0 (slotLevel tk.bytes) 0 0) s)
      ∧ (x.sheet ≠ 0 → (header s).directoryCount ≤ x.sheet.toNat → awaiting tk.slot s →
          Answers c s tk.slot .limit (probeForm 0 0 0 0 (max (slotLevel tk.bytes) x.level.toNat) 0 0) s))
    ∧ (slateTurn s = false → exec c s = .next s)

/-- GO (R72, R82): refused HELD in a hold; an ARMED voice is SOUNDING from this sample on with the next as the first one
it plays (log entry 15), or waits for the next frame; a PRIMING voice's pending start is set and its late mark
discarded; any other state gives BAD_STATE. -/
def Obligations.GoStarts : Prop :=
  ∀ (s : State) (tk : Taken) (rest : List Taken) (n : Nat) (frame : Bool),
    headRequest s = some (tk, rest, .go n frame) → awaiting tk.slot s →
    (24 ≤ n → Answers .go s tk.slot .badArg [] s)
    ∧ ∀ (v : Fin 24) (d : List Byte), n = v.val →
      d = toBytes 1 v.val ++ toBytes 2 (s.voice v).claimNo.toNat ++ toBytes 1 (s.voice v).content.code →
      (s.run.hold ≠ .none → Answers .go s tk.slot .held d s)
      ∧ (s.run.hold = .none →
        (∀ i, (s.voice v).content = .armed i → frame = false →
          Answers .go s tk.slot .ok d
            (setContent v (.sounding ({ i with start := .immediate, lateMark := none }.begin true none)) s))
        ∧ (∀ i, (s.voice v).content = .armed i → frame = true →
          Answers .go s tk.slot .ok d (setContent v (.armed { i with start := .frame, lateMark := none }) s))
        ∧ (∀ i, (s.voice v).content = .priming i → Answers .go s tk.slot .ok d
          (setContent v (.priming { i with start := if frame then .frame else .immediate, lateMark := none }) s))
        ∧ ((∀ i, (s.voice v).content ≠ .armed i) → (∀ i, (s.voice v).content ≠ .priming i) →
          Answers .go s tk.slot .badState d s))

/-- SET_VAR (R59, whole): the operation is carried out on the variable, with the old and new values in the detail; a
number of 32 or more gives BAD_ARG. No hold and no resolution in progress matters. -/
def Obligations.SetVarResult : Prop :=
  ∀ (s : State) (tk : Taken) (rest : List Taken) (v : Nat) (op : VarOp) (x : Half),
    headRequest s = some (tk, rest, .setVar v op x) → awaiting tk.slot s →
    (∀ (h : v < 32) (old new : Half), old = s.resolver.vars[v] →
      new = (match op with
        | .set => x
        | .add => BitVec.ofNat 16 (min 65535 (old.toNat + x.toNat))
        | .sub => BitVec.ofNat 16 (old.toNat - x.toNat)) →
      Answers .setVar s tk.slot .ok (toBytes 2 old.toNat ++ toBytes 2 new.toNat)
        { s with resolver := { s.resolver with vars := s.resolver.vars.set v new } })
    ∧ (32 ≤ v → Answers .setVar s tk.slot .badArg [] s)

/-- RELEASE (R92, R93): what each state of the voice becomes, with the voice, its claim number, its state and the
withdrawn claim number in the detail; an IDLE voice gives BAD_STATE. A claim withdrawn before it sounded gives ENDED,
reason RELEASED, not sounded, before any other report of the event (log entry 64) and before the result (log entry 63),
and in HANDOVER the claim number advances (R78, R91). A voice whose entry into SOUNDING is still to come completes it
first (log entry 15). -/
def Obligations.ReleaseActs : Prop :=
  ∀ (s : State) (tk : Taken) (rest : List Taken) (n : Nat) (useFadeOut : Bool) (l : Nat),
    headRequest s = some (tk, rest, .release n useFadeOut l) → awaiting tk.slot s →
    (24 ≤ n → Answers .release s tk.slot .badArg [] s)
    ∧ ∀ (v : Fin 24) (d : List Byte), n = v.val →
      d = toBytes 1 v.val ++ toBytes 2 (s.voice v).claimNo.toNat ++ toBytes 1 (s.voice v).content.code →
      ((s.voice v).content = .idle → Answers .release s tk.slot .badState d s)
      ∧ ((s.voice v).content ≠ .idle → ∀ u, u = completeEntry v s → ∃ t, exec .release s = .next t
        ∧ resultOf tk.slot t = some (.ok, d ++ toBytes 2 (s.voice v).content.withdrawn.toNat)
        ∧ (t.voice v).content =
            (u.voice v).content.afterRelease .released (fun p => if useFadeOut then p.sound.fadeOut else l) true
        ∧ t.startOrder = (if (u.voice v).content.isSounding then u.startOrder.erase v else u.startOrder)
        ∧ (∀ p, (u.voice v).content = .sounding p → othersAlike v p.claim.number u t)
        ∧ ((u.voice v).content.isSounding = false → ∀ w, w ≠ v → voiceAlike w u t)
        ∧ (t.voice v).claimNo = (s.voice v).numberAfterWithdraw
        ∧ (∀ r, endedUnsounded 1 s v = some r → firstReport r s t ∧ reportsBeforeResult tk.slot .ok
            (d ++ toBytes 2 (s.voice v).content.withdrawn.toNat) r s t)
        ∧ t.rest = s.rest)

/-- CUT and CUT_LAST (R92, R94, R95): a release of 96 samples with end reason CUT, on the voice named or on the tail of
the start order; a voice under CUT is silent within 96 samples. A claim withdrawn before it sounded gives ENDED, reason
CUT, not sounded, before any other report of the event (log entry 64), and in HANDOVER the claim number advances (R78,
R91). CUT of an IDLE voice, and CUT LAST with nothing SOUNDING, give BAD_STATE. A voice whose entry into SOUNDING is
still to come completes it first (log entry 15). -/
def Obligations.CutActs : Prop :=
  ∀ (s : State) (tk : Taken) (rest : List Taken), awaiting tk.slot s →
    (∀ n, headRequest s = some (tk, rest, .cut n) → 24 ≤ n → Answers .cut s tk.slot .badArg [] s)
    ∧ (∀ v : Fin 24, headRequest s = some (tk, rest, .cut v.val) → (s.voice v).content = .idle →
        Answers .cut s tk.slot .badState
          (toBytes 1 v.val ++ toBytes 2 (s.voice v).claimNo.toNat ++ toBytes 1 (s.voice v).content.code) s)
    ∧ (∀ (v : Fin 24) (c : Instr), (c = .cut ∧ headRequest s = some (tk, rest, .cut v.val) ∧ (s.voice v).content ≠ .idle
          ∨ c = .cutLast ∧ headRequest s = some (tk, rest, .cutLast) ∧ s.startOrder.getLast? = some v) →
        ∀ u, u = completeEntry v s → ∃ t, exec c s = .next t
          ∧ resultOf tk.slot t = some (.ok, toBytes 1 v.val ++ toBytes 2 (s.voice v).claimNo.toNat
              ++ toBytes 1 (s.voice v).content.code ++ toBytes 2 (s.voice v).content.withdrawn.toNat)
          ∧ (t.voice v).content = (u.voice v).content.afterRelease .cut (fun _ => 96) true
          ∧ (t.voice v).content.silentWithin 96
          ∧ t.startOrder = (if (u.voice v).content.isSounding then u.startOrder.erase v else u.startOrder)
          ∧ (∀ p, (u.voice v).content = .sounding p → othersAlike v p.claim.number u t)
          ∧ ((u.voice v).content.isSounding = false → ∀ w, w ≠ v → voiceAlike w u t)
          ∧ (t.voice v).claimNo = (s.voice v).numberAfterWithdraw
          ∧ (∀ r, endedUnsounded 2 s v = some r → firstReport r s t)
          ∧ t.rest = s.rest)
    ∧ (headRequest s = some (tk, rest, .cutLast) → s.startOrder = [] → ∃ d, d.head? = some 0xFF
        ∧ Answers .cutLast s tk.slot .badState d { s with free := s.free + 1 })

/-- UNLOOP (R96, R144): in SOUNDING and RELEASING the loop-active flag is cleared and the stream buffer keeps the frames
before the first return to the loop start, also when the flag was clear already (log entry 33), with whether it had been
set in the detail. A refill of the voice is voided, a queued one being removed, and the refill test is made again (R142)
in RUNNING and STOPPING (log entry 66). Any other state gives BAD_STATE. A voice whose entry into SOUNDING is still to
come completes it first (log entry 15). -/
def Obligations.UnloopClearsLoop : Prop :=
  ∀ (s : State) (tk : Taken) (rest : List Taken) (n : Nat),
    headRequest s = some (tk, rest, .unloop n) → awaiting tk.slot s →
    (24 ≤ n → Answers .unloop s tk.slot .badArg [] s)
    ∧ ∀ (v : Fin 24) (d : List Byte) (u : State), n = v.val → u = completeEntry v s →
      d = toBytes 1 v.val ++ toBytes 2 (s.voice v).claimNo.toNat ++ toBytes 1 (s.voice v).content.code →
      (∀ (p : Playing) (put : Playing → Content), (put = .sounding ∨ put = .releasing) → (u.voice v).content = put p →
        ∃ t p', exec .unloop s = .next t
          ∧ resultOf tk.slot t = some (.ok, d ++ [0, 0] ++ toBytes 1 (if p.loopActive then 1 else 0))
          ∧ (t.voice v).content = put p'
          ∧ { p' with followPlaced := p.followPlaced } = { p with loopActive := false }
          ∧ (∀ l, p.sound.loop = some l → (t.voice v).stream = beforeReturn l (u.voice v).stream)
          ∧ (p.sound.loop = none → (t.voice v).stream = (u.voice v).stream)
          ∧ (∀ f, (t.voice v).stream.getLast? = some f → (t.voice v).fetchPosition = f.index + 1)
          ∧ ((t.voice v).stream = [] → (t.voice v).fetchPosition = p.position)
          ∧ (∀ w, w ≠ v → voiceAlike w u t) ∧ t.startOrder = u.startOrder ∧ t.rest = s.rest
          ∧ (∀ j m first frames voided, u.port.inFlight = some j → j.kind = .refill v m first frames voided →
              t.port.inFlight = some { j with kind := .refill v m first frames true })
          ∧ ∀ pending : Bool, (pending = true ↔ ∃ j m first frames voided,
              u.port.inFlight = some j ∧ j.kind = .refill v m first frames voided) →
            refillTested v pending (fun k => ∃ j m first frames voided, u.port.inFlight = some j
              ∧ j.kind = .refill v m first frames voided ∧ k = { j with kind := .refill v m first frames true }) t)
      ∧ ((s.voice v).content.isSounding = false → (∀ p, (s.voice v).content ≠ .releasing p) →
          Answers .unloop s tk.slot .badState d s)

/-- RELEASE_GROUP (R97): every voice whose current claim carries the group is released by its own fade-out, withdrawn,
or, in HANDOVER, left to its outgoing fade; the number of voices is the detail; a group outside 1 to 15 gives BAD_ARG.
The claims withdrawn give ENDED, reason RELEASED, not sounded, before any other report of the releases and in ascending
voice number (log entry 5), and in HANDOVER the claim number advances (R78, R91). Those whose entry into SOUNDING is
still to come complete it first (log entry 15). -/
def Obligations.ReleaseGroupActs : Prop :=
  ∀ (s : State) (tk : Taken) (rest : List Taken) (g : Nat),
    headRequest s = some (tk, rest, .releaseGroup g) → awaiting tk.slot s →
    (1 ≤ g → g ≤ 15 → ∀ u, u = completeEntries (Content.inGroup g) s → ∃ t, exec .releaseGroup s = .next t
      ∧ resultOf tk.slot t =
          some (.ok, toBytes 1 ((List.finRange 24).filter fun v => (u.voice v).content.inGroup g).length)
      ∧ ((∀ v p, (s.voice v).content = .sounding p → p.entry = none) → u = s)
      ∧ (∀ v, (u.voice v).content.inGroup g = true →
          (t.voice v).content = (u.voice v).content.afterRelease .released (fun p => p.sound.fadeOut) false
          ∧ (t.voice v).claimNo = (u.voice v).numberAfterWithdraw)
      ∧ reportsInOrder ((List.finRange 24).filterMap fun v =>
          if (u.voice v).content.inGroup g then endedUnsounded 1 u v else none) u t
      ∧ (∀ v, (u.voice v).content.inGroup g = false → (u.voice v).content.incoming = none →
          (t.voice v).content = (u.voice v).content)
      ∧ t.rest = s.rest)
    ∧ (g = 0 ∨ 16 ≤ g → Answers .releaseGroup s tk.slot .badArg [] s)

/-- CANCEL (R53, R91, R117): the entries with the tag leave the schedule, every link with it is emptied, the claims the
links still hold are withdrawn, with CANCELLED in ascending voice number (log entry 57) and, in HANDOVER, the next claim
number, and the detail counts entries and voices. -/
def Obligations.CancelActs : Prop :=
  ∀ (s : State) (tk : Taken) (rest : List Taken) (tag : Half) (hit : Fin 24 → Bool),
    headRequest s = some (tk, rest, .cancel tag) → awaiting tk.slot s →
    (∀ v, hit v = true ↔ ∃ l, s.schedule.links[v] = some l ∧ l.tag = tag ∧ (s.voice v).claimNo = l.claim
      ∧ (s.voice v).content.incoming ≠ none) →
    ∃ t, exec .cancel s = .next t
      ∧ resultOf tk.slot t = some (.ok, toBytes 1 (s.schedule.entries.filter fun e => e.tag == tag).length
          ++ toBytes 1 ((List.finRange 24).filter hit).length)
      ∧ t.schedule.entries = s.schedule.entries.filter (fun e => e.tag != tag)
      ∧ (∀ v : Fin 24, t.schedule.links[v] =
          if (s.schedule.links[v]).any (fun l => l.tag == tag) then none else s.schedule.links[v])
      ∧ (∀ v, hit v = true → (t.voice v).content = (s.voice v).content.afterWithdraw
          ∧ (t.voice v).claimNo = (s.voice v).numberAfterWithdraw)
      ∧ (∀ told : Fin 24 → Option Report, (∀ v, told v = if hit v then
            match (s.voice v).content.incoming, s.schedule.links[v] with
            | some i, some l => some { aboutClaim .cancelled v i.claim
                ([0, 0] ++ toBytes 2 l.claim.toNat ++ toBytes 4 l.target.toNat) s with tag := l.tag }
            | _, _ => none
          else none) → reportsInOrder ((List.finRange 24).filterMap told) s t)
      ∧ (∀ v, hit v = false → voiceAlike v s t)
      ∧ t.startOrder = s.startOrder ∧ t.rest = { s.rest with entries := t.schedule.entries }

/-- ARM_RULES, DISARM_RULES and REOPEN (R129, R131, R132): the flags of the named rules below the rule count are set or
cleared, with the flags after it in the detail; the named arrival groups are open, with those that were closed and the
lines that had won them in the detail. -/
def Obligations.ArmAndReopen : Prop :=
  ∀ (s : State) (tk : Taken) (rest : List Taken), awaiting tk.slot s →
    (∀ (mask : BitVec 64) (c : Instr) (set : Bool),
      (c = .armRules ∧ set = true ∧ headRequest s = some (tk, rest, .armRules mask)
        ∨ c = .disarmRules ∧ set = false ∧ headRequest s = some (tk, rest, .disarmRules mask)) →
      ∃ armed shown : BitVec 64,
        (∀ i : Fin 64, armed.getLsbD i =
          if mask.getLsbD i = true ∧ i.val < s.trigger.rules.length then set else s.trigger.armed.getLsbD i)
        ∧ (∀ i : Fin 64, shown.getLsbD i = (armed.getLsbD i && decide (i.val < s.trigger.rules.length)))
        ∧ Answers c s tk.slot .ok (toBytes 8 shown.toNat) { s with trigger := { s.trigger with armed := armed } })
    ∧ ∀ mask : BitVec 8, headRequest s = some (tk, rest, .reopen mask) →
      ∃ (closed : BitVec 8) (lines : Nat) (groups : Vector (Option Winner) 8),
        (∀ g : Fin 8, groups[g] = if mask.getLsbD g then none else s.trigger.groups[g])
        ∧ (∀ g : Fin 8, closed.getLsbD g = (mask.getLsbD g && (s.trigger.groups[g]).isSome))
        ∧ (∀ g : Fin 8, lines / 16 ^ g.val % 16 = match s.trigger.groups[g] with
            | some w => if mask.getLsbD g then w.line.val else 0
            | none => 0)
        ∧ Answers .reopen s tk.slot .ok (toBytes 1 closed.toNat ++ toBytes 4 lines)
            { s with trigger := { s.trigger with groups := groups } }

/-- PIN and UNPIN (R148, R149): the five judgements of PIN in their order, and the five rows of UNPIN. -/
def Obligations.PinAndUnpinJudged : Prop :=
  ∀ (s : State) (tk : Taken) (rest : List Taken) (a : Word) (f : ClipFormat), awaiting tk.slot s → cacheSound s →
    (headRequest s = some (tk, rest, .pin a f) →
      (a.toNat % 4 ≠ 0 → Answers .pin s tk.slot .badArg [] s)
      ∧ (a.toNat % 4 = 0 → ∀ x ∈ s.cache, x.address = a →
        (∀ o, x.state = .pending o true → Answers .pin s tk.slot .busy [] s)
        ∧ (∀ o, x.state = .pending o false → Answers .pin s tk.slot .already ([0] ++ toBytes 1 x.format.code ++ [0]) s)
        ∧ (∀ fs, x.state = .present fs → Answers .pin s tk.slot .already ([0] ++ toBytes 1 x.format.code ++ [1]) s))
      ∧ (a.toNat % 4 = 0 → (∀ x ∈ s.cache, x.address ≠ a) →
        (s.cache.length = 16 → Answers .pin s tk.slot .cacheFull [16] s)
        ∧ (s.cache.length < 16 → ∃ t, exec .pin s = .next t
          ∧ (tk.slot ∉ rest.map Taken.slot → awaiting tk.slot t)
          ∧ slatePlus tk.slot (readJob (.pin tk.slot) a.toNat (2048 * f.size)) { s with
              cache := s.cache ++ [{ address := a, format := f, state := .pending tk.slot false }] } t)))
    ∧ (headRequest s = some (tk, rest, .unpin a f) →
      ((∀ x ∈ s.cache, x.address ≠ a) → Answers .unpin s tk.slot .badArg [] s)
      ∧ ∀ x ∈ s.cache, x.address = a →
        (∀ fs, x.state = .present fs → Answers .unpin s tk.slot .ok [0, 0, 1]
          { s with cache := s.cache.filter fun y => y.address != a })
        ∧ (∀ o, x.state = .pending o true → Answers .unpin s tk.slot .already [] s)
        ∧ (∀ o, x.state = .pending o false → pinInFlight o s = true → ∃ t, exec .unpin s = .next t
          ∧ resultOf tk.slot t = some (.ok, [0, 0, 0]) ∧ { x with state := .pending o true } ∈ t.cache
          ∧ (∀ y ∈ s.cache, y ≠ x → y ∈ t.cache) ∧ t.cache.length = s.cache.length
          ∧ slateBut tk.slot { s with cache := t.cache } t)
        ∧ (∀ o, x.state = .pending o false → pinInFlight o s = false → o ≠ tk.slot → ∃ t, exec .unpin s = .next t
          ∧ resultOf tk.slot t = some (.ok, [0, 0, 0]) ∧ (awaiting o s → resultOf o t = some (.abandoned, []))
          ∧ t.cache = s.cache.filter (fun y => y.address != a) ∧ (∀ j ∈ t.port.pin, j.kind ≠ .pin o)
          ∧ { t with port := s.port, voices := s.voices, slate := s.slate, cache := s.cache } = s ∧ voicesAlike s t))

/-- TRIM (R163, whole): the clamped code becomes the bus's trim, with the bus and the trims before and after in the
detail, in every hold state and with a switch in progress; a bus of 4 or more gives BAD_ARG; a commit puts the scene's
trim in force whatever the trim before it. -/
def Obligations.TrimResult : Prop :=
  ∀ (s : State) (tk : Taken) (rest : List Taken) (b : Nat) (l : Int),
    headRequest s = some (tk, rest, .trim b l) → awaiting tk.slot s →
    (∀ (h : b < 4) (old new : Int), old = s.mix.buses[b].trim → new = max (-256) (min 16 l) →
      Answers .trim s tk.slot .ok (toBytes 1 b ++ [0] ++ signedBytes 2 old ++ signedBytes 2 new)
        { s with mix := { s.mix with buses := s.mix.buses.set b { s.mix.buses[b] with trim := new } } })
    ∧ (4 ≤ b → Answers .trim s tk.slot .badArg [] s)
    ∧ ∀ (w : Switch) (r : SceneRecord) (rules : List Rule) (u : State) (c : Fin 4),
        (commitScene w r rules u).mix.buses[c].trim = r.trims[c]

/-- HOLD and RESUME (R99, R116, R150, R167 to R169): the tests of HOLD in their order; LIGHT only changes the hold, with
HOLD_ENTERED; DEEP also empties the schedule and the head cache and silences or withdraws every voice, those whose entry
into SOUNDING is still to come behind it (log entry 15), with HOLD_ENTERED, the CANCELLED reports in list order and the
ENDED reports of the withdrawn claims, the follow-ons of cues released in the same event among them, in ascending voice
number, the order that log entries 5 and 46 choose; RESUME leaves the hold, with HOLD_RELEASED. The reports of LIGHT and
of RESUME are written before the result is (log entry 63), and their null selector is 0, the model's choice (log entry
36). -/
def Obligations.HoldJudged : Prop :=
  ∀ (s : State) (tk : Taken) (rest : List Taken) (d : List Byte), awaiting tk.slot s →
    (∀ (depth : Depth) (line : Option Nat), headRequest s = some (tk, rest, .hold depth line) →
      (∀ n, line = some n → 16 ≤ n →
        Answers .hold s tk.slot .badArg (toBytes 1 s.run.hold.code ++ toBytes 1 s.run.hold.code ++ [0, 0]) s)
      ∧ (∀ release : HoldRelease, (line = none ∧ release = .request ∨ ∃ n : Fin 16, line = some n.val ∧ release = .line n) →
        d = toBytes 1 s.run.hold.code ++ toBytes 1 s.run.hold.code → ∀ entered : List Byte → Report,
        (∀ x, entered x = { aboutNone .holdEntered Selector.null (x ++ (match release with
          | .request => [0, 0]
          | .line n => [1] ++ toBytes 1 n.val)) s with tag := slotTag tk.bytes }) →
        (s.run.hold = .deep ∨ depth = .light ∧ s.run.hold = .light → Answers .hold s tk.slot .already (d ++ [0, 0]) s)
        ∧ (depth = .deep → s.run.hold ≠ .deep → anyPinInFlight s = true → s.run.switch = none →
          Answers .hold s tk.slot .busy (d ++ [0, 1]) { s with free := s.free + 1 })
        ∧ (depth = .deep → s.run.hold ≠ .deep → anyPinInFlight s = false → s.run.switch ≠ none →
          Answers .hold s tk.slot .busy (d ++ [0, 2]) { s with free := s.free + 1 })
        ∧ (∀ n, release = .line n → s.trigger.lines[n].level = true → s.run.hold ≠ .deep →
          (depth = .light ∧ s.run.hold = .none ∨ depth = .deep ∧ anyPinInFlight s = false ∧ s.run.switch = none) →
          Answers .hold s tk.slot .notEntered (d ++ toBytes 1 n.val ++ [0]) s)
        ∧ (depth = .light → s.run.hold = .none → (∀ n, release = .line n → s.trigger.lines[n].level = false) →
          AnswersReporting .hold s tk.slot .ok [0, 1, 0, 0] (entered [0, 1])
            { s with run := { s.run with hold := .light, release := some release } })
        ∧ (depth = .deep → s.run.hold ≠ .deep → anyPinInFlight s = false → s.run.switch = none →
          (∀ n, release = .line n → s.trigger.lines[n].level = false) →
          (∀ x ∈ s.cache, ∀ b, x.state ≠ .pending tk.slot b) → ∃ t x u, exec .hold s = .next t
            ∧ u = completeEntries (fun _ => true) x ∧ x.voices = s.voices ∧ x.startOrder = s.startOrder
            ∧ x.clock = s.clock ∧ x.regs.part = s.regs.part
            ∧ ((∀ v p, (s.voice v).content = .sounding p → p.entry = none) → u.voices = s.voices)
            ∧ resultOf tk.slot t = some (.ok, toBytes 1 s.run.hold.code ++ [2, 0, 0])
            ∧ t.run = { s.run with hold := .deep, release := some release }
            ∧ t.schedule.entries = [] ∧ t.cache = [] ∧ t.port.pin = []
            ∧ (∀ told : List Report, told = entered (toBytes 1 s.run.hold.code ++ [2]) :: s.schedule.entries.map (fun b =>
                { aboutNone .cancelled b.cue.entry ([1, 0, 0, 0] ++ toBytes 4 b.target.toNat) s with tag := b.tag }) →
              reportsInOrder told s t ∧ ((∀ v p, (s.voice v).content = .sounding p → p.entry = none) →
                reportsInOrder (told ++ (List.finRange 24).filterMap fun v => (s.voice v).content.incoming.map fun i =>
                  aboutClaim .ended v i.claim (toBytes 2 i.claim.number.toNat ++ [4, 0]) s) s t))
            ∧ (∀ v, (t.voice v).content =
                (u.voice v).content.afterRelease .held (fun p => max p.sound.fadeOut 96) false
                ∧ (t.voice v).claimNo = (u.voice v).numberAfterWithdraw)
            ∧ t.mem = s.mem ∧ t.clock = s.clock ∧ t.resolver.vars = s.resolver.vars
            ∧ t.resolver.current = s.resolver.current ∧ t.resolver.lines = s.resolver.lines ∧ t.tally = s.tally
            ∧ t.mix.buses = s.mix.buses)))
    ∧ (headRequest s = some (tk, rest, .resume) →
      (s.run.hold = .none → Answers .resume s tk.slot .badState [] s)
      ∧ (s.run.hold ≠ .none → AnswersReporting .resume s tk.slot .ok (toBytes 1 s.run.hold.code)
          { aboutNone .holdReleased Selector.null (toBytes 1 s.run.hold.code ++ [0, 0]) s with tag := slotTag tk.bytes }
          { s with run := { s.run with hold := .none, release := none } }))

/-- SCENE (R172): a switch in progress gives BUSY, an index beyond the scene count LIMIT; otherwise the switch record is
made in LOADING and the scene record read is at the port, the slot waiting. -/
def Obligations.SceneJudged : Prop :=
  ∀ (s : State) (tk : Taken) (rest : List Taken) (i : Nat),
    headRequest s = some (tk, rest, .scene i) → awaiting tk.slot s →
    (s.run.switch ≠ none → Answers .scene s tk.slot .busy [] s)
    ∧ (s.run.switch = none → (header s).sceneCount ≤ i → Answers .scene s tk.slot .limit [] s)
    ∧ (s.run.switch = none → i < (header s).sceneCount → ∃ t, exec .scene s = .next t
        ∧ (tk.slot ∉ rest.map Taken.slot → awaiting tk.slot t)
        ∧ slatePlus tk.slot (readJob (.sceneRecord i) ((header s).sceneTable + 160 * i) 160) { s with run := { s.run with
            switch := some
              { target := i, previous := s.run.current, slot := some tk.slot, tag := slotTag tk.bytes
                phase := .loading, rules := 0 }
            staging := none } } t)

/-- LINES_WRITE, LINES_MODIFY and the sensed levels (R82, R101, R176 to R178): a line is sensed active when equipment
pulls it, or, with the drivers enabled, when the latch or a voice that has entered SOUNDING demands it (log entries 15
and 62). LINES_WRITE puts the latch flags in the mask to the values; LINES_MODIFY makes the latch the sensed levels with
the set mask made 1, then the clear mask made 0. Both set the driver enable, and the detail holds the latch before and
after and the sensed levels, which are those before the request acts, the model's reading (log entry 35). -/
def Obligations.LinesResults : Prop :=
  (∀ (s : State) (tk : Taken) (rest : List Taken) (mask values : BitVec 16),
    headRequest s = some (tk, rest, .linesWrite mask values) → awaiting tk.slot s →
    ∃ latch : BitVec 16,
      (∀ i : Fin 16, latch.getLsbD i = if mask.getLsbD i then values.getLsbD i else s.tally.latch.getLsbD i)
      ∧ Answers .linesWrite s tk.slot .ok
          (toBytes 2 s.tally.latch.toNat ++ toBytes 2 latch.toNat ++ toBytes 2 (sensed s).toNat)
          { s with tally := { s.tally with latch := latch, enabled := true } })
  ∧ (∀ (s : State) (i : Fin 16), (sensed s).getLsbD i = true ↔
    s.tally.pulled.getLsbD i = true ∨ s.tally.enabled = true ∧ (s.tally.latch.getLsbD i = true
      ∨ ∃ v p, (s.voice v).content = .sounding p ∧ p.entry = none ∧ p.sound.tally = some i))
  ∧ ∀ (s : State) (tk : Taken) (rest : List Taken) (set clear : BitVec 16),
    headRequest s = some (tk, rest, .linesModify set clear) → awaiting tk.slot s →
    ∃ latch : BitVec 16,
      (∀ i : Fin 16, latch.getLsbD i = (!clear.getLsbD i && (set.getLsbD i || (sensed s).getLsbD i)))
      ∧ Answers .linesModify s tk.slot .ok
          (toBytes 2 s.tally.latch.toNat ++ toBytes 2 latch.toNat ++ toBytes 2 (sensed s).toNat)
          { s with tally := { s.tally with latch := latch, enabled := true } }

/-- SET_RATE (R32): with a voice that is not IDLE or an entry booked it gives BUSY; otherwise the rate is in force from
this sample as the epoch, the lock state is SEEKING with both runs 0, and the detail holds the rate and lock before.
Where the lock state changes, a REF_STATE report with cause RATE_CHANGE arises, written before the slot's result is (log
entry 60); its null selector is 0, the model's choice (log entry 36). -/
def Obligations.SetRateJudged : Prop :=
  ∀ (s : State) (tk : Taken) (rest : List Taken) (code : Fin 7),
    headRequest s = some (tk, rest, .setRate code.val) → awaiting tk.slot s →
    ((∃ v, (s.voice v).content ≠ .idle) ∨ s.schedule.entries ≠ [] → Answers .setRate s tk.slot .busy [] s)
    ∧ ((∀ v, (s.voice v).content = .idle) → s.schedule.entries = [] → ∀ (u : State) (d : List Byte),
      d = toBytes 1 s.clock.rate.val ++ toBytes 1 s.clock.lock.code →
      u = { s with clock := { s.clock with
        rate := code, epoch := s.clock.showTime, k := 0, lock := .seeking, stray := 0, missing := 0
        held := false, lastHeld := false, lastOpen := false } } →
      (s.clock.lock = .seeking → Answers .setRate s tk.slot .ok d u)
      ∧ (s.clock.lock ≠ .seeking → AnswersReporting .setRate s tk.slot .ok d
        (aboutNone .refState Selector.null (toBytes 1 s.clock.lock.code ++ [0, 5]) s) u))

/-- ACK_FAULT (R184): the record and the further-fault count are cleared, the record write, 16 zero bytes (log entry
39), is at the port, and the detail holds what the record was; the FAULT flag stays. -/
def Obligations.AckFaultClears : Prop :=
  ∀ (s : State) (tk : Taken) (rest : List Taken),
    headRequest s = some (tk, rest, .ackFault) → awaiting tk.slot s →
    ∃ t, exec .ackFault s = .next t
      ∧ (∀ r, s.fault.record = some r → resultOf tk.slot t =
          some (.ok, toBytes 1 1 ++ toBytes 1 r.source.code ++ toBytes 1 r.kind.code ++ toBytes 1 s.fault.further
            ++ toBytes 4 r.address.toNat))
      ∧ (s.fault.record = none → ∃ d, resultOf tk.slot t = some (.ok, d) ∧ d.head? = some 0)
      ∧ slatePlus tk.slot (writeJob .faultRecord ((header s).base + 128) (List.replicate 16 0))
          { s with fault := { record := none, further := 0 } } t

end
end

