-- ==== Sys2Proof/Laws/State.lean ====
section
/-! SUPPORT. One lemma per field for each named update of the state, true by `rfl`, so that no later proof unfolds a record
update. -/

namespace Sys2Proof.Machine

/-! ### setVoice -/

@[simp] theorem setVoice_clock (v : Fin 24) (x : Voice) (s : State) : (setVoice v x s).clock = s.clock := rfl
@[simp] theorem setVoice_regs (v : Fin 24) (x : Voice) (s : State) : (setVoice v x s).regs = s.regs := rfl
@[simp] theorem setVoice_slate (v : Fin 24) (x : Voice) (s : State) : (setVoice v x s).slate = s.slate := rfl
@[simp] theorem setVoice_resolver (v : Fin 24) (x : Voice) (s : State) : (setVoice v x s).resolver = s.resolver := rfl
@[simp] theorem setVoice_voices (v : Fin 24) (x : Voice) (s : State) : (setVoice v x s).voices = s.voices.set v x := rfl
@[simp] theorem setVoice_startOrder (v : Fin 24) (x : Voice) (s : State) : (setVoice v x s).startOrder = s.startOrder := rfl
@[simp] theorem setVoice_schedule (v : Fin 24) (x : Voice) (s : State) : (setVoice v x s).schedule = s.schedule := rfl
@[simp] theorem setVoice_trigger (v : Fin 24) (x : Voice) (s : State) : (setVoice v x s).trigger = s.trigger := rfl
@[simp] theorem setVoice_port (v : Fin 24) (x : Voice) (s : State) : (setVoice v x s).port = s.port := rfl
@[simp] theorem setVoice_cache (v : Fin 24) (x : Voice) (s : State) : (setVoice v x s).cache = s.cache := rfl
@[simp] theorem setVoice_mix (v : Fin 24) (x : Voice) (s : State) : (setVoice v x s).mix = s.mix := rfl
@[simp] theorem setVoice_run (v : Fin 24) (x : Voice) (s : State) : (setVoice v x s).run = s.run := rfl
@[simp] theorem setVoice_tally (v : Fin 24) (x : Voice) (s : State) : (setVoice v x s).tally = s.tally := rfl
@[simp] theorem setVoice_reports (v : Fin 24) (x : Voice) (s : State) : (setVoice v x s).reports = s.reports := rfl
@[simp] theorem setVoice_fault (v : Fin 24) (x : Voice) (s : State) : (setVoice v x s).fault = s.fault := rfl
@[simp] theorem setVoice_mem (v : Fin 24) (x : Voice) (s : State) : (setVoice v x s).mem = s.mem := rfl
@[simp] theorem setVoice_free (v : Fin 24) (x : Voice) (s : State) : (setVoice v x s).free = s.free := rfl
@[simp] theorem setVoice_pending (v : Fin 24) (x : Voice) (s : State) : (setVoice v x s).pending = s.pending := rfl

/-! ### setContent -/

@[simp] theorem setContent_clock (v : Fin 24) (c : Content) (s : State) : (setContent v c s).clock = s.clock := rfl
@[simp] theorem setContent_regs (v : Fin 24) (c : Content) (s : State) : (setContent v c s).regs = s.regs := rfl
@[simp] theorem setContent_slate (v : Fin 24) (c : Content) (s : State) : (setContent v c s).slate = s.slate := rfl
@[simp] theorem setContent_resolver (v : Fin 24) (c : Content) (s : State) : (setContent v c s).resolver = s.resolver := rfl
@[simp] theorem setContent_voices (v : Fin 24) (c : Content) (s : State) : (setContent v c s).voices = s.voices.set v { s.voices[v] with content := c } := rfl
@[simp] theorem setContent_startOrder (v : Fin 24) (c : Content) (s : State) : (setContent v c s).startOrder = s.startOrder := rfl
@[simp] theorem setContent_schedule (v : Fin 24) (c : Content) (s : State) : (setContent v c s).schedule = s.schedule := rfl
@[simp] theorem setContent_trigger (v : Fin 24) (c : Content) (s : State) : (setContent v c s).trigger = s.trigger := rfl
@[simp] theorem setContent_port (v : Fin 24) (c : Content) (s : State) : (setContent v c s).port = s.port := rfl
@[simp] theorem setContent_cache (v : Fin 24) (c : Content) (s : State) : (setContent v c s).cache = s.cache := rfl
@[simp] theorem setContent_mix (v : Fin 24) (c : Content) (s : State) : (setContent v c s).mix = s.mix := rfl
@[simp] theorem setContent_run (v : Fin 24) (c : Content) (s : State) : (setContent v c s).run = s.run := rfl
@[simp] theorem setContent_tally (v : Fin 24) (c : Content) (s : State) : (setContent v c s).tally = s.tally := rfl
@[simp] theorem setContent_reports (v : Fin 24) (c : Content) (s : State) : (setContent v c s).reports = s.reports := rfl
@[simp] theorem setContent_fault (v : Fin 24) (c : Content) (s : State) : (setContent v c s).fault = s.fault := rfl
@[simp] theorem setContent_mem (v : Fin 24) (c : Content) (s : State) : (setContent v c s).mem = s.mem := rfl
@[simp] theorem setContent_free (v : Fin 24) (c : Content) (s : State) : (setContent v c s).free = s.free := rfl
@[simp] theorem setContent_pending (v : Fin 24) (c : Content) (s : State) : (setContent v c s).pending = s.pending := rfl

/-! ### nextFree -/

@[simp] theorem nextFree_clock (s : State) : (nextFree s).clock = s.clock := rfl
@[simp] theorem nextFree_regs (s : State) : (nextFree s).regs = s.regs := rfl
@[simp] theorem nextFree_slate (s : State) : (nextFree s).slate = s.slate := rfl
@[simp] theorem nextFree_resolver (s : State) : (nextFree s).resolver = s.resolver := rfl
@[simp] theorem nextFree_voices (s : State) : (nextFree s).voices = s.voices := rfl
@[simp] theorem nextFree_startOrder (s : State) : (nextFree s).startOrder = s.startOrder := rfl
@[simp] theorem nextFree_schedule (s : State) : (nextFree s).schedule = s.schedule := rfl
@[simp] theorem nextFree_trigger (s : State) : (nextFree s).trigger = s.trigger := rfl
@[simp] theorem nextFree_port (s : State) : (nextFree s).port = s.port := rfl
@[simp] theorem nextFree_cache (s : State) : (nextFree s).cache = s.cache := rfl
@[simp] theorem nextFree_mix (s : State) : (nextFree s).mix = s.mix := rfl
@[simp] theorem nextFree_run (s : State) : (nextFree s).run = s.run := rfl
@[simp] theorem nextFree_tally (s : State) : (nextFree s).tally = s.tally := rfl
@[simp] theorem nextFree_reports (s : State) : (nextFree s).reports = s.reports := rfl
@[simp] theorem nextFree_fault (s : State) : (nextFree s).fault = s.fault := rfl
@[simp] theorem nextFree_mem (s : State) : (nextFree s).mem = s.mem := rfl
@[simp] theorem nextFree_free (s : State) : (nextFree s).free = s.free + 1 := rfl
@[simp] theorem nextFree_pending (s : State) : (nextFree s).pending = s.pending := rfl

/-! ### setFlags -/

@[simp] theorem setFlags_clock (f : BitVec 3) (s : State) : (setFlags f s).clock = s.clock := rfl
@[simp] theorem setFlags_regs (f : BitVec 3) (s : State) : (setFlags f s).regs = { s.regs with flags := s.regs.flags ||| f } := rfl
@[simp] theorem setFlags_slate (f : BitVec 3) (s : State) : (setFlags f s).slate = s.slate := rfl
@[simp] theorem setFlags_resolver (f : BitVec 3) (s : State) : (setFlags f s).resolver = s.resolver := rfl
@[simp] theorem setFlags_voices (f : BitVec 3) (s : State) : (setFlags f s).voices = s.voices := rfl
@[simp] theorem setFlags_startOrder (f : BitVec 3) (s : State) : (setFlags f s).startOrder = s.startOrder := rfl
@[simp] theorem setFlags_schedule (f : BitVec 3) (s : State) : (setFlags f s).schedule = s.schedule := rfl
@[simp] theorem setFlags_trigger (f : BitVec 3) (s : State) : (setFlags f s).trigger = s.trigger := rfl
@[simp] theorem setFlags_port (f : BitVec 3) (s : State) : (setFlags f s).port = s.port := rfl
@[simp] theorem setFlags_cache (f : BitVec 3) (s : State) : (setFlags f s).cache = s.cache := rfl
@[simp] theorem setFlags_mix (f : BitVec 3) (s : State) : (setFlags f s).mix = s.mix := rfl
@[simp] theorem setFlags_run (f : BitVec 3) (s : State) : (setFlags f s).run = s.run := rfl
@[simp] theorem setFlags_tally (f : BitVec 3) (s : State) : (setFlags f s).tally = s.tally := rfl
@[simp] theorem setFlags_reports (f : BitVec 3) (s : State) : (setFlags f s).reports = s.reports := rfl
@[simp] theorem setFlags_fault (f : BitVec 3) (s : State) : (setFlags f s).fault = s.fault := rfl
@[simp] theorem setFlags_mem (f : BitVec 3) (s : State) : (setFlags f s).mem = s.mem := rfl
@[simp] theorem setFlags_free (f : BitVec 3) (s : State) : (setFlags f s).free = s.free := rfl
@[simp] theorem setFlags_pending (f : BitVec 3) (s : State) : (setFlags f s).pending = s.pending := rfl

/-! ### place -/

@[simp] theorem place_clock (j : Job) (s : State) : (place j s).clock = s.clock := rfl
@[simp] theorem place_regs (j : Job) (s : State) : (place j s).regs = s.regs := rfl
@[simp] theorem place_slate (j : Job) (s : State) : (place j s).slate = s.slate := rfl
@[simp] theorem place_resolver (j : Job) (s : State) : (place j s).resolver = s.resolver := rfl
@[simp] theorem place_voices (j : Job) (s : State) : (place j s).voices = s.voices := rfl
@[simp] theorem place_startOrder (j : Job) (s : State) : (place j s).startOrder = s.startOrder := rfl
@[simp] theorem place_schedule (j : Job) (s : State) : (place j s).schedule = s.schedule := rfl
@[simp] theorem place_trigger (j : Job) (s : State) : (place j s).trigger = s.trigger := rfl
@[simp] theorem place_port (j : Job) (s : State) : (place j s).port = s.port.put j := rfl
@[simp] theorem place_cache (j : Job) (s : State) : (place j s).cache = s.cache := rfl
@[simp] theorem place_mix (j : Job) (s : State) : (place j s).mix = s.mix := rfl
@[simp] theorem place_run (j : Job) (s : State) : (place j s).run = s.run := rfl
@[simp] theorem place_tally (j : Job) (s : State) : (place j s).tally = s.tally := rfl
@[simp] theorem place_reports (j : Job) (s : State) : (place j s).reports = s.reports := rfl
@[simp] theorem place_fault (j : Job) (s : State) : (place j s).fault = s.fault := rfl
@[simp] theorem place_mem (j : Job) (s : State) : (place j s).mem = s.mem := rfl
@[simp] theorem place_free (j : Job) (s : State) : (place j s).free = s.free := rfl
@[simp] theorem place_pending (j : Job) (s : State) : (place j s).pending = s.pending := rfl

/-! ### launch -/

@[simp] theorem launch_clock (j : Job) (s : State) : (launch j s).clock = s.clock := rfl
@[simp] theorem launch_regs (j : Job) (s : State) : (launch j s).regs = s.regs := rfl
@[simp] theorem launch_slate (j : Job) (s : State) : (launch j s).slate = s.slate := rfl
@[simp] theorem launch_resolver (j : Job) (s : State) : (launch j s).resolver = s.resolver := rfl
@[simp] theorem launch_voices (j : Job) (s : State) : (launch j s).voices = s.voices := rfl
@[simp] theorem launch_startOrder (j : Job) (s : State) : (launch j s).startOrder = s.startOrder := rfl
@[simp] theorem launch_schedule (j : Job) (s : State) : (launch j s).schedule = s.schedule := rfl
@[simp] theorem launch_trigger (j : Job) (s : State) : (launch j s).trigger = s.trigger := rfl
@[simp] theorem launch_port (j : Job) (s : State) : (launch j s).port = { s.port with inFlight := some j } := rfl
@[simp] theorem launch_cache (j : Job) (s : State) : (launch j s).cache = s.cache := rfl
@[simp] theorem launch_mix (j : Job) (s : State) : (launch j s).mix = s.mix := rfl
@[simp] theorem launch_run (j : Job) (s : State) : (launch j s).run = s.run := rfl
@[simp] theorem launch_tally (j : Job) (s : State) : (launch j s).tally = s.tally := rfl
@[simp] theorem launch_reports (j : Job) (s : State) : (launch j s).reports = s.reports := rfl
@[simp] theorem launch_fault (j : Job) (s : State) : (launch j s).fault = s.fault := rfl
@[simp] theorem launch_mem (j : Job) (s : State) : (launch j s).mem = s.mem := rfl
@[simp] theorem launch_free (j : Job) (s : State) : (launch j s).free = s.free := rfl
@[simp] theorem launch_pending (j : Job) (s : State) : (launch j s).pending = s.pending := rfl

/-! ### popHead -/

@[simp] theorem popHead_clock (s : State) : (popHead s).clock = s.clock := rfl
@[simp] theorem popHead_regs (s : State) : (popHead s).regs = s.regs := rfl
@[simp] theorem popHead_slate (s : State) : (popHead s).slate = { s.slate with queue := s.slate.queue.tail } := rfl
@[simp] theorem popHead_resolver (s : State) : (popHead s).resolver = s.resolver := rfl
@[simp] theorem popHead_voices (s : State) : (popHead s).voices = s.voices := rfl
@[simp] theorem popHead_startOrder (s : State) : (popHead s).startOrder = s.startOrder := rfl
@[simp] theorem popHead_schedule (s : State) : (popHead s).schedule = s.schedule := rfl
@[simp] theorem popHead_trigger (s : State) : (popHead s).trigger = s.trigger := rfl
@[simp] theorem popHead_port (s : State) : (popHead s).port = s.port := rfl
@[simp] theorem popHead_cache (s : State) : (popHead s).cache = s.cache := rfl
@[simp] theorem popHead_mix (s : State) : (popHead s).mix = s.mix := rfl
@[simp] theorem popHead_run (s : State) : (popHead s).run = s.run := rfl
@[simp] theorem popHead_tally (s : State) : (popHead s).tally = s.tally := rfl
@[simp] theorem popHead_reports (s : State) : (popHead s).reports = s.reports := rfl
@[simp] theorem popHead_fault (s : State) : (popHead s).fault = s.fault := rfl
@[simp] theorem popHead_mem (s : State) : (popHead s).mem = s.mem := rfl
@[simp] theorem popHead_free (s : State) : (popHead s).free = s.free := rfl
@[simp] theorem popHead_pending (s : State) : (popHead s).pending = s.pending := rfl

/-! ### setDuck -/

@[simp] theorem setDuck_clock (g : Fin 4) (d : Duck) (s : State) : (setDuck g d s).clock = s.clock := rfl
@[simp] theorem setDuck_regs (g : Fin 4) (d : Duck) (s : State) : (setDuck g d s).regs = s.regs := rfl
@[simp] theorem setDuck_slate (g : Fin 4) (d : Duck) (s : State) : (setDuck g d s).slate = s.slate := rfl
@[simp] theorem setDuck_resolver (g : Fin 4) (d : Duck) (s : State) : (setDuck g d s).resolver = s.resolver := rfl
@[simp] theorem setDuck_voices (g : Fin 4) (d : Duck) (s : State) : (setDuck g d s).voices = s.voices := rfl
@[simp] theorem setDuck_startOrder (g : Fin 4) (d : Duck) (s : State) : (setDuck g d s).startOrder = s.startOrder := rfl
@[simp] theorem setDuck_schedule (g : Fin 4) (d : Duck) (s : State) : (setDuck g d s).schedule = s.schedule := rfl
@[simp] theorem setDuck_trigger (g : Fin 4) (d : Duck) (s : State) : (setDuck g d s).trigger = s.trigger := rfl
@[simp] theorem setDuck_port (g : Fin 4) (d : Duck) (s : State) : (setDuck g d s).port = s.port := rfl
@[simp] theorem setDuck_cache (g : Fin 4) (d : Duck) (s : State) : (setDuck g d s).cache = s.cache := rfl
@[simp] theorem setDuck_mix (g : Fin 4) (d : Duck) (s : State) : (setDuck g d s).mix = { s.mix with ducks := s.mix.ducks.set g d } := rfl
@[simp] theorem setDuck_run (g : Fin 4) (d : Duck) (s : State) : (setDuck g d s).run = s.run := rfl
@[simp] theorem setDuck_tally (g : Fin 4) (d : Duck) (s : State) : (setDuck g d s).tally = s.tally := rfl
@[simp] theorem setDuck_reports (g : Fin 4) (d : Duck) (s : State) : (setDuck g d s).reports = s.reports := rfl
@[simp] theorem setDuck_fault (g : Fin 4) (d : Duck) (s : State) : (setDuck g d s).fault = s.fault := rfl
@[simp] theorem setDuck_mem (g : Fin 4) (d : Duck) (s : State) : (setDuck g d s).mem = s.mem := rfl
@[simp] theorem setDuck_free (g : Fin 4) (d : Duck) (s : State) : (setDuck g d s).free = s.free := rfl
@[simp] theorem setDuck_pending (g : Fin 4) (d : Duck) (s : State) : (setDuck g d s).pending = s.pending := rfl

/-! ### mapDucks -/

@[simp] theorem mapDucks_clock (f : Fin 4 → Duck → Duck) (s : State) : (mapDucks f s).clock = s.clock := rfl
@[simp] theorem mapDucks_regs (f : Fin 4 → Duck → Duck) (s : State) : (mapDucks f s).regs = s.regs := rfl
@[simp] theorem mapDucks_slate (f : Fin 4 → Duck → Duck) (s : State) : (mapDucks f s).slate = s.slate := rfl
@[simp] theorem mapDucks_resolver (f : Fin 4 → Duck → Duck) (s : State) : (mapDucks f s).resolver = s.resolver := rfl
@[simp] theorem mapDucks_voices (f : Fin 4 → Duck → Duck) (s : State) : (mapDucks f s).voices = s.voices := rfl
@[simp] theorem mapDucks_startOrder (f : Fin 4 → Duck → Duck) (s : State) : (mapDucks f s).startOrder = s.startOrder := rfl
@[simp] theorem mapDucks_schedule (f : Fin 4 → Duck → Duck) (s : State) : (mapDucks f s).schedule = s.schedule := rfl
@[simp] theorem mapDucks_trigger (f : Fin 4 → Duck → Duck) (s : State) : (mapDucks f s).trigger = s.trigger := rfl
@[simp] theorem mapDucks_port (f : Fin 4 → Duck → Duck) (s : State) : (mapDucks f s).port = s.port := rfl
@[simp] theorem mapDucks_cache (f : Fin 4 → Duck → Duck) (s : State) : (mapDucks f s).cache = s.cache := rfl
@[simp] theorem mapDucks_mix (f : Fin 4 → Duck → Duck) (s : State) : (mapDucks f s).mix = { s.mix with ducks := Vector.ofFn (fun g => f g s.mix.ducks[g]) } := rfl
@[simp] theorem mapDucks_run (f : Fin 4 → Duck → Duck) (s : State) : (mapDucks f s).run = s.run := rfl
@[simp] theorem mapDucks_tally (f : Fin 4 → Duck → Duck) (s : State) : (mapDucks f s).tally = s.tally := rfl
@[simp] theorem mapDucks_reports (f : Fin 4 → Duck → Duck) (s : State) : (mapDucks f s).reports = s.reports := rfl
@[simp] theorem mapDucks_fault (f : Fin 4 → Duck → Duck) (s : State) : (mapDucks f s).fault = s.fault := rfl
@[simp] theorem mapDucks_mem (f : Fin 4 → Duck → Duck) (s : State) : (mapDucks f s).mem = s.mem := rfl
@[simp] theorem mapDucks_free (f : Fin 4 → Duck → Duck) (s : State) : (mapDucks f s).free = s.free := rfl
@[simp] theorem mapDucks_pending (f : Fin 4 → Duck → Duck) (s : State) : (mapDucks f s).pending = s.pending := rfl

/-! ### leaveOrder -/

@[simp] theorem leaveOrder_clock (v : Fin 24) (s : State) : (leaveOrder v s).clock = s.clock := rfl
@[simp] theorem leaveOrder_regs (v : Fin 24) (s : State) : (leaveOrder v s).regs = s.regs := rfl
@[simp] theorem leaveOrder_slate (v : Fin 24) (s : State) : (leaveOrder v s).slate = s.slate := rfl
@[simp] theorem leaveOrder_resolver (v : Fin 24) (s : State) : (leaveOrder v s).resolver = s.resolver := rfl
@[simp] theorem leaveOrder_voices (v : Fin 24) (s : State) : (leaveOrder v s).voices = s.voices := rfl
@[simp] theorem leaveOrder_startOrder (v : Fin 24) (s : State) : (leaveOrder v s).startOrder = s.startOrder.erase v := rfl
@[simp] theorem leaveOrder_schedule (v : Fin 24) (s : State) : (leaveOrder v s).schedule = s.schedule := rfl
@[simp] theorem leaveOrder_trigger (v : Fin 24) (s : State) : (leaveOrder v s).trigger = s.trigger := rfl
@[simp] theorem leaveOrder_port (v : Fin 24) (s : State) : (leaveOrder v s).port = s.port := rfl
@[simp] theorem leaveOrder_cache (v : Fin 24) (s : State) : (leaveOrder v s).cache = s.cache := rfl
@[simp] theorem leaveOrder_mix (v : Fin 24) (s : State) : (leaveOrder v s).mix = s.mix := rfl
@[simp] theorem leaveOrder_run (v : Fin 24) (s : State) : (leaveOrder v s).run = s.run := rfl
@[simp] theorem leaveOrder_tally (v : Fin 24) (s : State) : (leaveOrder v s).tally = s.tally := rfl
@[simp] theorem leaveOrder_reports (v : Fin 24) (s : State) : (leaveOrder v s).reports = s.reports := rfl
@[simp] theorem leaveOrder_fault (v : Fin 24) (s : State) : (leaveOrder v s).fault = s.fault := rfl
@[simp] theorem leaveOrder_mem (v : Fin 24) (s : State) : (leaveOrder v s).mem = s.mem := rfl
@[simp] theorem leaveOrder_free (v : Fin 24) (s : State) : (leaveOrder v s).free = s.free := rfl
@[simp] theorem leaveOrder_pending (v : Fin 24) (s : State) : (leaveOrder v s).pending = s.pending := rfl

/-! ### setEntries -/

@[simp] theorem setEntries_clock (es : List Entry) (s : State) : (setEntries es s).clock = s.clock := rfl
@[simp] theorem setEntries_regs (es : List Entry) (s : State) : (setEntries es s).regs = s.regs := rfl
@[simp] theorem setEntries_slate (es : List Entry) (s : State) : (setEntries es s).slate = s.slate := rfl
@[simp] theorem setEntries_resolver (es : List Entry) (s : State) : (setEntries es s).resolver = s.resolver := rfl
@[simp] theorem setEntries_voices (es : List Entry) (s : State) : (setEntries es s).voices = s.voices := rfl
@[simp] theorem setEntries_startOrder (es : List Entry) (s : State) : (setEntries es s).startOrder = s.startOrder := rfl
@[simp] theorem setEntries_schedule (es : List Entry) (s : State) : (setEntries es s).schedule = { s.schedule with entries := es } := rfl
@[simp] theorem setEntries_trigger (es : List Entry) (s : State) : (setEntries es s).trigger = s.trigger := rfl
@[simp] theorem setEntries_port (es : List Entry) (s : State) : (setEntries es s).port = s.port := rfl
@[simp] theorem setEntries_cache (es : List Entry) (s : State) : (setEntries es s).cache = s.cache := rfl
@[simp] theorem setEntries_mix (es : List Entry) (s : State) : (setEntries es s).mix = s.mix := rfl
@[simp] theorem setEntries_run (es : List Entry) (s : State) : (setEntries es s).run = s.run := rfl
@[simp] theorem setEntries_tally (es : List Entry) (s : State) : (setEntries es s).tally = s.tally := rfl
@[simp] theorem setEntries_reports (es : List Entry) (s : State) : (setEntries es s).reports = s.reports := rfl
@[simp] theorem setEntries_fault (es : List Entry) (s : State) : (setEntries es s).fault = s.fault := rfl
@[simp] theorem setEntries_mem (es : List Entry) (s : State) : (setEntries es s).mem = s.mem := rfl
@[simp] theorem setEntries_free (es : List Entry) (s : State) : (setEntries es s).free = s.free := rfl
@[simp] theorem setEntries_pending (es : List Entry) (s : State) : (setEntries es s).pending = s.pending := rfl

/-! ### setResolution -/

@[simp] theorem setResolution_clock (r : Option Resolution) (s : State) : (setResolution r s).clock = s.clock := rfl
@[simp] theorem setResolution_regs (r : Option Resolution) (s : State) : (setResolution r s).regs = s.regs := rfl
@[simp] theorem setResolution_slate (r : Option Resolution) (s : State) : (setResolution r s).slate = s.slate := rfl
@[simp] theorem setResolution_resolver (r : Option Resolution) (s : State) : (setResolution r s).resolver = { s.resolver with current := r } := rfl
@[simp] theorem setResolution_voices (r : Option Resolution) (s : State) : (setResolution r s).voices = s.voices := rfl
@[simp] theorem setResolution_startOrder (r : Option Resolution) (s : State) : (setResolution r s).startOrder = s.startOrder := rfl
@[simp] theorem setResolution_schedule (r : Option Resolution) (s : State) : (setResolution r s).schedule = s.schedule := rfl
@[simp] theorem setResolution_trigger (r : Option Resolution) (s : State) : (setResolution r s).trigger = s.trigger := rfl
@[simp] theorem setResolution_port (r : Option Resolution) (s : State) : (setResolution r s).port = s.port := rfl
@[simp] theorem setResolution_cache (r : Option Resolution) (s : State) : (setResolution r s).cache = s.cache := rfl
@[simp] theorem setResolution_mix (r : Option Resolution) (s : State) : (setResolution r s).mix = s.mix := rfl
@[simp] theorem setResolution_run (r : Option Resolution) (s : State) : (setResolution r s).run = s.run := rfl
@[simp] theorem setResolution_tally (r : Option Resolution) (s : State) : (setResolution r s).tally = s.tally := rfl
@[simp] theorem setResolution_reports (r : Option Resolution) (s : State) : (setResolution r s).reports = s.reports := rfl
@[simp] theorem setResolution_fault (r : Option Resolution) (s : State) : (setResolution r s).fault = s.fault := rfl
@[simp] theorem setResolution_mem (r : Option Resolution) (s : State) : (setResolution r s).mem = s.mem := rfl
@[simp] theorem setResolution_free (r : Option Resolution) (s : State) : (setResolution r s).free = s.free := rfl
@[simp] theorem setResolution_pending (r : Option Resolution) (s : State) : (setResolution r s).pending = s.pending := rfl

/-! ### setTrigger -/

@[simp] theorem setTrigger_clock (t : Trigger) (s : State) : (setTrigger t s).clock = s.clock := rfl
@[simp] theorem setTrigger_regs (t : Trigger) (s : State) : (setTrigger t s).regs = s.regs := rfl
@[simp] theorem setTrigger_slate (t : Trigger) (s : State) : (setTrigger t s).slate = s.slate := rfl
@[simp] theorem setTrigger_resolver (t : Trigger) (s : State) : (setTrigger t s).resolver = s.resolver := rfl
@[simp] theorem setTrigger_voices (t : Trigger) (s : State) : (setTrigger t s).voices = s.voices := rfl
@[simp] theorem setTrigger_startOrder (t : Trigger) (s : State) : (setTrigger t s).startOrder = s.startOrder := rfl
@[simp] theorem setTrigger_schedule (t : Trigger) (s : State) : (setTrigger t s).schedule = s.schedule := rfl
@[simp] theorem setTrigger_trigger (t : Trigger) (s : State) : (setTrigger t s).trigger = t := rfl
@[simp] theorem setTrigger_port (t : Trigger) (s : State) : (setTrigger t s).port = s.port := rfl
@[simp] theorem setTrigger_cache (t : Trigger) (s : State) : (setTrigger t s).cache = s.cache := rfl
@[simp] theorem setTrigger_mix (t : Trigger) (s : State) : (setTrigger t s).mix = s.mix := rfl
@[simp] theorem setTrigger_run (t : Trigger) (s : State) : (setTrigger t s).run = s.run := rfl
@[simp] theorem setTrigger_tally (t : Trigger) (s : State) : (setTrigger t s).tally = s.tally := rfl
@[simp] theorem setTrigger_reports (t : Trigger) (s : State) : (setTrigger t s).reports = s.reports := rfl
@[simp] theorem setTrigger_fault (t : Trigger) (s : State) : (setTrigger t s).fault = s.fault := rfl
@[simp] theorem setTrigger_mem (t : Trigger) (s : State) : (setTrigger t s).mem = s.mem := rfl
@[simp] theorem setTrigger_free (t : Trigger) (s : State) : (setTrigger t s).free = s.free := rfl
@[simp] theorem setTrigger_pending (t : Trigger) (s : State) : (setTrigger t s).pending = s.pending := rfl

/-! ### setQueue -/

@[simp] theorem setQueue_clock (q : List Event) (s : State) : (setQueue q s).clock = s.clock := rfl
@[simp] theorem setQueue_regs (q : List Event) (s : State) : (setQueue q s).regs = s.regs := rfl
@[simp] theorem setQueue_slate (q : List Event) (s : State) : (setQueue q s).slate = s.slate := rfl
@[simp] theorem setQueue_resolver (q : List Event) (s : State) : (setQueue q s).resolver = s.resolver := rfl
@[simp] theorem setQueue_voices (q : List Event) (s : State) : (setQueue q s).voices = s.voices := rfl
@[simp] theorem setQueue_startOrder (q : List Event) (s : State) : (setQueue q s).startOrder = s.startOrder := rfl
@[simp] theorem setQueue_schedule (q : List Event) (s : State) : (setQueue q s).schedule = s.schedule := rfl
@[simp] theorem setQueue_trigger (q : List Event) (s : State) : (setQueue q s).trigger = { s.trigger with queue := q } := rfl
@[simp] theorem setQueue_port (q : List Event) (s : State) : (setQueue q s).port = s.port := rfl
@[simp] theorem setQueue_cache (q : List Event) (s : State) : (setQueue q s).cache = s.cache := rfl
@[simp] theorem setQueue_mix (q : List Event) (s : State) : (setQueue q s).mix = s.mix := rfl
@[simp] theorem setQueue_run (q : List Event) (s : State) : (setQueue q s).run = s.run := rfl
@[simp] theorem setQueue_tally (q : List Event) (s : State) : (setQueue q s).tally = s.tally := rfl
@[simp] theorem setQueue_reports (q : List Event) (s : State) : (setQueue q s).reports = s.reports := rfl
@[simp] theorem setQueue_fault (q : List Event) (s : State) : (setQueue q s).fault = s.fault := rfl
@[simp] theorem setQueue_mem (q : List Event) (s : State) : (setQueue q s).mem = s.mem := rfl
@[simp] theorem setQueue_free (q : List Event) (s : State) : (setQueue q s).free = s.free := rfl
@[simp] theorem setQueue_pending (q : List Event) (s : State) : (setQueue q s).pending = s.pending := rfl

/-! ### setHoldLink -/

@[simp] theorem setHoldLink_clock (k : Fin 8) (l : Option (Fin 24 × Half)) (s : State) : (setHoldLink k l s).clock = s.clock := rfl
@[simp] theorem setHoldLink_regs (k : Fin 8) (l : Option (Fin 24 × Half)) (s : State) : (setHoldLink k l s).regs = s.regs := rfl
@[simp] theorem setHoldLink_slate (k : Fin 8) (l : Option (Fin 24 × Half)) (s : State) : (setHoldLink k l s).slate = s.slate := rfl
@[simp] theorem setHoldLink_resolver (k : Fin 8) (l : Option (Fin 24 × Half)) (s : State) : (setHoldLink k l s).resolver = s.resolver := rfl
@[simp] theorem setHoldLink_voices (k : Fin 8) (l : Option (Fin 24 × Half)) (s : State) : (setHoldLink k l s).voices = s.voices := rfl
@[simp] theorem setHoldLink_startOrder (k : Fin 8) (l : Option (Fin 24 × Half)) (s : State) : (setHoldLink k l s).startOrder = s.startOrder := rfl
@[simp] theorem setHoldLink_schedule (k : Fin 8) (l : Option (Fin 24 × Half)) (s : State) : (setHoldLink k l s).schedule = s.schedule := rfl
@[simp] theorem setHoldLink_trigger (k : Fin 8) (l : Option (Fin 24 × Half)) (s : State) : (setHoldLink k l s).trigger = { s.trigger with holdLinks := s.trigger.holdLinks.set k l } := rfl
@[simp] theorem setHoldLink_port (k : Fin 8) (l : Option (Fin 24 × Half)) (s : State) : (setHoldLink k l s).port = s.port := rfl
@[simp] theorem setHoldLink_cache (k : Fin 8) (l : Option (Fin 24 × Half)) (s : State) : (setHoldLink k l s).cache = s.cache := rfl
@[simp] theorem setHoldLink_mix (k : Fin 8) (l : Option (Fin 24 × Half)) (s : State) : (setHoldLink k l s).mix = s.mix := rfl
@[simp] theorem setHoldLink_run (k : Fin 8) (l : Option (Fin 24 × Half)) (s : State) : (setHoldLink k l s).run = s.run := rfl
@[simp] theorem setHoldLink_tally (k : Fin 8) (l : Option (Fin 24 × Half)) (s : State) : (setHoldLink k l s).tally = s.tally := rfl
@[simp] theorem setHoldLink_reports (k : Fin 8) (l : Option (Fin 24 × Half)) (s : State) : (setHoldLink k l s).reports = s.reports := rfl
@[simp] theorem setHoldLink_fault (k : Fin 8) (l : Option (Fin 24 × Half)) (s : State) : (setHoldLink k l s).fault = s.fault := rfl
@[simp] theorem setHoldLink_mem (k : Fin 8) (l : Option (Fin 24 × Half)) (s : State) : (setHoldLink k l s).mem = s.mem := rfl
@[simp] theorem setHoldLink_free (k : Fin 8) (l : Option (Fin 24 × Half)) (s : State) : (setHoldLink k l s).free = s.free := rfl
@[simp] theorem setHoldLink_pending (k : Fin 8) (l : Option (Fin 24 × Half)) (s : State) : (setHoldLink k l s).pending = s.pending := rfl

/-! ### setClock -/

@[simp] theorem setClock_clock (c : Clock) (s : State) : (setClock c s).clock = c := rfl
@[simp] theorem setClock_regs (c : Clock) (s : State) : (setClock c s).regs = s.regs := rfl
@[simp] theorem setClock_slate (c : Clock) (s : State) : (setClock c s).slate = s.slate := rfl
@[simp] theorem setClock_resolver (c : Clock) (s : State) : (setClock c s).resolver = s.resolver := rfl
@[simp] theorem setClock_voices (c : Clock) (s : State) : (setClock c s).voices = s.voices := rfl
@[simp] theorem setClock_startOrder (c : Clock) (s : State) : (setClock c s).startOrder = s.startOrder := rfl
@[simp] theorem setClock_schedule (c : Clock) (s : State) : (setClock c s).schedule = s.schedule := rfl
@[simp] theorem setClock_trigger (c : Clock) (s : State) : (setClock c s).trigger = s.trigger := rfl
@[simp] theorem setClock_port (c : Clock) (s : State) : (setClock c s).port = s.port := rfl
@[simp] theorem setClock_cache (c : Clock) (s : State) : (setClock c s).cache = s.cache := rfl
@[simp] theorem setClock_mix (c : Clock) (s : State) : (setClock c s).mix = s.mix := rfl
@[simp] theorem setClock_run (c : Clock) (s : State) : (setClock c s).run = s.run := rfl
@[simp] theorem setClock_tally (c : Clock) (s : State) : (setClock c s).tally = s.tally := rfl
@[simp] theorem setClock_reports (c : Clock) (s : State) : (setClock c s).reports = s.reports := rfl
@[simp] theorem setClock_fault (c : Clock) (s : State) : (setClock c s).fault = s.fault := rfl
@[simp] theorem setClock_mem (c : Clock) (s : State) : (setClock c s).mem = s.mem := rfl
@[simp] theorem setClock_free (c : Clock) (s : State) : (setClock c s).free = s.free := rfl
@[simp] theorem setClock_pending (c : Clock) (s : State) : (setClock c s).pending = s.pending := rfl

/-! ### setCache -/

@[simp] theorem setCache_clock (c : List CacheEntry) (s : State) : (setCache c s).clock = s.clock := rfl
@[simp] theorem setCache_regs (c : List CacheEntry) (s : State) : (setCache c s).regs = s.regs := rfl
@[simp] theorem setCache_slate (c : List CacheEntry) (s : State) : (setCache c s).slate = s.slate := rfl
@[simp] theorem setCache_resolver (c : List CacheEntry) (s : State) : (setCache c s).resolver = s.resolver := rfl
@[simp] theorem setCache_voices (c : List CacheEntry) (s : State) : (setCache c s).voices = s.voices := rfl
@[simp] theorem setCache_startOrder (c : List CacheEntry) (s : State) : (setCache c s).startOrder = s.startOrder := rfl
@[simp] theorem setCache_schedule (c : List CacheEntry) (s : State) : (setCache c s).schedule = s.schedule := rfl
@[simp] theorem setCache_trigger (c : List CacheEntry) (s : State) : (setCache c s).trigger = s.trigger := rfl
@[simp] theorem setCache_port (c : List CacheEntry) (s : State) : (setCache c s).port = s.port := rfl
@[simp] theorem setCache_cache (c : List CacheEntry) (s : State) : (setCache c s).cache = c := rfl
@[simp] theorem setCache_mix (c : List CacheEntry) (s : State) : (setCache c s).mix = s.mix := rfl
@[simp] theorem setCache_run (c : List CacheEntry) (s : State) : (setCache c s).run = s.run := rfl
@[simp] theorem setCache_tally (c : List CacheEntry) (s : State) : (setCache c s).tally = s.tally := rfl
@[simp] theorem setCache_reports (c : List CacheEntry) (s : State) : (setCache c s).reports = s.reports := rfl
@[simp] theorem setCache_fault (c : List CacheEntry) (s : State) : (setCache c s).fault = s.fault := rfl
@[simp] theorem setCache_mem (c : List CacheEntry) (s : State) : (setCache c s).mem = s.mem := rfl
@[simp] theorem setCache_free (c : List CacheEntry) (s : State) : (setCache c s).free = s.free := rfl
@[simp] theorem setCache_pending (c : List CacheEntry) (s : State) : (setCache c s).pending = s.pending := rfl

/-! ### setPart -/

@[simp] theorem setPart_clock (p : PartState) (s : State) : (setPart p s).clock = s.clock := rfl
@[simp] theorem setPart_regs (p : PartState) (s : State) : (setPart p s).regs = { s.regs with part := p } := rfl
@[simp] theorem setPart_slate (p : PartState) (s : State) : (setPart p s).slate = s.slate := rfl
@[simp] theorem setPart_resolver (p : PartState) (s : State) : (setPart p s).resolver = s.resolver := rfl
@[simp] theorem setPart_voices (p : PartState) (s : State) : (setPart p s).voices = s.voices := rfl
@[simp] theorem setPart_startOrder (p : PartState) (s : State) : (setPart p s).startOrder = s.startOrder := rfl
@[simp] theorem setPart_schedule (p : PartState) (s : State) : (setPart p s).schedule = s.schedule := rfl
@[simp] theorem setPart_trigger (p : PartState) (s : State) : (setPart p s).trigger = s.trigger := rfl
@[simp] theorem setPart_port (p : PartState) (s : State) : (setPart p s).port = s.port := rfl
@[simp] theorem setPart_cache (p : PartState) (s : State) : (setPart p s).cache = s.cache := rfl
@[simp] theorem setPart_mix (p : PartState) (s : State) : (setPart p s).mix = s.mix := rfl
@[simp] theorem setPart_run (p : PartState) (s : State) : (setPart p s).run = s.run := rfl
@[simp] theorem setPart_tally (p : PartState) (s : State) : (setPart p s).tally = s.tally := rfl
@[simp] theorem setPart_reports (p : PartState) (s : State) : (setPart p s).reports = s.reports := rfl
@[simp] theorem setPart_fault (p : PartState) (s : State) : (setPart p s).fault = s.fault := rfl
@[simp] theorem setPart_mem (p : PartState) (s : State) : (setPart p s).mem = s.mem := rfl
@[simp] theorem setPart_free (p : PartState) (s : State) : (setPart p s).free = s.free := rfl
@[simp] theorem setPart_pending (p : PartState) (s : State) : (setPart p s).pending = s.pending := rfl

/-! ### setStartFault -/

@[simp] theorem setStartFault_clock (f : StartFault) (s : State) : (setStartFault f s).clock = s.clock := rfl
@[simp] theorem setStartFault_regs (f : StartFault) (s : State) : (setStartFault f s).regs = { s.regs with startFault := f } := rfl
@[simp] theorem setStartFault_slate (f : StartFault) (s : State) : (setStartFault f s).slate = s.slate := rfl
@[simp] theorem setStartFault_resolver (f : StartFault) (s : State) : (setStartFault f s).resolver = s.resolver := rfl
@[simp] theorem setStartFault_voices (f : StartFault) (s : State) : (setStartFault f s).voices = s.voices := rfl
@[simp] theorem setStartFault_startOrder (f : StartFault) (s : State) : (setStartFault f s).startOrder = s.startOrder := rfl
@[simp] theorem setStartFault_schedule (f : StartFault) (s : State) : (setStartFault f s).schedule = s.schedule := rfl
@[simp] theorem setStartFault_trigger (f : StartFault) (s : State) : (setStartFault f s).trigger = s.trigger := rfl
@[simp] theorem setStartFault_port (f : StartFault) (s : State) : (setStartFault f s).port = s.port := rfl
@[simp] theorem setStartFault_cache (f : StartFault) (s : State) : (setStartFault f s).cache = s.cache := rfl
@[simp] theorem setStartFault_mix (f : StartFault) (s : State) : (setStartFault f s).mix = s.mix := rfl
@[simp] theorem setStartFault_run (f : StartFault) (s : State) : (setStartFault f s).run = s.run := rfl
@[simp] theorem setStartFault_tally (f : StartFault) (s : State) : (setStartFault f s).tally = s.tally := rfl
@[simp] theorem setStartFault_reports (f : StartFault) (s : State) : (setStartFault f s).reports = s.reports := rfl
@[simp] theorem setStartFault_fault (f : StartFault) (s : State) : (setStartFault f s).fault = s.fault := rfl
@[simp] theorem setStartFault_mem (f : StartFault) (s : State) : (setStartFault f s).mem = s.mem := rfl
@[simp] theorem setStartFault_free (f : StartFault) (s : State) : (setStartFault f s).free = s.free := rfl
@[simp] theorem setStartFault_pending (f : StartFault) (s : State) : (setStartFault f s).pending = s.pending := rfl

/-! ### setSwitch -/

@[simp] theorem setSwitch_clock (w : Option Switch) (r : Option SceneRecord) (s : State) : (setSwitch w r s).clock = s.clock := rfl
@[simp] theorem setSwitch_regs (w : Option Switch) (r : Option SceneRecord) (s : State) : (setSwitch w r s).regs = s.regs := rfl
@[simp] theorem setSwitch_slate (w : Option Switch) (r : Option SceneRecord) (s : State) : (setSwitch w r s).slate = s.slate := rfl
@[simp] theorem setSwitch_resolver (w : Option Switch) (r : Option SceneRecord) (s : State) : (setSwitch w r s).resolver = s.resolver := rfl
@[simp] theorem setSwitch_voices (w : Option Switch) (r : Option SceneRecord) (s : State) : (setSwitch w r s).voices = s.voices := rfl
@[simp] theorem setSwitch_startOrder (w : Option Switch) (r : Option SceneRecord) (s : State) : (setSwitch w r s).startOrder = s.startOrder := rfl
@[simp] theorem setSwitch_schedule (w : Option Switch) (r : Option SceneRecord) (s : State) : (setSwitch w r s).schedule = s.schedule := rfl
@[simp] theorem setSwitch_trigger (w : Option Switch) (r : Option SceneRecord) (s : State) : (setSwitch w r s).trigger = s.trigger := rfl
@[simp] theorem setSwitch_port (w : Option Switch) (r : Option SceneRecord) (s : State) : (setSwitch w r s).port = s.port := rfl
@[simp] theorem setSwitch_cache (w : Option Switch) (r : Option SceneRecord) (s : State) : (setSwitch w r s).cache = s.cache := rfl
@[simp] theorem setSwitch_mix (w : Option Switch) (r : Option SceneRecord) (s : State) : (setSwitch w r s).mix = s.mix := rfl
@[simp] theorem setSwitch_run (w : Option Switch) (r : Option SceneRecord) (s : State) : (setSwitch w r s).run = { s.run with switch := w, staging := r } := rfl
@[simp] theorem setSwitch_tally (w : Option Switch) (r : Option SceneRecord) (s : State) : (setSwitch w r s).tally = s.tally := rfl
@[simp] theorem setSwitch_reports (w : Option Switch) (r : Option SceneRecord) (s : State) : (setSwitch w r s).reports = s.reports := rfl
@[simp] theorem setSwitch_fault (w : Option Switch) (r : Option SceneRecord) (s : State) : (setSwitch w r s).fault = s.fault := rfl
@[simp] theorem setSwitch_mem (w : Option Switch) (r : Option SceneRecord) (s : State) : (setSwitch w r s).mem = s.mem := rfl
@[simp] theorem setSwitch_free (w : Option Switch) (r : Option SceneRecord) (s : State) : (setSwitch w r s).free = s.free := rfl
@[simp] theorem setSwitch_pending (w : Option Switch) (r : Option SceneRecord) (s : State) : (setSwitch w r s).pending = s.pending := rfl

/-! ### quieten -/

@[simp] theorem quieten_clock (s : State) : (quieten s).clock = s.clock := rfl
@[simp] theorem quieten_regs (s : State) : (quieten s).regs = s.regs := rfl
@[simp] theorem quieten_slate (s : State) : (quieten s).slate = s.slate := rfl
@[simp] theorem quieten_resolver (s : State) : (quieten s).resolver = s.resolver := rfl
@[simp] theorem quieten_voices (s : State) : (quieten s).voices = s.voices.map fun x => { x with content := x.content.quieten } := rfl
@[simp] theorem quieten_startOrder (s : State) : (quieten s).startOrder = s.startOrder := rfl
@[simp] theorem quieten_schedule (s : State) : (quieten s).schedule = s.schedule := rfl
@[simp] theorem quieten_trigger (s : State) : (quieten s).trigger = s.trigger := rfl
@[simp] theorem quieten_port (s : State) : (quieten s).port = s.port := rfl
@[simp] theorem quieten_cache (s : State) : (quieten s).cache = s.cache := rfl
@[simp] theorem quieten_mix (s : State) : (quieten s).mix = s.mix := rfl
@[simp] theorem quieten_run (s : State) : (quieten s).run = s.run := rfl
@[simp] theorem quieten_tally (s : State) : (quieten s).tally = s.tally := rfl
@[simp] theorem quieten_reports (s : State) : (quieten s).reports = s.reports := rfl
@[simp] theorem quieten_fault (s : State) : (quieten s).fault = s.fault := rfl
@[simp] theorem quieten_mem (s : State) : (quieten s).mem = s.mem := rfl
@[simp] theorem quieten_free (s : State) : (quieten s).free = s.free := rfl
@[simp] theorem quieten_pending (s : State) : (quieten s).pending = s.pending := rfl

/-! ### setScan -/

@[simp] theorem setScan_clock (i : Option Nat) (s : State) : (setScan i s).clock = s.clock := rfl
@[simp] theorem setScan_regs (i : Option Nat) (s : State) : (setScan i s).regs = s.regs := rfl
@[simp] theorem setScan_slate (i : Option Nat) (s : State) : (setScan i s).slate = { s.slate with scan := i } := rfl
@[simp] theorem setScan_resolver (i : Option Nat) (s : State) : (setScan i s).resolver = s.resolver := rfl
@[simp] theorem setScan_voices (i : Option Nat) (s : State) : (setScan i s).voices = s.voices := rfl
@[simp] theorem setScan_startOrder (i : Option Nat) (s : State) : (setScan i s).startOrder = s.startOrder := rfl
@[simp] theorem setScan_schedule (i : Option Nat) (s : State) : (setScan i s).schedule = s.schedule := rfl
@[simp] theorem setScan_trigger (i : Option Nat) (s : State) : (setScan i s).trigger = s.trigger := rfl
@[simp] theorem setScan_port (i : Option Nat) (s : State) : (setScan i s).port = s.port := rfl
@[simp] theorem setScan_cache (i : Option Nat) (s : State) : (setScan i s).cache = s.cache := rfl
@[simp] theorem setScan_mix (i : Option Nat) (s : State) : (setScan i s).mix = s.mix := rfl
@[simp] theorem setScan_run (i : Option Nat) (s : State) : (setScan i s).run = s.run := rfl
@[simp] theorem setScan_tally (i : Option Nat) (s : State) : (setScan i s).tally = s.tally := rfl
@[simp] theorem setScan_reports (i : Option Nat) (s : State) : (setScan i s).reports = s.reports := rfl
@[simp] theorem setScan_fault (i : Option Nat) (s : State) : (setScan i s).fault = s.fault := rfl
@[simp] theorem setScan_mem (i : Option Nat) (s : State) : (setScan i s).mem = s.mem := rfl
@[simp] theorem setScan_free (i : Option Nat) (s : State) : (setScan i s).free = s.free := rfl
@[simp] theorem setScan_pending (i : Option Nat) (s : State) : (setScan i s).pending = s.pending := rfl

end Sys2Proof.Machine
end

