-- ==== Sys2Proof/Laws/Frames.lean ====
section
/-! SUPPORT. What the shared operations of the Voice Array, the Report Unit, the port and the Slate Unit's results leave
alone, said once for each operation: `quiet` collects the state none of them touches. -/

namespace Sys2Proof.Machine

/-- The state that claims, releases, reports, results and placed jobs leave alone. -/
structure Quiet where
  mem : List Host.Cell
  clock : Clock
  tally : Tally
  pending : List Instr
  cache : List CacheEntry
  run : RunControl
  buses : Vector Bus 4
  meterInterval : Nat
  meterCount : Nat
  header : Option Header
  scan : Option Nat
  scanWaiting : Bool
  queue : List Taken
  mirrorWaiting : Option (List Byte)
  headerBase : Word
  runBit : Bool
  enables : BitVec 3
  part : PartState
  startFault : StartFault
  vars : Vector Half 32
  live : BitVec 64
  fires : List LineFire
  resolution : Option Resolution
  entries : List Entry
  lines : Vector Qualifier 16
  keys : Vector Qualifier 8
  qualify : Vector Nat 16
  rules : List Rule
  armed : BitVec 64
  groups : Vector (Option Winner) 8
  keyMap : Vector KeyEntry 8
  events : List Event
  queueTaken : Bool
  returnedTo : Nat

/-- The quiet part of a state. -/
def State.quiet (s : State) : Quiet :=
  { mem := s.mem, clock := s.clock, tally := s.tally, pending := s.pending, cache := s.cache, run := s.run
    buses := s.mix.buses, meterInterval := s.mix.meterInterval, meterCount := s.mix.meterCount
    header := s.slate.header, scan := s.slate.scan, scanWaiting := s.slate.scanWaiting, queue := s.slate.queue
    mirrorWaiting := s.slate.mirrorWaiting, headerBase := s.regs.headerBase, runBit := s.regs.run
    enables := s.regs.enables, part := s.regs.part, startFault := s.regs.startFault, vars := s.resolver.vars
    live := s.resolver.live, fires := s.resolver.lines, resolution := s.resolver.current
    entries := s.schedule.entries, lines := s.trigger.lines, keys := s.trigger.keys, qualify := s.trigger.qualify
    rules := s.trigger.rules, armed := s.trigger.armed, groups := s.trigger.groups, keyMap := s.trigger.keyMap
    events := s.trigger.queue, queueTaken := s.trigger.queueTaken, returnedTo := s.reports.returnedTo }

/-- A fold of operations that keep the quiet part keeps it. -/
theorem quiet_foldl {α : Type} (f : State → α → State) (h : ∀ t a, (f t a).quiet = t.quiet) (l : List α) :
    ∀ s, (l.foldl f s).quiet = s.quiet := by
  induction l with
  | nil => intro s; rfl
  | cons a l ih => intro s; rw [List.foldl_cons, ih, h]

/-! ### Plain updates -/

@[simp] theorem quiet_setVoice (v : Fin 24) (x : Voice) (s : State) : (setVoice v x s).quiet = s.quiet := rfl
@[simp] theorem quiet_setContent (v : Fin 24) (c : Content) (s : State) : (setContent v c s).quiet = s.quiet := rfl
@[simp] theorem quiet_nextFree (s : State) : (nextFree s).quiet = s.quiet := rfl
@[simp] theorem quiet_setFlags (f : BitVec 3) (s : State) : (setFlags f s).quiet = s.quiet := rfl
@[simp] theorem quiet_launch (j : Job) (s : State) : (launch j s).quiet = s.quiet := rfl
@[simp] theorem quiet_leaveOrder (v : Fin 24) (s : State) : (leaveOrder v s).quiet = s.quiet := rfl
@[simp] theorem quiet_setDuck (g : Fin 4) (d : Duck) (s : State) : (setDuck g d s).quiet = s.quiet := rfl
@[simp] theorem quiet_mapDucks (f : Fin 4 → Duck → Duck) (s : State) : (mapDucks f s).quiet = s.quiet := rfl
@[simp] theorem quiet_rejudgeDucks (s : State) : (rejudgeDucks s).quiet = s.quiet := rfl
@[simp] theorem quiet_unkeyDucks (v : Fin 24) (s : State) : (unkeyDucks v s).quiet = s.quiet := rfl
@[simp] theorem quiet_goIdle (v : Fin 24) (e : Half × Bool) (s : State) : (goIdle v e s).quiet = s.quiet := rfl
@[simp] theorem quiet_setHoldLink (k : Fin 8) (l : Option (Fin 24 × Half)) (s : State) :
    (setHoldLink k l s).quiet = s.quiet := rfl
@[simp] theorem quiet_quieten (s : State) : (quieten s).quiet = s.quiet := rfl
@[simp] theorem quiet_clearLink (v : Fin 24) (s : State) : (clearLink v s).quiet = s.quiet := rfl

@[simp] theorem quiet_keyDucks (v : Fin 24) (r : DuckRole) (s : State) : (keyDucks v r s).quiet = s.quiet := by
  unfold keyDucks; split <;> rfl

/-! ### The port -/

@[simp] theorem quiet_place (j : Job) (s : State) : (place j s).quiet = s.quiet := rfl

@[simp] theorem quiet_dropRefill (j : Job) (s : State) : (dropRefill j s).quiet = s.quiet := by
  unfold dropRefill; dsimp only; split <;> rfl

theorem quiet_takeRefill (n : Nat) : ∀ s, (takeRefill n s).2.quiet = s.quiet := by
  induction n with
  | zero => intro s; rfl
  | succ n ih =>
    intro s; unfold takeRefill; split
    · rfl
    · split
      · rw [ih, quiet_dropRefill]
      · rfl

@[simp] theorem quiet_takeNext (s : State) : (takeNext s).quiet = s.quiet := by
  have h := quiet_takeRefill s.port.refill.length s
  unfold takeNext
  split
  · next h' => rw [h'] at h; simpa using h
  · next h' =>
    rw [h'] at h
    dsimp only at h ⊢
    repeat' split
    all_goals exact h

@[simp] theorem quiet_arbitrate (s : State) : (arbitrate s).quiet = s.quiet := by
  unfold arbitrate; split <;> simp

/-! ### Fault Capture and the Report Unit -/

@[simp] theorem quiet_placeFaultRecord (s : State) : (placeFaultRecord s).quiet = s.quiet := by
  unfold placeFaultRecord; dsimp only; repeat' split
  all_goals rfl

@[simp] theorem quiet_capture (a : FaultSource) (k : FaultKind) (x d : Word) (s : State) :
    (capture a k x d s).quiet = s.quiet := by
  unfold capture; repeat' split
  all_goals first | rfl | (rw [quiet_placeFaultRecord]; rfl)

@[simp] theorem quiet_captureJob (k : FaultKind) (j : Job) (s : State) : (captureJob k j s).quiet = s.quiet := by
  unfold captureJob; simp

@[simp] theorem quiet_placeWrittenTo (s : State) : (placeWrittenTo s).quiet = s.quiet := by
  unfold placeWrittenTo; rw [quiet_place]; rfl

@[simp] theorem quiet_writeReport (r : Report) (s : State) : (writeReport r s).quiet = s.quiet := by
  unfold writeReport; rw [quiet_placeWrittenTo]; rfl

@[simp] theorem quiet_emit (r : Report) (s : State) : (emit r s).quiet = s.quiet := by
  unfold emit; repeat' split
  all_goals first | rw [quiet_writeReport] | (rw [quiet_capture]; rfl) | rfl

@[simp] theorem quiet_tell (p : Playing) (r : Report) (s : State) : (tell p r s).quiet = s.quiet := by
  unfold tell; split <;> simp

theorem quiet_drainHoldList (l : List Report) : ∀ s, (drainHoldList l s).quiet = s.quiet := by
  induction l with
  | nil => intro s; rfl
  | cons r l ih =>
    intro s; unfold drainHoldList; split
    · rw [ih, quiet_writeReport]
    · rfl

@[simp] theorem quiet_discardHoldList (s : State) : (discardHoldList s).quiet = s.quiet := rfl

/-! ### Results -/

@[simp] theorem quiet_placeCompletion (h : Held) (s : State) : (placeCompletion h s).quiet = s.quiet := by
  unfold placeCompletion; split <;> rfl

@[simp] theorem quiet_giveResult (i : Nat) (r : ResultCode) (d : List Byte) (s : State) :
    (giveResult i r d s).quiet = s.quiet := by
  unfold giveResult; dsimp only; repeat' split
  all_goals rfl

/-! ### The Voice Array -/

@[simp] theorem quiet_emitEnded (v : Fin 24) (c : Claim) (r : EndReason) (b : Bool) (s : State) :
    (emitEnded v c r b s).quiet = s.quiet := by unfold emitEnded; simp

@[simp] theorem quiet_withdraw (v : Fin 24) (s : State) : (withdraw v s).quiet = s.quiet := by
  unfold withdraw; dsimp only; split <;> simp

@[simp] theorem quiet_withdrawEnded (v : Fin 24) (r : EndReason) (s : State) :
    (withdrawEnded v r s).quiet = s.quiet := by unfold withdrawEnded; split <;> simp

@[simp] theorem quiet_cancelFollower (v : Fin 24) (n : Half) (s : State) (w : Fin 24) :
    (cancelFollower v n s w).quiet = s.quiet := by
  unfold cancelFollower; split
  · split <;> simp
  · rfl

@[simp] theorem quiet_cancelFollowers (v : Fin 24) (n : Half) (s : State) :
    (cancelFollowers v n s).quiet = s.quiet := quiet_foldl _ (fun t w => quiet_cancelFollower v n t w) _ s

@[simp] theorem quiet_endRelease (v : Fin 24) (p : Playing) (s : State) : (endRelease v p s).quiet = s.quiet := by
  unfold endRelease; dsimp only; split <;> simp

@[simp] theorem quiet_releaseSounding (v : Fin 24) (p : Playing) (l : Nat) (r : EndReason) (s : State) :
    (releaseSounding v p l r s).quiet = s.quiet := by unfold releaseSounding; dsimp only; split <;> simp

@[simp] theorem quiet_shortenRelease (v : Fin 24) (p : Playing) (l : Nat) (s : State) :
    (shortenRelease v p l s).quiet = s.quiet := by
  unfold shortenRelease; repeat' split
  all_goals simp

@[simp] theorem quiet_testFollow (v : Fin 24) (s : State) : (testFollow v s).quiet = s.quiet := by
  unfold testFollow; split
  · split <;> rfl
  · rfl

@[simp] theorem quiet_kick (v : Fin 24) (g : Nat) (s : State) (w : Fin 24) : (kick v g s w).quiet = s.quiet := by
  unfold kick; repeat' split
  all_goals simp

@[simp] theorem quiet_kickOthers (v : Fin 24) (g : Nat) (s : State) : (kickOthers v g s).quiet = s.quiet := by
  unfold kickOthers; split
  · rfl
  · exact quiet_foldl _ (fun t w => quiet_kick v g t w) _ s

@[simp] theorem quiet_emitLate (v : Fin 24) (c : Claim) (l : Lateness) (t : Word) (s : State) :
    (emitLate v c l t s).quiet = s.quiet := by
  unfold emitLate; dsimp only; repeat' split
  all_goals simp

@[simp] theorem quiet_entryEffects (v : Fin 24) (p : Playing) (l : Lateness) (s : State) :
    (entryEffects v p l s).quiet = s.quiet := by
  unfold entryEffects; dsimp only
  rw [quiet_testFollow, quiet_emitLate, quiet_emit, quiet_keyDucks, quiet_kickOthers]; rfl

@[simp] theorem quiet_completeEntry (v : Fin 24) (s : State) : (completeEntry v s).quiet = s.quiet := by
  unfold completeEntry; repeat' split
  all_goals simp

@[simp] theorem quiet_completeEntries (p : Content → Bool) (s : State) : (completeEntries p s).quiet = s.quiet :=
  quiet_foldl _ (fun t v => by split <;> simp) _ s

@[simp] theorem quiet_enterSounding (v : Fin 24) (i : Incoming) (b : Bool) (l : Option Nat) (s : State) :
    (enterSounding v i b l s).quiet = s.quiet := by
  unfold enterSounding; dsimp only; split <;> simp

@[simp] theorem quiet_releaseNow (v : Fin 24) (r : EndReason) (f : Playing → Nat) (b : Bool) (s : State) :
    (releaseNow v r f b s).quiet = s.quiet := by
  unfold releaseNow; dsimp only; repeat' split
  all_goals simp

@[simp] theorem quiet_releaseVoice (v : Fin 24) (r : EndReason) (f : Playing → Nat) (b : Bool) (s : State) :
    (releaseVoice v r f b s).quiet = s.quiet := by unfold releaseVoice; simp

@[simp] theorem quiet_cutVoice (v : Fin 24) (s : State) : (cutVoice v s).quiet = s.quiet := by unfold cutVoice; simp

@[simp] theorem quiet_releaseAllNow (p : Content → Bool) (r : EndReason) (f : Playing → Nat) (b : Bool) (s : State) :
    (releaseAllNow p r f b s).quiet = s.quiet := by
  unfold releaseAllNow; dsimp only
  rw [quiet_foldl _ (fun t v => quiet_releaseNow v r f b t), quiet_foldl _ (fun t v => quiet_releaseNow v r f b t)]

@[simp] theorem quiet_releaseAll (p : Content → Bool) (r : EndReason) (f : Playing → Nat) (b : Bool) (s : State) :
    (releaseAll p r f b s).quiet = s.quiet := by unfold releaseAll; simp

@[simp] theorem quiet_releaseGroup (g : Nat) (s : State) : (releaseGroup g s).quiet = s.quiet := by
  unfold releaseGroup; simp

@[simp] theorem quiet_cutLastVoice (s : State) : (cutLastVoice s).quiet = s.quiet := by
  unfold cutLastVoice; split <;> simp

@[simp] theorem quiet_holdToPlayRelease (v : Fin 24) (c : Half) (s : State) :
    (holdToPlayRelease v c s).quiet = s.quiet := by
  unfold holdToPlayRelease; repeat' split
  all_goals simp

@[simp] theorem quiet_deepHoldVoices (s : State) : (deepHoldVoices s).quiet = s.quiet := by unfold deepHoldVoices; simp

@[simp] theorem quiet_stopVoices (s : State) : (stopVoices s).quiet = s.quiet := by unfold stopVoices; simp

@[simp] theorem quiet_arm (v : Fin 24) (i : Incoming) (s : State) : (arm v i s).quiet = s.quiet := rfl

@[simp] theorem quiet_missVoice (v : Fin 24) (i : Incoming) (r : Nat) (t : Word) (l : Nat) (s : State) :
    (missVoice v i r t l s).quiet = s.quiet := by unfold missVoice; simp

@[simp] theorem quiet_judgeOverdue (v : Fin 24) (i : Incoming) (t : Word) (s : State) :
    (judgeOverdue v i t s).quiet = s.quiet := by
  unfold judgeOverdue; dsimp only; repeat' split
  all_goals simp

@[simp] theorem quiet_actOnStart (v : Fin 24) (i : Incoming) (s : State) : (actOnStart v i s).quiet = s.quiet := by
  unfold actOnStart; repeat' split
  all_goals simp

@[simp] theorem quiet_landHead (v : Fin 24) (f : List Frame) (s : State) : (landHead v f s).quiet = s.quiet := by
  unfold landHead; dsimp only; split <;> simp

@[simp] theorem quiet_handBack (k : Fin 8) (v : Fin 24) (c : Half) (s : State) : (handBack k v c s).quiet = s.quiet := by
  unfold handBack; dsimp only; repeat' split
  all_goals first | rfl | (rw [quiet_holdToPlayRelease]; rfl)

/-! ### Claims -/

@[simp] theorem quiet_reportSteal (w : Obtained) (v : Fin 24) (c : Claim) (n : Nat) (r : ClaimRequest) (s : State) :
    (reportSteal w v c n r s).quiet = s.quiet := by unfold reportSteal; split <;> simp

@[simp] theorem quiet_takeNow (v : Fin 24) (r : ClaimRequest) (w : Obtained) (s : State) :
    (takeNow v r w s).quiet = s.quiet := by unfold takeNow; dsimp only; split <;> simp

@[simp] theorem quiet_takeVoice (v : Fin 24) (r : ClaimRequest) (w : Obtained) (s : State) :
    (takeVoice v r w s).quiet = s.quiet := by unfold takeVoice; simp

@[simp] theorem quiet_primingRequest (v : Fin 24) (c : SoundCue) (s : State) :
    (primingRequest v c s).quiet = s.quiet := by unfold primingRequest; split <;> simp

@[simp] theorem quiet_setLink (v : Fin 24) (t : Half) (l : Option Word) (s : State) :
    (setLink v t l s).quiet = s.quiet := by unfold setLink; split <;> rfl

@[simp] theorem quiet_claimTaken (v : Fin 24) (w : Obtained) (r : ClaimRequest) (n : Half) (s : State) :
    (claimTaken v w r n s).quiet = s.quiet := by
  unfold claimTaken; repeat' split
  all_goals simp

@[simp] theorem quiet_claim (r : ClaimRequest) (l : Option Word) (s : State) : (claim r l s).quiet = s.quiet := by
  unfold claim; split
  · simp
  · split <;> simp

/-! ### Fetching, and the events of one voice -/

@[simp] theorem quiet_placeRefill (s : State) (v : Fin 24) : (placeRefill s v).quiet = s.quiet := by
  unfold placeRefill; dsimp only; repeat' split
  all_goals simp

@[simp] theorem quiet_placeRefills (s : State) : (placeRefills s).quiet = s.quiet :=
  quiet_foldl _ (fun t v => quiet_placeRefill t v) _ s

@[simp] theorem quiet_refillFault (v : Fin 24) (p : Playing) (j : Job) (s : State) :
    (refillFault v p j s).quiet = s.quiet := by unfold refillFault; simp

@[simp] theorem quiet_refillLanded (v : Fin 24) (p : Playing) (n : Nat) (j : Job) (s : State) :
    (refillLanded v p n j s).quiet = s.quiet := by unfold refillLanded; simp

@[simp] theorem quiet_refillDone (j : Job) (b : Bool) (s : State) : (refillDone j b s).quiet = s.quiet := by
  unfold refillDone; dsimp only; repeat' split
  all_goals simp

@[simp] theorem quiet_headFault (v : Fin 24) (i : Incoming) (j : Job) (s : State) :
    (headFault v i j s).quiet = s.quiet := by unfold headFault; simp

@[simp] theorem quiet_headDone (j : Job) (b : Bool) (s : State) : (headDone j b s).quiet = s.quiet := by
  unfold headDone; dsimp only; repeat' split
  all_goals simp

@[simp] theorem quiet_exactStart (v : Fin 24) (s : State) : (exactStart v s).quiet = s.quiet := by
  unfold exactStart; repeat' split
  all_goals simp

@[simp] theorem quiet_naturalEnd (v : Fin 24) (s : State) : (naturalEnd v s).quiet = s.quiet := by
  unfold naturalEnd; repeat' split
  all_goals simp

@[simp] theorem quiet_releaseComplete (v : Fin 24) (s : State) : (releaseComplete v s).quiet = s.quiet := by
  unfold releaseComplete; repeat' split
  all_goals simp

@[simp] theorem quiet_discardOutgoing (v : Fin 24) (p : Playing) (i : Incoming) (s : State) :
    (discardOutgoing v p i s).quiet = s.quiet := by unfold discardOutgoing; dsimp only; split <;> simp

@[simp] theorem quiet_handoverFadeEnd (v : Fin 24) (s : State) : (handoverFadeEnd v s).quiet = s.quiet := by
  unfold handoverFadeEnd; dsimp only; repeat' split
  all_goals simp

@[simp] theorem quiet_duckStep (g : Fin 4) (s : State) : (duckStep g s).quiet = s.quiet := by
  unfold duckStep; split <;> simp

@[simp] theorem quiet_followRequest (v : Fin 24) (s : State) : (followRequest v s).quiet = s.quiet := by
  unfold followRequest; simp

@[simp] theorem quiet_boundaryVoice (s : State) (v : Fin 24) : (boundaryVoice s v).quiet = s.quiet := by
  unfold boundaryVoice; dsimp only; repeat' split
  all_goals simp

@[simp] theorem quiet_reportUnderrun (v : Fin 24) (p : Playing) (b : Bool) (s : State) :
    (reportUnderrun v p b s).quiet = s.quiet := by unfold reportUnderrun; split <;> simp

@[simp] theorem quiet_playVoice (s : State) (v : Fin 24) : (playVoice s v).quiet = s.quiet := by
  unfold playVoice; dsimp only; repeat' split
  all_goals simp

end Sys2Proof.Machine
end

