-- ==== Sys2Proof/Laws/Memory.lean ====
section
/-! SUPPORT. Show memory: every memory operation keeps the canonical form, a read after a write gives what was written,
and a write leaves every other address alone (log entry 1). -/

namespace Sys2Proof.Machine

/-! ### The canonical form -/

theorem wfFrom_mono {lo lo' : Nat} (h : lo' ≤ lo) : ∀ {m}, Memory.wfFrom lo m = true → Memory.wfFrom lo' m = true
  | [], _ => rfl
  | (k, b) :: r, w => by
    simp only [Memory.wfFrom, Bool.and_eq_true, decide_eq_true_eq] at w ⊢
    exact ⟨⟨⟨by omega, w.1.1.2⟩, w.1.2⟩, w.2⟩

theorem wfFrom_insert {a : Nat} {b : Byte} (ha : a < Config.addressSpace) :
    ∀ {lo m}, lo ≤ a → Memory.wfFrom lo m = true → Memory.wfFrom lo (Memory.insert m a b) = true
  | lo, [], hl, _ => by
    unfold Memory.insert; split
    · rfl
    · simp [Memory.wfFrom, *]
  | lo, (k, c) :: r, hl, w => by
    simp only [Memory.wfFrom, Bool.and_eq_true, decide_eq_true_eq] at w
    unfold Memory.insert
    split
    · split
      · simp [Memory.wfFrom, w]
      · rename_i h₁ h₂
        simp only [Memory.wfFrom, Bool.and_eq_true, decide_eq_true_eq]
        exact ⟨⟨⟨hl, ha⟩, by simpa using h₂⟩, ⟨⟨by omega, w.1.1.2⟩, w.1.2⟩, w.2⟩
    · split
      · split
        · exact wfFrom_mono (by omega) w.2
        · rename_i h₁ h₂ h₃
          subst h₂
          simp only [Memory.wfFrom, Bool.and_eq_true, decide_eq_true_eq]
          exact ⟨⟨⟨hl, ha⟩, by simpa using h₃⟩, w.2⟩
      · simp only [Memory.wfFrom, Bool.and_eq_true, decide_eq_true_eq]
        exact ⟨w.1, wfFrom_insert ha (by omega) w.2⟩

theorem wf_write {m : List Host.Cell} (a : Nat) (b : Byte) (h : Memory.wf m = true) :
    Memory.wf (Memory.write m a b) = true := by
  unfold Memory.write; split
  · exact wfFrom_insert ‹_› (Nat.zero_le _) h
  · exact h

theorem wf_writeBytes : ∀ {m : List Host.Cell} (a : Nat) (bs : List Byte), Memory.wf m = true →
    Memory.wf (Memory.writeBytes m a bs) = true
  | _, _, [], h => h
  | _, a, b :: bs, h => wf_writeBytes (a + 1) bs (wf_write a b h)

theorem wf_writeSome : ∀ {m : List Host.Cell} (a : Nat) (bs : List Byte) (mask : Nat), Memory.wf m = true →
    Memory.wf (Memory.writeSome m a bs mask) = true
  | _, _, [], _, h => h
  | m, a, b :: bs, mask, h => by
    unfold Memory.writeSome
    apply wf_writeSome
    split
    · exact wf_write a b h
    · exact h

theorem wf_writeCells : ∀ {m : List Host.Cell} (cs : List Host.Cell), Memory.wf m = true →
    Memory.wf (Memory.writeCells m cs) = true
  | _, [], h => h
  | _, (a, b) :: cs, h => wf_writeCells cs (wf_write a b h)

theorem wf_clearBusy (table : Nat) : ∀ (i n : Nat) {m : List Host.Cell}, Memory.wf m = true →
    Memory.wf (clearBusy table i n m) = true
  | _, 0, _, h => h
  | i, n + 1, _, h => wf_clearBusy table (i + 1) n (wf_write _ _ h)

theorem wf_memoryAfter (j : Job) (e : JobEnd) (bad : Bool) {m : List Host.Cell} (h : Memory.wf m = true) :
    Memory.wf (memoryAfter j e bad m) = true := by
  unfold memoryAfter; dsimp only; split
  · exact wf_writeSome _ _ _ (wf_writeCells _ h)
  · exact wf_writeBytes _ _ (wf_writeCells _ h)

theorem wf_busyMemory (e : JobEnd) (table good count : Nat) {m : List Host.Cell} (h : Memory.wf m = true) :
    Memory.wf (busyMemory e table good count m) = true := by
  unfold busyMemory; dsimp only; split
  · exact wf_write _ _ (wf_clearBusy table 0 good (wf_writeCells _ h))
  · exact wf_clearBusy table 0 good (wf_writeCells _ h)

theorem reset_mem_wf : Memory.wf State.reset.mem = true := rfl

/-! ### Reading after writing -/

theorem read_insert_self (a : Nat) (b : Byte) : ∀ {lo m}, Memory.wfFrom lo m = true →
    Memory.read (Memory.insert m a b) a = b
  | lo, [], _ => by
    unfold Memory.insert; split
    · simp [Memory.read, *]
    · simp [Memory.read]
  | lo, (k, c) :: r, w => by
    simp only [Memory.wfFrom, Bool.and_eq_true, decide_eq_true_eq] at w
    have tail : ∀ {lo m}, a < lo → Memory.wfFrom lo m = true → Memory.read m a = Memory.unlisted := by
      intro lo m
      induction m generalizing lo with
      | nil => intros; rfl
      | cons x r ih =>
        obtain ⟨k', c'⟩ := x
        intro hlt hw
        simp only [Memory.wfFrom, Bool.and_eq_true, decide_eq_true_eq] at hw
        unfold Memory.read
        rw [if_neg (by omega)]
        exact ih (by omega) hw.2
    unfold Memory.insert
    split
    · rename_i hlt
      split
      · rename_i hb
        rw [hb]
        unfold Memory.read
        rw [if_neg (by omega)]
        exact tail (by omega) w.2
      · simp [Memory.read]
    · split
      · rename_i hak
        split
        · rename_i hb
          rw [hb]
          exact tail (by omega) w.2
        · simp [Memory.read]
      · unfold Memory.read
        rw [if_neg (by omega)]
        exact read_insert_self a b w.2

theorem read_insert_other {a x : Nat} (b : Byte) (h : x ≠ a) : ∀ m, Memory.read (Memory.insert m a b) x = Memory.read m x
  | [] => by
    unfold Memory.insert; split
    · rfl
    · simp [Memory.read, Ne.symm h]
  | (k, c) :: r => by
    unfold Memory.insert
    repeat' split
    · rfl
    · simp [Memory.read, Ne.symm h]
    · rename_i h₁ h₂ h₃
      subst h₂
      simp [Memory.read, Ne.symm h]
    · rename_i h₁ h₂ h₃
      subst h₂
      simp [Memory.read, Ne.symm h]
    · unfold Memory.read
      rw [read_insert_other b h r]

theorem read_write_self {m : List Host.Cell} {a : Nat} (b : Byte) (hw : Memory.wf m = true)
    (ha : a < Config.addressSpace) : Memory.read (Memory.write m a b) a = b := by
  unfold Memory.write; rw [if_pos ha]; exact read_insert_self a b hw

theorem read_write_other {m : List Host.Cell} {a x : Nat} (b : Byte) (h : x ≠ a) :
    Memory.read (Memory.write m a b) x = Memory.read m x := by
  unfold Memory.write; split
  · exact read_insert_other b h m
  · rfl

theorem read_writeBytes_other {x : Nat} : ∀ {m : List Host.Cell} {a : Nat} (bs : List Byte),
    (x < a ∨ a + bs.length ≤ x) → Memory.read (Memory.writeBytes m a bs) x = Memory.read m x
  | _, _, [], _ => rfl
  | m, a, b :: bs, h => by
    simp only [List.length_cons] at h
    unfold Memory.writeBytes
    rw [read_writeBytes_other bs (by omega), read_write_other b (by omega)]

end Sys2Proof.Machine
end

