-- ==== Sys2Proof/Laws/Reports.lean ====
section
/-! SUPPORT. What the operations of the Report Unit, Fault Capture and the Slate Unit's results can change, said once for
each as an equation, and from it one lemma for each field they leave alone. -/

namespace Sys2Proof.Machine

/-- The record write is placed. -/
theorem placeFaultRecord_eq (s : State) :
    placeFaultRecord s = { s with port := (placeFaultRecord s).port } := by
  unfold placeFaultRecord; dsimp only; repeat' split
  all_goals rfl

@[simp] theorem placeFaultRecord_clock (s : State) : (placeFaultRecord s).clock = s.clock := by
  rw [placeFaultRecord_eq]
@[simp] theorem placeFaultRecord_regs (s : State) : (placeFaultRecord s).regs = s.regs := by
  rw [placeFaultRecord_eq]
@[simp] theorem placeFaultRecord_slate (s : State) : (placeFaultRecord s).slate = s.slate := by
  rw [placeFaultRecord_eq]
@[simp] theorem placeFaultRecord_resolver (s : State) : (placeFaultRecord s).resolver = s.resolver := by
  rw [placeFaultRecord_eq]
@[simp] theorem placeFaultRecord_voices (s : State) : (placeFaultRecord s).voices = s.voices := by
  rw [placeFaultRecord_eq]
@[simp] theorem placeFaultRecord_startOrder (s : State) : (placeFaultRecord s).startOrder = s.startOrder := by
  rw [placeFaultRecord_eq]
@[simp] theorem placeFaultRecord_schedule (s : State) : (placeFaultRecord s).schedule = s.schedule := by
  rw [placeFaultRecord_eq]
@[simp] theorem placeFaultRecord_trigger (s : State) : (placeFaultRecord s).trigger = s.trigger := by
  rw [placeFaultRecord_eq]
@[simp] theorem placeFaultRecord_cache (s : State) : (placeFaultRecord s).cache = s.cache := by
  rw [placeFaultRecord_eq]
@[simp] theorem placeFaultRecord_mix (s : State) : (placeFaultRecord s).mix = s.mix := by
  rw [placeFaultRecord_eq]
@[simp] theorem placeFaultRecord_run (s : State) : (placeFaultRecord s).run = s.run := by
  rw [placeFaultRecord_eq]
@[simp] theorem placeFaultRecord_tally (s : State) : (placeFaultRecord s).tally = s.tally := by
  rw [placeFaultRecord_eq]
@[simp] theorem placeFaultRecord_reports (s : State) : (placeFaultRecord s).reports = s.reports := by
  rw [placeFaultRecord_eq]
@[simp] theorem placeFaultRecord_fault (s : State) : (placeFaultRecord s).fault = s.fault := by
  rw [placeFaultRecord_eq]
@[simp] theorem placeFaultRecord_mem (s : State) : (placeFaultRecord s).mem = s.mem := by
  rw [placeFaultRecord_eq]
@[simp] theorem placeFaultRecord_free (s : State) : (placeFaultRecord s).free = s.free := by
  rw [placeFaultRecord_eq]
@[simp] theorem placeFaultRecord_pending (s : State) : (placeFaultRecord s).pending = s.pending := by
  rw [placeFaultRecord_eq]

/-- A capture changes the record, the FAULT flag and the port. -/
theorem capture_eq (a : FaultSource) (k : FaultKind) (x d : Word) (s : State) :
    capture a k x d s = { s with port := (capture a k x d s).port, fault := (capture a k x d s).fault, regs := { s.regs with flags := (capture a k x d s).regs.flags } } := by
  unfold capture; split
  · rw [placeFaultRecord_eq]; rfl
  · split
    · rw [placeFaultRecord_eq]
    · rfl

@[simp] theorem capture_clock (a : FaultSource) (k : FaultKind) (x d : Word) (s : State) : (capture a k x d s).clock = s.clock := by
  rw [capture_eq]
@[simp] theorem capture_slate (a : FaultSource) (k : FaultKind) (x d : Word) (s : State) : (capture a k x d s).slate = s.slate := by
  rw [capture_eq]
@[simp] theorem capture_resolver (a : FaultSource) (k : FaultKind) (x d : Word) (s : State) : (capture a k x d s).resolver = s.resolver := by
  rw [capture_eq]
@[simp] theorem capture_voices (a : FaultSource) (k : FaultKind) (x d : Word) (s : State) : (capture a k x d s).voices = s.voices := by
  rw [capture_eq]
@[simp] theorem capture_startOrder (a : FaultSource) (k : FaultKind) (x d : Word) (s : State) : (capture a k x d s).startOrder = s.startOrder := by
  rw [capture_eq]
@[simp] theorem capture_schedule (a : FaultSource) (k : FaultKind) (x d : Word) (s : State) : (capture a k x d s).schedule = s.schedule := by
  rw [capture_eq]
@[simp] theorem capture_trigger (a : FaultSource) (k : FaultKind) (x d : Word) (s : State) : (capture a k x d s).trigger = s.trigger := by
  rw [capture_eq]
@[simp] theorem capture_cache (a : FaultSource) (k : FaultKind) (x d : Word) (s : State) : (capture a k x d s).cache = s.cache := by
  rw [capture_eq]
@[simp] theorem capture_mix (a : FaultSource) (k : FaultKind) (x d : Word) (s : State) : (capture a k x d s).mix = s.mix := by
  rw [capture_eq]
@[simp] theorem capture_run (a : FaultSource) (k : FaultKind) (x d : Word) (s : State) : (capture a k x d s).run = s.run := by
  rw [capture_eq]
@[simp] theorem capture_tally (a : FaultSource) (k : FaultKind) (x d : Word) (s : State) : (capture a k x d s).tally = s.tally := by
  rw [capture_eq]
@[simp] theorem capture_reports (a : FaultSource) (k : FaultKind) (x d : Word) (s : State) : (capture a k x d s).reports = s.reports := by
  rw [capture_eq]
@[simp] theorem capture_mem (a : FaultSource) (k : FaultKind) (x d : Word) (s : State) : (capture a k x d s).mem = s.mem := by
  rw [capture_eq]
@[simp] theorem capture_free (a : FaultSource) (k : FaultKind) (x d : Word) (s : State) : (capture a k x d s).free = s.free := by
  rw [capture_eq]
@[simp] theorem capture_pending (a : FaultSource) (k : FaultKind) (x d : Word) (s : State) : (capture a k x d s).pending = s.pending := by
  rw [capture_eq]

/-- A captured job changes what a capture changes, and takes a free value. -/
theorem captureJob_eq (k : FaultKind) (j : Job) (s : State) :
    captureJob k j s = { s with port := (captureJob k j s).port, fault := (captureJob k j s).fault, regs := { s.regs with flags := (captureJob k j s).regs.flags }, free := s.free + 1 } := by
  unfold captureJob; rw [capture_eq]; rfl

@[simp] theorem captureJob_clock (k : FaultKind) (j : Job) (s : State) : (captureJob k j s).clock = s.clock := by
  rw [captureJob_eq]
@[simp] theorem captureJob_slate (k : FaultKind) (j : Job) (s : State) : (captureJob k j s).slate = s.slate := by
  rw [captureJob_eq]
@[simp] theorem captureJob_resolver (k : FaultKind) (j : Job) (s : State) : (captureJob k j s).resolver = s.resolver := by
  rw [captureJob_eq]
@[simp] theorem captureJob_voices (k : FaultKind) (j : Job) (s : State) : (captureJob k j s).voices = s.voices := by
  rw [captureJob_eq]
@[simp] theorem captureJob_startOrder (k : FaultKind) (j : Job) (s : State) : (captureJob k j s).startOrder = s.startOrder := by
  rw [captureJob_eq]
@[simp] theorem captureJob_schedule (k : FaultKind) (j : Job) (s : State) : (captureJob k j s).schedule = s.schedule := by
  rw [captureJob_eq]
@[simp] theorem captureJob_trigger (k : FaultKind) (j : Job) (s : State) : (captureJob k j s).trigger = s.trigger := by
  rw [captureJob_eq]
@[simp] theorem captureJob_cache (k : FaultKind) (j : Job) (s : State) : (captureJob k j s).cache = s.cache := by
  rw [captureJob_eq]
@[simp] theorem captureJob_mix (k : FaultKind) (j : Job) (s : State) : (captureJob k j s).mix = s.mix := by
  rw [captureJob_eq]
@[simp] theorem captureJob_run (k : FaultKind) (j : Job) (s : State) : (captureJob k j s).run = s.run := by
  rw [captureJob_eq]
@[simp] theorem captureJob_tally (k : FaultKind) (j : Job) (s : State) : (captureJob k j s).tally = s.tally := by
  rw [captureJob_eq]
@[simp] theorem captureJob_reports (k : FaultKind) (j : Job) (s : State) : (captureJob k j s).reports = s.reports := by
  rw [captureJob_eq]
@[simp] theorem captureJob_mem (k : FaultKind) (j : Job) (s : State) : (captureJob k j s).mem = s.mem := by
  rw [captureJob_eq]
@[simp] theorem captureJob_pending (k : FaultKind) (j : Job) (s : State) : (captureJob k j s).pending = s.pending := by
  rw [captureJob_eq]

/-- A report changes the Report Unit, Fault Capture, the flags and the port. -/
theorem emit_eq (r : Report) (s : State) :
    emit r s = { s with port := (emit r s).port, reports := (emit r s).reports, fault := (emit r s).fault, regs := { s.regs with flags := (emit r s).regs.flags } } := by
  unfold emit; repeat' split
  all_goals first | rfl | rw [capture_eq]

@[simp] theorem emit_clock (r : Report) (s : State) : (emit r s).clock = s.clock := by
  rw [emit_eq]
@[simp] theorem emit_slate (r : Report) (s : State) : (emit r s).slate = s.slate := by
  rw [emit_eq]
@[simp] theorem emit_resolver (r : Report) (s : State) : (emit r s).resolver = s.resolver := by
  rw [emit_eq]
@[simp] theorem emit_voices (r : Report) (s : State) : (emit r s).voices = s.voices := by
  rw [emit_eq]
@[simp] theorem emit_startOrder (r : Report) (s : State) : (emit r s).startOrder = s.startOrder := by
  rw [emit_eq]
@[simp] theorem emit_schedule (r : Report) (s : State) : (emit r s).schedule = s.schedule := by
  rw [emit_eq]
@[simp] theorem emit_trigger (r : Report) (s : State) : (emit r s).trigger = s.trigger := by
  rw [emit_eq]
@[simp] theorem emit_cache (r : Report) (s : State) : (emit r s).cache = s.cache := by
  rw [emit_eq]
@[simp] theorem emit_mix (r : Report) (s : State) : (emit r s).mix = s.mix := by
  rw [emit_eq]
@[simp] theorem emit_run (r : Report) (s : State) : (emit r s).run = s.run := by
  rw [emit_eq]
@[simp] theorem emit_tally (r : Report) (s : State) : (emit r s).tally = s.tally := by
  rw [emit_eq]
@[simp] theorem emit_mem (r : Report) (s : State) : (emit r s).mem = s.mem := by
  rw [emit_eq]
@[simp] theorem emit_free (r : Report) (s : State) : (emit r s).free = s.free := by
  rw [emit_eq]
@[simp] theorem emit_pending (r : Report) (s : State) : (emit r s).pending = s.pending := by
  rw [emit_eq]

/-- The completion write is placed. -/
theorem placeCompletion_eq (h : Held) (s : State) :
    placeCompletion h s = { s with port := (placeCompletion h s).port } := by
  unfold placeCompletion; split <;> rfl

@[simp] theorem placeCompletion_clock (h : Held) (s : State) : (placeCompletion h s).clock = s.clock := by
  rw [placeCompletion_eq]
@[simp] theorem placeCompletion_regs (h : Held) (s : State) : (placeCompletion h s).regs = s.regs := by
  rw [placeCompletion_eq]
@[simp] theorem placeCompletion_slate (h : Held) (s : State) : (placeCompletion h s).slate = s.slate := by
  rw [placeCompletion_eq]
@[simp] theorem placeCompletion_resolver (h : Held) (s : State) : (placeCompletion h s).resolver = s.resolver := by
  rw [placeCompletion_eq]
@[simp] theorem placeCompletion_voices (h : Held) (s : State) : (placeCompletion h s).voices = s.voices := by
  rw [placeCompletion_eq]
@[simp] theorem placeCompletion_startOrder (h : Held) (s : State) : (placeCompletion h s).startOrder = s.startOrder := by
  rw [placeCompletion_eq]
@[simp] theorem placeCompletion_schedule (h : Held) (s : State) : (placeCompletion h s).schedule = s.schedule := by
  rw [placeCompletion_eq]
@[simp] theorem placeCompletion_trigger (h : Held) (s : State) : (placeCompletion h s).trigger = s.trigger := by
  rw [placeCompletion_eq]
@[simp] theorem placeCompletion_cache (h : Held) (s : State) : (placeCompletion h s).cache = s.cache := by
  rw [placeCompletion_eq]
@[simp] theorem placeCompletion_mix (h : Held) (s : State) : (placeCompletion h s).mix = s.mix := by
  rw [placeCompletion_eq]
@[simp] theorem placeCompletion_run (h : Held) (s : State) : (placeCompletion h s).run = s.run := by
  rw [placeCompletion_eq]
@[simp] theorem placeCompletion_tally (h : Held) (s : State) : (placeCompletion h s).tally = s.tally := by
  rw [placeCompletion_eq]
@[simp] theorem placeCompletion_reports (h : Held) (s : State) : (placeCompletion h s).reports = s.reports := by
  rw [placeCompletion_eq]
@[simp] theorem placeCompletion_fault (h : Held) (s : State) : (placeCompletion h s).fault = s.fault := by
  rw [placeCompletion_eq]
@[simp] theorem placeCompletion_mem (h : Held) (s : State) : (placeCompletion h s).mem = s.mem := by
  rw [placeCompletion_eq]
@[simp] theorem placeCompletion_free (h : Held) (s : State) : (placeCompletion h s).free = s.free := by
  rw [placeCompletion_eq]
@[simp] theorem placeCompletion_pending (h : Held) (s : State) : (placeCompletion h s).pending = s.pending := by
  rw [placeCompletion_eq]

/-- A result changes the held slots and the port. -/
theorem giveResult_eq (i : Nat) (r : ResultCode) (d : List Byte) (s : State) :
    giveResult i r d s = { s with port := (giveResult i r d s).port, slate := { s.slate with held := (giveResult i r d s).slate.held } } := by
  unfold giveResult; dsimp only; repeat' split
  all_goals rfl

@[simp] theorem giveResult_clock (i : Nat) (r : ResultCode) (d : List Byte) (s : State) : (giveResult i r d s).clock = s.clock := by
  rw [giveResult_eq]
@[simp] theorem giveResult_regs (i : Nat) (r : ResultCode) (d : List Byte) (s : State) : (giveResult i r d s).regs = s.regs := by
  rw [giveResult_eq]
@[simp] theorem giveResult_resolver (i : Nat) (r : ResultCode) (d : List Byte) (s : State) : (giveResult i r d s).resolver = s.resolver := by
  rw [giveResult_eq]
@[simp] theorem giveResult_voices (i : Nat) (r : ResultCode) (d : List Byte) (s : State) : (giveResult i r d s).voices = s.voices := by
  rw [giveResult_eq]
@[simp] theorem giveResult_startOrder (i : Nat) (r : ResultCode) (d : List Byte) (s : State) : (giveResult i r d s).startOrder = s.startOrder := by
  rw [giveResult_eq]
@[simp] theorem giveResult_schedule (i : Nat) (r : ResultCode) (d : List Byte) (s : State) : (giveResult i r d s).schedule = s.schedule := by
  rw [giveResult_eq]
@[simp] theorem giveResult_trigger (i : Nat) (r : ResultCode) (d : List Byte) (s : State) : (giveResult i r d s).trigger = s.trigger := by
  rw [giveResult_eq]
@[simp] theorem giveResult_cache (i : Nat) (r : ResultCode) (d : List Byte) (s : State) : (giveResult i r d s).cache = s.cache := by
  rw [giveResult_eq]
@[simp] theorem giveResult_mix (i : Nat) (r : ResultCode) (d : List Byte) (s : State) : (giveResult i r d s).mix = s.mix := by
  rw [giveResult_eq]
@[simp] theorem giveResult_run (i : Nat) (r : ResultCode) (d : List Byte) (s : State) : (giveResult i r d s).run = s.run := by
  rw [giveResult_eq]
@[simp] theorem giveResult_tally (i : Nat) (r : ResultCode) (d : List Byte) (s : State) : (giveResult i r d s).tally = s.tally := by
  rw [giveResult_eq]
@[simp] theorem giveResult_reports (i : Nat) (r : ResultCode) (d : List Byte) (s : State) : (giveResult i r d s).reports = s.reports := by
  rw [giveResult_eq]
@[simp] theorem giveResult_fault (i : Nat) (r : ResultCode) (d : List Byte) (s : State) : (giveResult i r d s).fault = s.fault := by
  rw [giveResult_eq]
@[simp] theorem giveResult_mem (i : Nat) (r : ResultCode) (d : List Byte) (s : State) : (giveResult i r d s).mem = s.mem := by
  rw [giveResult_eq]
@[simp] theorem giveResult_free (i : Nat) (r : ResultCode) (d : List Byte) (s : State) : (giveResult i r d s).free = s.free := by
  rw [giveResult_eq]
@[simp] theorem giveResult_pending (i : Nat) (r : ResultCode) (d : List Byte) (s : State) : (giveResult i r d s).pending = s.pending := by
  rw [giveResult_eq]

/-- Decoding the head of the intake queue changes the queue, the held slots and the port. -/
theorem settleQueue_eq (l : List Taken) : ∀ s : State, settleQueue l s = { s with
    port := (settleQueue l s).port, slate := { s.slate with
      held := (settleQueue l s).slate.held, queue := (settleQueue l s).slate.queue } } := by
  induction l with
  | nil => intro s; rfl
  | cons t l ih =>
    intro s; unfold settleQueue; split
    · rfl
    · rw [ih]; conv => lhs; rw [giveResult_eq]
      conv => rhs; rw [giveResult_eq]

@[simp] theorem settleQueue_clock (l : List Taken) (s : State) : (settleQueue l s).clock = s.clock := by
  rw [settleQueue_eq]
@[simp] theorem settleQueue_regs (l : List Taken) (s : State) : (settleQueue l s).regs = s.regs := by
  rw [settleQueue_eq]
@[simp] theorem settleQueue_resolver (l : List Taken) (s : State) : (settleQueue l s).resolver = s.resolver := by
  rw [settleQueue_eq]
@[simp] theorem settleQueue_voices (l : List Taken) (s : State) : (settleQueue l s).voices = s.voices := by
  rw [settleQueue_eq]
@[simp] theorem settleQueue_startOrder (l : List Taken) (s : State) : (settleQueue l s).startOrder = s.startOrder := by
  rw [settleQueue_eq]
@[simp] theorem settleQueue_schedule (l : List Taken) (s : State) : (settleQueue l s).schedule = s.schedule := by
  rw [settleQueue_eq]
@[simp] theorem settleQueue_trigger (l : List Taken) (s : State) : (settleQueue l s).trigger = s.trigger := by
  rw [settleQueue_eq]
@[simp] theorem settleQueue_cache (l : List Taken) (s : State) : (settleQueue l s).cache = s.cache := by
  rw [settleQueue_eq]
@[simp] theorem settleQueue_mix (l : List Taken) (s : State) : (settleQueue l s).mix = s.mix := by
  rw [settleQueue_eq]
@[simp] theorem settleQueue_run (l : List Taken) (s : State) : (settleQueue l s).run = s.run := by
  rw [settleQueue_eq]
@[simp] theorem settleQueue_tally (l : List Taken) (s : State) : (settleQueue l s).tally = s.tally := by
  rw [settleQueue_eq]
@[simp] theorem settleQueue_reports (l : List Taken) (s : State) : (settleQueue l s).reports = s.reports := by
  rw [settleQueue_eq]
@[simp] theorem settleQueue_fault (l : List Taken) (s : State) : (settleQueue l s).fault = s.fault := by
  rw [settleQueue_eq]
@[simp] theorem settleQueue_mem (l : List Taken) (s : State) : (settleQueue l s).mem = s.mem := by
  rw [settleQueue_eq]
@[simp] theorem settleQueue_free (l : List Taken) (s : State) : (settleQueue l s).free = s.free := by
  rw [settleQueue_eq]
@[simp] theorem settleQueue_pending (l : List Taken) (s : State) : (settleQueue l s).pending = s.pending := by
  rw [settleQueue_eq]

/-- The regs keep everything but the flags. -/
theorem emit_part (r : Report) (s : State) : (emit r s).regs.part = s.regs.part := by rw [emit_eq]

theorem captureJob_part (k : FaultKind) (j : Job) (s : State) : (captureJob k j s).regs.part = s.regs.part := by
  rw [captureJob_eq]

end Sys2Proof.Machine
end

