-- ==== Sys2Proof/Laws/Voices.lean ====
section
/-! SUPPORT. What each operation of the Voice Array does to the contents of the voices. -/

namespace Sys2Proof.Machine

/-! ### One voice -/

/-- A voice after another was put. -/
theorem voices_set (x : Voice) (y : Vector Voice 24) (v w : Fin 24) : (y.set v x)[w] = if w = v then x else y[w] := by
  simp only [Fin.getElem_fin]
  rw [Vector.getElem_set]
  by_cases h : v = w
  · subst h; simp
  · rw [if_neg (fun e => h (Fin.ext e)), if_neg (fun e => h e.symm)]

@[simp] theorem setVoice_at (v w : Fin 24) (x : Voice) (s : State) :
    (setVoice v x s).voice w = if w = v then x else s.voice w := voices_set x s.voices v w

theorem setVoice_self (v : Fin 24) (x : Voice) (s : State) : (setVoice v x s).voice v = x := by simp

theorem setVoice_other {v w : Fin 24} (x : Voice) (s : State) (h : w ≠ v) : (setVoice v x s).voice w = s.voice w := by
  simp [h]

@[simp] theorem setContent_at (v w : Fin 24) (c : Content) (s : State) :
    ((setContent v c s).voice w).content = if w = v then c else (s.voice w).content := by
  unfold setContent; rw [setVoice_at]; split <;> rfl

/-- States with the same voices have the same record of each. -/
theorem voice_of_voices {s t : State} (h : t.voices = s.voices) (v : Fin 24) : t.voice v = s.voice v := by
  unfold State.voice; rw [h]

@[simp] theorem place_voice (j : Job) (s : State) (v : Fin 24) : (place j s).voice v = s.voice v := rfl
@[simp] theorem placeFaultRecord_voice (s : State) (v : Fin 24) : (placeFaultRecord s).voice v = s.voice v :=
  voice_of_voices (placeFaultRecord_voices s) v
@[simp] theorem captureJob_voice (k : FaultKind) (j : Job) (s : State) (v : Fin 24) :
    (captureJob k j s).voice v = s.voice v := voice_of_voices (captureJob_voices k j s) v
@[simp] theorem emit_voice (r : Report) (s : State) (v : Fin 24) : (emit r s).voice v = s.voice v :=
  voice_of_voices (emit_voices r s) v
@[simp] theorem tell_voices (p : Playing) (r : Report) (s : State) : (tell p r s).voices = s.voices := by
  unfold tell; split <;> simp
@[simp] theorem tell_voice (p : Playing) (r : Report) (s : State) (v : Fin 24) : (tell p r s).voice v = s.voice v :=
  voice_of_voices (tell_voices p r s) v
@[simp] theorem tell_startOrder (p : Playing) (r : Report) (s : State) : (tell p r s).startOrder = s.startOrder := by
  unfold tell; split <;> simp
@[simp] theorem emitEnded_voice (v : Fin 24) (c : Claim) (r : EndReason) (b : Bool) (s : State) (w : Fin 24) :
    (emitEnded v c r b s).voice w = s.voice w := emit_voice _ _ _
@[simp] theorem giveResult_voice (i : Nat) (r : ResultCode) (d : List Byte) (s : State) (v : Fin 24) :
    (giveResult i r d s).voice v = s.voice v := voice_of_voices (giveResult_voices i r d s) v
@[simp] theorem settleQueue_voice (l : List Taken) (s : State) (v : Fin 24) : (settleQueue l s).voice v = s.voice v :=
  voice_of_voices (settleQueue_voices l s) v
@[simp] theorem mapDucks_voice (f : Fin 4 → Duck → Duck) (s : State) (v : Fin 24) :
    (mapDucks f s).voice v = s.voice v := rfl
@[simp] theorem rejudgeDucks_voice (s : State) (v : Fin 24) : (rejudgeDucks s).voice v = s.voice v := rfl
@[simp] theorem unkeyDucks_voice (u : Fin 24) (s : State) (v : Fin 24) : (unkeyDucks u s).voice v = s.voice v := rfl
@[simp] theorem leaveOrder_voice (u : Fin 24) (s : State) (v : Fin 24) : (leaveOrder u s).voice v = s.voice v := rfl
@[simp] theorem rejudgeDucks_voices (s : State) : (rejudgeDucks s).voices = s.voices := rfl
@[simp] theorem unkeyDucks_voices (v : Fin 24) (s : State) : (unkeyDucks v s).voices = s.voices := rfl
@[simp] theorem keyDucks_voices (v : Fin 24) (r : DuckRole) (s : State) : (keyDucks v r s).voices = s.voices := by
  unfold keyDucks; split <;> rfl
@[simp] theorem keyDucks_voice (v : Fin 24) (r : DuckRole) (s : State) (w : Fin 24) :
    (keyDucks v r s).voice w = s.voice w := voice_of_voices (keyDucks_voices v r s) w
@[simp] theorem keyDucks_startOrder (v : Fin 24) (r : DuckRole) (s : State) :
    (keyDucks v r s).startOrder = s.startOrder := by unfold keyDucks; split <;> rfl
@[simp] theorem rejudgeDucks_startOrder (s : State) : (rejudgeDucks s).startOrder = s.startOrder := rfl
@[simp] theorem unkeyDucks_startOrder (v : Fin 24) (s : State) : (unkeyDucks v s).startOrder = s.startOrder := rfl

@[simp] theorem goIdle_at (v w : Fin 24) (e : Half × Bool) (s : State) :
    ((goIdle v e s).voice w) =
      if w = v then { (s.voice v).toIdle with lastEnd := some e } else s.voice w := by
  unfold goIdle; rw [unkeyDucks_voice, setVoice_at]

theorem goIdle_content (v w : Fin 24) (e : Half × Bool) (s : State) :
    ((goIdle v e s).voice w).content = if w = v then .idle else (s.voice w).content := by
  rw [goIdle_at]; split <;> rfl

@[simp] theorem goIdle_startOrder (v : Fin 24) (e : Half × Bool) (s : State) :
    (goIdle v e s).startOrder = s.startOrder := rfl

@[simp] theorem emitEnded_voices (v : Fin 24) (c : Claim) (r : EndReason) (b : Bool) (s : State) :
    (emitEnded v c r b s).voices = s.voices := emit_voices _ _

@[simp] theorem emitEnded_startOrder (v : Fin 24) (c : Claim) (r : EndReason) (b : Bool) (s : State) :
    (emitEnded v c r b s).startOrder = s.startOrder := emit_startOrder _ _

/-! ### Withdrawal -/

theorem withdraw_content (v w : Fin 24) (s : State) :
    ((withdraw v s).voice w).content =
      if w = v then (s.voice v).content.afterWithdraw else (s.voice w).content := by
  unfold withdraw; dsimp only
  split <;> rename_i h
  · rw [goIdle_content, h]; rfl
  · rw [goIdle_content, h]; rfl
  · rw [keyDucks_voice, setVoice_at, h]; split <;> rfl
  · split
    · next e =>
      subst e
      cases hc : (s.voice w).content <;> simp_all [Content.afterWithdraw]
    · rfl

/-- A withdrawal leaves every other voice alone. -/
theorem withdraw_other {v w : Fin 24} (s : State) (h : w ≠ v) : ((withdraw v s).voice w) = s.voice w := by
  unfold withdraw; dsimp only
  split
  · rw [goIdle_at, if_neg h]
  · rw [goIdle_at, if_neg h]
  · rw [keyDucks_voice, setVoice_at, if_neg h]
  · rfl

@[simp] theorem withdraw_startOrder (v : Fin 24) (s : State) : (withdraw v s).startOrder = s.startOrder := by
  unfold withdraw; dsimp only; split <;> simp

/-- A withdrawal leaves a content without an unsounded claim. -/
theorem afterWithdraw_incoming (c : Content) : c.afterWithdraw.incoming = none := by cases c <;> rfl

theorem afterWithdraw_of_none {c : Content} (h : c.incoming = none) : c.afterWithdraw = c := by
  cases c <;> simp_all [Content.incoming, Content.afterWithdraw]

theorem withdrawEnded_content (v w : Fin 24) (r : EndReason) (s : State) :
    ((withdrawEnded v r s).voice w).content =
      if w = v then (s.voice v).content.afterWithdraw else (s.voice w).content := by
  unfold withdrawEnded; split
  · rw [emitEnded_voice, withdraw_content]
  · next h =>
    split
    · next e => subst e; rw [afterWithdraw_of_none h]
    · rfl

@[simp] theorem withdrawEnded_startOrder (v : Fin 24) (r : EndReason) (s : State) :
    (withdrawEnded v r s).startOrder = s.startOrder := by unfold withdrawEnded; split <;> simp

theorem withdrawEnded_other {v w : Fin 24} (r : EndReason) (s : State) (h : w ≠ v) :
    ((withdrawEnded v r s).voice w) = s.voice w := by
  unfold withdrawEnded; split
  · rw [emitEnded_voice, withdraw_other s h]
  · rfl

/-! ### Cancelled followers -/

/-- One voice after follow-on cancellation: it loses a claim that follows `(v, n)`. -/
theorem cancelFollower_content (v : Fin 24) (n : Half) (s : State) (u w : Fin 24) :
    ((cancelFollower v n s u).voice w).content =
      if w = u ∧ ((s.voice u).content.incoming.elim false fun i => i.follows v n) = true then
        (s.voice u).content.afterWithdraw
      else (s.voice w).content := by
  unfold cancelFollower; split <;> rename_i h
  · split
    · next hf =>
      rw [emit_voice, withdraw_content]
      by_cases e : w = u <;> simp [e, h, hf]
    · next hf =>
      by_cases e : w = u <;> simp [e, h, hf]
  · by_cases e : w = u <;> simp [e, h]

@[simp] theorem cancelFollower_startOrder (v : Fin 24) (n : Half) (s : State) (u : Fin 24) :
    (cancelFollower v n s u).startOrder = s.startOrder := by
  unfold cancelFollower; split
  · split <;> simp
  · rfl

@[simp] theorem cancelFollowers_startOrder (v : Fin 24) (n : Half) (s : State) :
    (cancelFollowers v n s).startOrder = s.startOrder := by
  unfold cancelFollowers
  generalize allVoices = l
  induction l generalizing s with
  | nil => rfl
  | cons u l ih => rw [List.foldl_cons, ih, cancelFollower_startOrder]

/-- Every voice after follow-on cancellation has its content, or that without the unsounded claim. -/
theorem cancelFollowers_content (v : Fin 24) (n : Half) (s : State) (w : Fin 24) :
    ((cancelFollowers v n s).voice w).content = (s.voice w).content
      ∨ ((cancelFollowers v n s).voice w).content = (s.voice w).content.afterWithdraw := by
  unfold cancelFollowers
  generalize allVoices = l
  induction l generalizing s with
  | nil => exact .inl rfl
  | cons u l ih =>
    rw [List.foldl_cons]
    have aw : ∀ c : Content, c.afterWithdraw.afterWithdraw = c.afterWithdraw := fun c => by cases c <;> rfl
    have h := cancelFollower_content v n s u w
    split at h
    · next e =>
      rcases ih (cancelFollower v n s u) with h' | h'
      · right; rw [h', h, e.1]
      · right; rw [h', h, e.1, aw]
    · rcases ih (cancelFollower v n s u) with h' | h'
      · left; rw [h', h]
      · right; rw [h', h]

/-- A voice that follows nobody keeps its record under follow-on cancellation. -/
theorem cancelFollowers_other (v : Fin 24) (n : Half) (s : State) (w : Fin 24)
    (h : ((s.voice w).content.incoming.elim false fun i => i.follows v n) = false) :
    ((cancelFollowers v n s).voice w) = s.voice w := by
  unfold cancelFollowers
  generalize allVoices = l
  induction l generalizing s with
  | nil => rfl
  | cons u l ih =>
    rw [List.foldl_cons]
    have e : ((cancelFollower v n s u).voice w) = s.voice w := by
      unfold cancelFollower; split
      · next i hi =>
        split
        · next hf =>
          have : w ≠ u := by
            intro e; subst e; rw [hi] at h; simp [hf] at h
          rw [emit_voice, withdraw_other s this]
        · rfl
      · rfl
    rw [ih _ (by rw [e]; exact h), e]

/-! ### Releases -/

theorem endRelease_content (v w : Fin 24) (p : Playing) (s : State) :
    ((endRelease v p s).voice w).content = if w = v then .idle else (s.voice w).content := by
  unfold endRelease; dsimp only; split
  · rw [tell_voice, goIdle_content]
  · rw [goIdle_content]

@[simp] theorem endRelease_startOrder (v : Fin 24) (p : Playing) (s : State) :
    (endRelease v p s).startOrder = s.startOrder := by unfold endRelease; dsimp only; split <;> simp

@[simp] theorem releaseSounding_startOrder (v : Fin 24) (p : Playing) (l : Nat) (r : EndReason) (s : State) :
    (releaseSounding v p l r s).startOrder = s.startOrder.erase v := by
  unfold releaseSounding; dsimp only; split <;> simp

theorem releaseSounding_self (v : Fin 24) (p : Playing) (l : Nat) (r : EndReason) (s : State) :
    ((releaseSounding v p l r s).voice v).content = p.released l r := by
  unfold releaseSounding Playing.released; dsimp only; split
  · rw [emitEnded_voice, cancelFollowers_other, goIdle_content, if_pos rfl]
    rw [goIdle_content, if_pos rfl]; rfl
  · rw [cancelFollowers_other, setContent_at, if_pos rfl]
    rw [setContent_at, if_pos rfl]; rfl

theorem releaseSounding_content (v w : Fin 24) (p : Playing) (l : Nat) (r : EndReason) (s : State) (h : w ≠ v) :
    ((releaseSounding v p l r s).voice w).content = (s.voice w).content
      ∨ ((releaseSounding v p l r s).voice w).content = (s.voice w).content.afterWithdraw := by
  unfold releaseSounding; dsimp only; split
  · rw [emitEnded_voice]
    have := cancelFollowers_content v p.claim.number (goIdle v (p.claim.number, false) (leaveOrder v s)) w
    rwa [goIdle_content, if_neg h] at this
  · have := cancelFollowers_content v p.claim.number
      (setContent v (.releasing { p with fade := .release p.fadeValue l 0, endReason := some r }) (leaveOrder v s)) w
    rwa [setContent_at, if_neg h] at this

theorem shortenRelease_content (v w : Fin 24) (p : Playing) (l : Nat) (s : State)
    (h : (s.voice v).content = .releasing p) :
    ((shortenRelease v p l s).voice w).content = if w = v then p.shortened l else (s.voice w).content := by
  unfold shortenRelease Playing.shortened
  by_cases e : w = v
  · subst e
    simp only [if_true]
    repeat' split
    · rw [endRelease_content, if_pos rfl]
    · rw [setContent_at, if_pos rfl]
    · exact h
  · simp only [if_neg e]
    repeat' split
    · rw [endRelease_content, if_neg e]
    · rw [setContent_at, if_neg e]
    · rfl

@[simp] theorem shortenRelease_startOrder (v : Fin 24) (p : Playing) (l : Nat) (s : State) :
    (shortenRelease v p l s).startOrder = s.startOrder := by
  unfold shortenRelease; repeat' split
  all_goals simp

theorem releaseNow_self (v : Fin 24) (r : EndReason) (length : Playing → Nat) (shorten : Bool) (s : State) :
    ((releaseNow v r length shorten s).voice v).content = (s.voice v).content.afterRelease r length shorten := by
  unfold releaseNow
  split <;> rename_i h
  · rw [h]; rfl
  · rw [withdrawEnded_content, if_pos rfl, h]; rfl
  · rw [withdrawEnded_content, if_pos rfl, h]; rfl
  · rw [releaseSounding_self, h]; rfl
  · rw [h]; simp only [Content.afterRelease]; split
    · rw [shortenRelease_content _ _ _ _ _ h, if_pos rfl]
    · exact h
  · rename_i p _ _
    have hw : ((withdrawEnded v r s).voice v).content = .releasing p := by
      rw [withdrawEnded_content, if_pos rfl, h]; rfl
    rw [h]; simp only [Content.afterRelease]; split
    · rw [shortenRelease_content _ _ _ _ _ hw, if_pos rfl]
    · exact hw

theorem releaseNow_other (v w : Fin 24) (r : EndReason) (length : Playing → Nat) (shorten : Bool) (s : State)
    (hw : w ≠ v) :
    ((releaseNow v r length shorten s).voice w).content = (s.voice w).content
      ∨ ((releaseNow v r length shorten s).voice w).content = (s.voice w).content.afterWithdraw := by
  unfold releaseNow
  split <;> rename_i h
  · exact .inl rfl
  · rw [withdrawEnded_content, if_neg hw]; exact .inl rfl
  · rw [withdrawEnded_content, if_neg hw]; exact .inl rfl
  · exact releaseSounding_content _ _ _ _ _ _ hw
  · left; split
    · rw [shortenRelease_content _ _ _ _ _ h, if_neg hw]
    · rfl
  · rename_i p _ _
    have hr : ((withdrawEnded v r s).voice v).content = .releasing p := by
      rw [withdrawEnded_content, if_pos rfl, h]; rfl
    left; dsimp only; split
    · rw [shortenRelease_content _ _ _ _ _ hr, if_neg hw, withdrawEnded_content, if_neg hw]
    · rw [withdrawEnded_content, if_neg hw]

/-! ### Claims that sound -/

/-- The claim that sounds on a voice that has entered SOUNDING. -/
def Content.soundingClaim : Content → Option Claim
  | .sounding p => if p.entry.isNone then some p.claim else none
  | _ => none

theorem soundingClaim_afterWithdraw (c : Content) : c.afterWithdraw.soundingClaim = c.soundingClaim := by cases c <;> rfl

theorem soundingClaim_withdrawEnded (v : Fin 24) (r : EndReason) (s : State) (w : Fin 24) :
    ((withdrawEnded v r s).voice w).content.soundingClaim = (s.voice w).content.soundingClaim := by
  rw [withdrawEnded_content]; split
  · next e => rw [soundingClaim_afterWithdraw, e]
  · rfl

theorem soundingClaim_releaseSounding (v : Fin 24) (p : Playing) (l : Nat) (r : EndReason) (s : State) (w : Fin 24) :
    ((releaseSounding v p l r s).voice w).content.soundingClaim =
      if w = v then none else (s.voice w).content.soundingClaim := by
  split
  · next e => subst e; rw [releaseSounding_self]; unfold Playing.released; split <;> rfl
  · next e =>
    rcases releaseSounding_content v w p l r s e with h | h <;> rw [h]
    exact soundingClaim_afterWithdraw _

end Sys2Proof.Machine
end

