-- ==== Sys2Proof/Laws/Moves.lean ====
section
/-! SUPPORT. What a step can do, said once: every operation is a chain of the `Update`s listed
here and of entries into SOUNDING, each an update of one block with what the update keeps. The invariants follow from the list alone. -/

namespace Sys2Proof.Machine

/-- The slots held. -/
def SlateUnit.slots (x : SlateUnit) : List Nat := x.held.map fun h => h.taken.slot

/-- The leaders of the waiting follow-on requests. -/
def Resolver.leaders (x : Resolver) : List (Fin 24) := x.follows.map FollowOn.leader

/-- The bounds of a head cache. -/
def cacheFits (c : List CacheEntry) : Prop := c.length ≤ 16 ∧ (c.map CacheEntry.address).Nodup

/-- The bounds of the Report Unit's list and counts. -/
def reportsFit (r : ReportUnit) : Prop := r.holdList.length ≤ 16 ∧ r.drops ≤ 65535 ∧ r.lost ≤ 255

/-- The duck offsets of a Mix Engine lie in their range. -/
def offsetsFit (d : Vector Duck 4) : Prop := ∀ g : Fin 4, -(d[g].depth : Int) ≤ d[g].offset ∧ d[g].offset ≤ 0

/-- The bus samples of a Mix Engine lie in their range. -/
def sidesFit (x : Vector Bus 4) : Prop :=
  ∀ b : Fin 4, (-8388608 ≤ x[b].left ∧ x[b].left ≤ 8388607) ∧ (-8388608 ≤ x[b].right ∧ x[b].right ≤ 8388607)

/-- One update of one block. -/
inductive Update : State → State → Prop
  | mem (s : State) (m : List Host.Cell) (h : Memory.wf s.mem = true → Memory.wf m = true) : Update s { s with mem := m }
  | clock (s : State) (c : Clock) : Update s { s with clock := c }
  | regs (s : State) (r : Registers) : Update s { s with regs := r }
  | slate (s : State) (x : SlateUnit) (h : s.slate.slots.Nodup → x.slots.Nodup) : Update s { s with slate := x }
  | resolver (s : State) (x : Resolver) (h : s.resolver.lines.length ≤ 16 → x.lines.length ≤ 16)
      (h' : s.resolver.leaders.Nodup → x.leaders.Nodup) : Update s { s with resolver := x }
  | voice (s : State) (v : Fin 24) (x : Voice) (h : x.content.soundingClaim = (s.voice v).content.soundingClaim) :
      Update s (setVoice v x s)
  | each (s : State) (x : Vector Voice 24)
      (h : ∀ v : Fin 24, x[v].content.soundingClaim = (s.voice v).content.soundingClaim) : Update s { s with voices := x }
  | leave (s : State) (v : Fin 24) (x : Voice) (h : x.content.soundingClaim = none) :
      Update s (setVoice v x (leaveOrder v s))
  | clear (s : State) : Update s { s with voices := Vector.replicate 24 Voice.reset, startOrder := [] }
  | schedule (s : State) (x : Schedule) (h : s.schedule.entries.length ≤ 64 → x.entries.length ≤ 64) :
      Update s { s with schedule := x }
  | trigger (s : State) (x : Trigger) (h : s.trigger.queue.length ≤ 16 → x.queue.length ≤ 16) :
      Update s { s with trigger := x }
  | port (s : State) (p : Port) : Update s { s with port := p }
  | cache (s : State) (c : List CacheEntry) (h : cacheFits s.cache → cacheFits c) : Update s { s with cache := c }
  | mix (s : State) (m : Mix) (h : offsetsFit s.mix.ducks → offsetsFit m.ducks)
      (h' : sidesFit s.mix.buses → sidesFit m.buses) : Update s { s with mix := m }
  | run (s : State) (r : RunControl) : Update s { s with run := r }
  | tally (s : State) (x : Tally) : Update s { s with tally := x }
  | reports (s : State) (r : ReportUnit) (h : reportsFit s.reports → reportsFit r) : Update s { s with reports := r }
  | fault (s : State) (f : FaultCapture) (h : s.fault.further ≤ 255 → f.further ≤ 255) : Update s { s with fault := f }
  | free (s : State) (n : Nat) : Update s { s with free := n }

/-- A chain of updates. -/
abbrev Updates : State → State → Prop := Relation.ReflTransGen Update

theorem Updates.of {s t : State} (h : Update s t) : Updates s t := .single h

/-- A chain goes on: the last link first. -/
theorem Updates.then {a s t : State} (m : Updates s t) (h : Updates a s) : Updates a t := h.trans m

/-- A fold of operations that are chains of updates is one. -/
theorem updates_foldl {α : Type} (f : State → α → State) (h : ∀ t a, Updates t (f t a)) (l : List α) :
    ∀ s, Updates s (l.foldl f s) := by
  induction l with
  | nil => intro s; exact .refl
  | cons a l ih => intro s; exact (h s a).trans (ih _)

/-! ### The port -/

theorem updates_place (j : Job) (s : State) : Updates s (place j s) := .of (.port _ _)

theorem updates_refillPending (v : Fin 24) (b : Bool) (s : State) :
    Updates s (setVoice v { s.voice v with refillPending := b } s) := .of (.voice _ _ _ rfl)

theorem updates_dropRefill (j : Job) (s : State) : Updates s (dropRefill j s) := by
  unfold dropRefill; dsimp only; split
  · exact (Updates.of (.port s _)).trans (Updates.of (.voice _ _ _ rfl))
  · exact .of (.port _ _)

theorem updates_takeRefill (n : Nat) : ∀ s, Updates s (takeRefill n s).2 := by
  induction n with
  | zero => intro s; exact .refl
  | succ n ih =>
    intro s; unfold takeRefill; split
    · exact .refl
    · split
      · exact (updates_dropRefill _ _).trans (ih _)
      · exact .of (.port _ _)

theorem updates_takeNext (s : State) : Updates s (takeNext s) := by
  have h := updates_takeRefill s.port.refill.length s
  unfold takeNext
  split
  · next h' => rw [h'] at h; exact h.trans (Updates.of (.port _ _))
  · next h' =>
    rw [h'] at h
    dsimp only at h ⊢
    repeat' split
    all_goals first | exact h | exact h.trans (Updates.of (.port _ _))

theorem updates_arbitrate (s : State) : Updates s (arbitrate s) := by
  unfold arbitrate; split
  · exact .refl
  · exact updates_takeNext s

/-! ### Fault Capture and the Report Unit -/

theorem updates_placeFaultRecord (s : State) : Updates s (placeFaultRecord s) := by
  unfold placeFaultRecord; dsimp only; repeat' split
  · exact .of (.port _ _)
  · exact updates_place _ _
  · exact .refl

theorem updates_setFlags (f : BitVec 3) (s : State) : Updates s (setFlags f s) := Updates.of (.regs _ _)

theorem updates_capture (a : FaultSource) (k : FaultKind) (x d : Word) (s : State) : Updates s (capture a k x d s) := by
  unfold capture; split
  · exact (updates_placeFaultRecord _).then ((updates_setFlags _ _).then (Updates.of (.fault _ _ id)))
  · split
    · exact (updates_placeFaultRecord _).then (Updates.of (.fault _ _ fun _ => by dsimp only; omega))
    · exact .refl

theorem updates_captureJob (k : FaultKind) (j : Job) (s : State) : Updates s (captureJob k j s) := by
  unfold captureJob
  exact (Updates.of (.free s _)).trans (updates_capture _ _ _ _ _)

theorem updates_placeWrittenTo (s : State) : Updates s (placeWrittenTo s) := by
  unfold placeWrittenTo; dsimp only
  exact (updates_place _ _).then (Updates.of (.port _ _))

theorem updates_writeReport (r : Report) (s : State) : Updates s (writeReport r s) := by
  unfold writeReport; dsimp only
  refine .trans ?_ (updates_placeWrittenTo _)
  exact (updates_place _ s).trans (Updates.of (.reports (place _ s) _ id))

theorem updates_emit (r : Report) (s : State) : Updates s (emit r s) := by
  unfold emit
  repeat' split
  · exact .refl
  · exact updates_writeReport _ _
  · exact .of (.reports _ _ fun h => ⟨by simp, h.2⟩)
  · refine .of (.reports _ _ fun h => ⟨?_, h.2⟩)
    simp only [List.length_append, List.length_singleton]; omega
  · refine (updates_capture _ _ _ _ _).then (Updates.of (.reports _ _ fun h => ⟨h.1, h.2.1, ?_⟩))
    simp only [saturate]; omega
  · exact updates_writeReport _ _
  · refine .of (.reports _ _ fun h => ⟨h.1, ?_, h.2.2⟩)
    simp only [saturate]; omega

theorem updates_drainHoldList (l : List Report) : ∀ s, reportsFit s.reports → l.length ≤ 16 → Updates s (drainHoldList l s) := by
  induction l with
  | nil => intro s h _; exact .of (.reports _ _ fun h => ⟨by simp, h.2⟩)
  | cons r l ih =>
    intro s h hl; unfold drainHoldList
    simp only [List.length_cons] at hl
    split
    · exact (updates_writeReport r s).trans (ih _ h (by omega))
    · exact .of (.reports _ _ fun h => ⟨by simpa using hl, h.2⟩)

theorem updates_discardHoldList (s : State) : Updates s (discardHoldList s) :=
  .of (.reports _ _ fun h => ⟨by simp, h.2.1, by simp only [saturate]; omega⟩)

/-! ### Results -/

theorem slots_recordResult (i : Nat) (r : ResultCode) (d : List Byte) (l : List Held) :
    (recordResult i r d l).map (fun h => h.taken.slot) = l.map fun h => h.taken.slot := by
  induction l with
  | nil => rfl
  | cons h l ih =>
    unfold recordResult; split
    · split <;> rfl
    · simp [ih]

theorem updates_placeCompletion (h : Held) (s : State) : Updates s (placeCompletion h s) := by
  unfold placeCompletion; split
  · exact updates_place _ _
  · exact .refl

theorem updates_giveResult (i : Nat) (r : ResultCode) (d : List Byte) (s : State) : Updates s (giveResult i r d s) := by
  unfold giveResult; dsimp only; repeat' split
  · exact .refl
  · exact .refl
  · exact (Updates.of (.slate s _ (by simp [SlateUnit.slots, slots_recordResult]))).trans (updates_placeCompletion _ _)
  · exact .of (.slate s _ (by simp [SlateUnit.slots, slots_recordResult]))

theorem updates_settleQueue (l : List Taken) : ∀ s, Updates s (settleQueue l s) := by
  induction l with
  | nil => intro s; exact .of (.slate _ _ id)
  | cons t l ih =>
    intro s; unfold settleQueue; split
    · exact .of (.slate _ _ id)
    · exact (updates_giveResult _ _ _ _).trans (ih _)

theorem updates_popHead (s : State) : Updates s (popHead s) := .of (.slate _ _ id)

/-! ### Duck groups -/

theorem updates_mapDucks (f : Fin 4 → Duck → Duck) (s : State)
    (h : ∀ g d, -(d.depth : Int) ≤ d.offset ∧ d.offset ≤ 0 → -((f g d).depth : Int) ≤ (f g d).offset ∧ (f g d).offset ≤ 0) :
    Updates s (mapDucks f s) := by
  refine Updates.of (.mix _ _ (fun o g => ?_) id)
  simpa using h g _ (o g)

theorem updates_rejudgeDucks (s : State) : Updates s (rejudgeDucks s) := by
  refine updates_mapDucks _ _ fun g d h => ?_
  unfold Duck.rejudge; dsimp only; split <;> exact h

theorem updates_unkeyDucks (v : Fin 24) (s : State) : Updates s (unkeyDucks v s) :=
  (updates_rejudgeDucks _).then (updates_mapDucks _ _ fun _ _ h => h)

theorem updates_keyDucks (v : Fin 24) (r : DuckRole) (s : State) : Updates s (keyDucks v r s) := by
  unfold keyDucks; split
  · refine (updates_rejudgeDucks _).then (updates_mapDucks _ _ fun g d h => ?_)
    split <;> exact h
  · exact .refl

theorem updates_duckStep (g : Fin 4) (s : State) : Updates s (duckStep g s) := by
  unfold duckStep; split
  · refine Updates.of (.mix _ _ (fun o k => ?_) id)
    by_cases e : g = k
    · subst e
      have := o g
      simp only [Fin.getElem_fin, Vector.getElem_set_self, Duck.step, towards, Duck.target] at this ⊢
      repeat' split
      all_goals omega
    · have := o k
      simp only [Fin.getElem_fin] at this ⊢
      rw [Vector.getElem_set_ne _ _ (fun h => e (Fin.ext h))]
      exact this
  · exact .refl

/-! ### The Voice Array -/

theorem updates_setContent (v : Fin 24) (c : Content) (s : State)
    (h : c.soundingClaim = (s.voice v).content.soundingClaim) : Updates s (setContent v c s) := Updates.of (.voice _ _ _ h)

theorem updates_goIdle (v : Fin 24) (e : Half × Bool) (s : State) (h : (s.voice v).content.soundingClaim = none) :
    Updates s (goIdle v e s) := (updates_unkeyDucks _ _).then (Updates.of (.voice _ _ _ h.symm))

theorem updates_leaveIdle (v : Fin 24) (e : Half × Bool) (s : State) : Updates s (goIdle v e (leaveOrder v s)) :=
  (updates_unkeyDucks _ _).then (Updates.of (.leave _ _ _ rfl))

theorem updates_emitEnded (v : Fin 24) (c : Claim) (r : EndReason) (b : Bool) (s : State) :
    Updates s (emitEnded v c r b s) := updates_emit _ _

theorem updates_withdraw (v : Fin 24) (s : State) : Updates s (withdraw v s) := by
  unfold withdraw; dsimp only; split
  · exact updates_goIdle _ _ _ (by simp [*, Content.soundingClaim])
  · exact updates_goIdle _ _ _ (by simp [*, Content.soundingClaim])
  · exact (updates_keyDucks _ _ _).then (Updates.of (.voice _ _ _ (by simp [*, Content.soundingClaim])))
  · exact .refl

theorem updates_withdrawEnded (v : Fin 24) (r : EndReason) (s : State) : Updates s (withdrawEnded v r s) := by
  unfold withdrawEnded; split
  · exact (updates_emitEnded _ _ _ _ _).then (updates_withdraw _ _)
  · exact .refl

theorem updates_cancelFollower (v : Fin 24) (n : Half) (s : State) (w : Fin 24) : Updates s (cancelFollower v n s w) := by
  unfold cancelFollower; split
  · split
    · exact (updates_emit _ _).then (updates_withdraw _ _)
    · exact .refl
  · exact .refl

theorem updates_cancelFollowers (v : Fin 24) (n : Half) (s : State) : Updates s (cancelFollowers v n s) :=
  updates_foldl _ (fun t w => updates_cancelFollower v n t w) _ s

theorem updates_tell (p : Playing) (r : Report) (s : State) : Updates s (tell p r s) := by
  unfold tell; split
  · exact .refl
  · exact updates_emit _ _

theorem updates_endRelease (v : Fin 24) (p : Playing) (s : State) (h : (s.voice v).content.soundingClaim = none) :
    Updates s (endRelease v p s) := by
  unfold endRelease; dsimp only; split
  · exact (updates_tell _ _ _).then (updates_goIdle _ _ _ h)
  · exact updates_goIdle _ _ _ h

theorem updates_releaseSounding (v : Fin 24) (p : Playing) (l : Nat) (r : EndReason) (s : State) :
    Updates s (releaseSounding v p l r s) := by
  unfold releaseSounding; dsimp only; split
  · exact (updates_emitEnded _ _ _ _ _).then ((updates_cancelFollowers _ _ _).then (updates_leaveIdle _ _ _))
  · exact (updates_cancelFollowers _ _ _).then (Updates.of (.leave _ _ _ rfl))

theorem updates_shortenRelease (v : Fin 24) (p : Playing) (l : Nat) (s : State)
    (h : (s.voice v).content.soundingClaim = none) : Updates s (shortenRelease v p l s) := by
  unfold shortenRelease; repeat' split
  · exact updates_endRelease _ _ _ h
  · exact updates_setContent _ _ _ h.symm
  · exact .refl

/-! ### Follow-on requests -/

theorem leaders_placeFollow (f : FollowOn) (l : List FollowOn) (h : (l.map FollowOn.leader).Nodup) :
    ((placeFollow f l).map FollowOn.leader).Nodup
      ∧ ∀ x, x ∈ (placeFollow f l).map FollowOn.leader → x = f.leader ∨ x ∈ l.map FollowOn.leader := by
  induction l with
  | nil => simp [placeFollow]
  | cons g l ih =>
    rw [List.map_cons, List.nodup_cons] at h
    unfold placeFollow; split
    · next e =>
      rw [List.map_cons, ← e]
      exact ⟨List.nodup_cons.2 h, fun x hx => .inr (by simpa using hx)⟩
    · next e =>
      have ⟨h₁, h₂⟩ := ih h.2
      rw [List.map_cons]
      refine ⟨List.nodup_cons.2 ⟨fun hm => ?_, h₁⟩, fun x hx => ?_⟩
      · rcases h₂ _ hm with h' | h'
        · exact e h'
        · exact h.1 h'
      · rcases List.mem_cons.1 hx with h' | h'
        · exact .inr (by simp [h'])
        · exact (h₂ x h').imp id (fun h => List.mem_cons_of_mem _ h)

theorem updates_testFollow (v : Fin 24) (s : State) : Updates s (testFollow v s) := by
  unfold testFollow; split
  · next p hp =>
    split
    · dsimp only
      refine Updates.then (Updates.of (.resolver (setContent v (.sounding { p with followPlaced := true }) s) _ ?_ ?_))
        (updates_setContent v _ s (by rw [hp]; rfl))
      · exact id
      · exact fun h => (leaders_placeFollow _ _ h).1
    · exact .refl
  · exact .refl

/-! ### Kicks -/

theorem updates_kick (v : Fin 24) (g : Nat) (s : State) (w : Fin 24) : Updates s (kick v g s w) := by
  unfold kick; repeat' split
  · exact .refl
  · exact updates_releaseSounding _ _ _ _ _
  · exact .refl
  · exact .refl

theorem updates_kickOthers (v : Fin 24) (g : Nat) (s : State) : Updates s (kickOthers v g s) := by
  unfold kickOthers; split
  · exact .refl
  · exact updates_foldl _ (fun t w => updates_kick v g t w) _ s

/-! ### Moves: updates, and the entry into SOUNDING with its kicks -/

/-- One update, or an entry into SOUNDING with its kicks. -/
inductive Move : State → State → Prop
  | update {s t : State} (m : Update s t) : Move s t
  | enter (s : State) (v : Fin 24) (x : Voice) (p : Playing) (h : (s.voice v).content.soundingClaim = none)
      (hx : x.content = .sounding p) (hp : p.entry = none) :
      Move s (kickOthers v p.sound.group { setVoice v x s with startOrder := s.startOrder ++ [v] })

/-- A chain of moves. -/
abbrev Moves : State → State → Prop := Relation.ReflTransGen Move

theorem Moves.of {s t : State} (h : Update s t) : Moves s t := .single (.update h)

/-- A chain of updates is one of moves. -/
theorem Moves.lift {s t : State} (h : Updates s t) : Moves s t :=
  Relation.ReflTransGen.lift (r := Update) (p := Move) id (fun _ _ m => Move.update m) _ _ h

/-- A chain goes on: the last link first. -/
theorem Moves.then {a s t : State} (m : Moves s t) (h : Moves a s) : Moves a t := h.trans m

/-- A fold of operations that are chains of moves is one. -/
theorem moves_foldl {α : Type} (f : State → α → State) (h : ∀ t a, Moves t (f t a)) (l : List α) :
    ∀ s, Moves s (l.foldl f s) := by
  induction l with
  | nil => intro s; exact .refl
  | cons a l ih => intro s; exact (h s a).trans (ih _)

theorem moves_place (j : Job) (s : State) : Moves s (place j s) := .lift (updates_place j s)
theorem moves_refillPending (v : Fin 24) (b : Bool) (s : State) :
    Moves s (setVoice v { s.voice v with refillPending := b } s) := .lift (updates_refillPending v b s)
theorem moves_dropRefill (j : Job) (s : State) : Moves s (dropRefill j s) := .lift (updates_dropRefill j s)
theorem moves_takeRefill (n : Nat) : ∀ s, Moves s (takeRefill n s).2 := fun s => .lift (updates_takeRefill n s)
theorem moves_takeNext (s : State) : Moves s (takeNext s) := .lift (updates_takeNext s)
theorem moves_arbitrate (s : State) : Moves s (arbitrate s) := .lift (updates_arbitrate s)
theorem moves_placeFaultRecord (s : State) : Moves s (placeFaultRecord s) := .lift (updates_placeFaultRecord s)
theorem moves_setFlags (f : BitVec 3) (s : State) : Moves s (setFlags f s) := .lift (updates_setFlags f s)
theorem moves_capture (a : FaultSource) (k : FaultKind) (x d : Word) (s : State) : Moves s (capture a k x d s) :=
  .lift (updates_capture a k x d s)
theorem moves_captureJob (k : FaultKind) (j : Job) (s : State) : Moves s (captureJob k j s) :=
  .lift (updates_captureJob k j s)
theorem moves_placeWrittenTo (s : State) : Moves s (placeWrittenTo s) := .lift (updates_placeWrittenTo s)
theorem moves_writeReport (r : Report) (s : State) : Moves s (writeReport r s) := .lift (updates_writeReport r s)
theorem moves_emit (r : Report) (s : State) : Moves s (emit r s) := .lift (updates_emit r s)
theorem moves_drainHoldList (l : List Report) : ∀ s, reportsFit s.reports → l.length ≤ 16 → Moves s (drainHoldList l s) :=
  fun s h0 h1 => .lift (updates_drainHoldList l s h0 h1)
theorem moves_discardHoldList (s : State) : Moves s (discardHoldList s) := .lift (updates_discardHoldList s)
theorem moves_placeCompletion (h : Held) (s : State) : Moves s (placeCompletion h s) :=
  .lift (updates_placeCompletion h s)
theorem moves_giveResult (i : Nat) (r : ResultCode) (d : List Byte) (s : State) : Moves s (giveResult i r d s) :=
  .lift (updates_giveResult i r d s)
theorem moves_settleQueue (l : List Taken) : ∀ s, Moves s (settleQueue l s) :=
  fun s => .lift (updates_settleQueue l s)
theorem moves_popHead (s : State) : Moves s (popHead s) := .lift (updates_popHead s)
theorem moves_mapDucks (f : Fin 4 → Duck → Duck) (s : State)
    (h : ∀ g d, -(d.depth : Int) ≤ d.offset ∧ d.offset ≤ 0 → -((f g d).depth : Int) ≤ (f g d).offset ∧ (f g d).offset ≤ 0) :
    Moves s (mapDucks f s) := .lift (updates_mapDucks f s h)
theorem moves_rejudgeDucks (s : State) : Moves s (rejudgeDucks s) := .lift (updates_rejudgeDucks s)
theorem moves_unkeyDucks (v : Fin 24) (s : State) : Moves s (unkeyDucks v s) := .lift (updates_unkeyDucks v s)
theorem moves_keyDucks (v : Fin 24) (r : DuckRole) (s : State) : Moves s (keyDucks v r s) :=
  .lift (updates_keyDucks v r s)
theorem moves_duckStep (g : Fin 4) (s : State) : Moves s (duckStep g s) := .lift (updates_duckStep g s)
theorem moves_setContent (v : Fin 24) (c : Content) (s : State)
    (h : c.soundingClaim = (s.voice v).content.soundingClaim) : Moves s (setContent v c s) :=
  .lift (updates_setContent v c s h)
theorem moves_goIdle (v : Fin 24) (e : Half × Bool) (s : State) (h : (s.voice v).content.soundingClaim = none) :
    Moves s (goIdle v e s) := .lift (updates_goIdle v e s h)
theorem moves_leaveIdle (v : Fin 24) (e : Half × Bool) (s : State) : Moves s (goIdle v e (leaveOrder v s)) :=
  .lift (updates_leaveIdle v e s)
theorem moves_emitEnded (v : Fin 24) (c : Claim) (r : EndReason) (b : Bool) (s : State) :
    Moves s (emitEnded v c r b s) := .lift (updates_emitEnded v c r b s)
theorem moves_withdraw (v : Fin 24) (s : State) : Moves s (withdraw v s) := .lift (updates_withdraw v s)
theorem moves_withdrawEnded (v : Fin 24) (r : EndReason) (s : State) : Moves s (withdrawEnded v r s) :=
  .lift (updates_withdrawEnded v r s)
theorem moves_cancelFollower (v : Fin 24) (n : Half) (s : State) (w : Fin 24) : Moves s (cancelFollower v n s w) :=
  .lift (updates_cancelFollower v n s w)
theorem moves_cancelFollowers (v : Fin 24) (n : Half) (s : State) : Moves s (cancelFollowers v n s) :=
  .lift (updates_cancelFollowers v n s)
theorem moves_tell (p : Playing) (r : Report) (s : State) : Moves s (tell p r s) := .lift (updates_tell p r s)
theorem moves_endRelease (v : Fin 24) (p : Playing) (s : State) (h : (s.voice v).content.soundingClaim = none) :
    Moves s (endRelease v p s) := .lift (updates_endRelease v p s h)
theorem moves_releaseSounding (v : Fin 24) (p : Playing) (l : Nat) (r : EndReason) (s : State) :
    Moves s (releaseSounding v p l r s) := .lift (updates_releaseSounding v p l r s)
theorem moves_shortenRelease (v : Fin 24) (p : Playing) (l : Nat) (s : State)
    (h : (s.voice v).content.soundingClaim = none) : Moves s (shortenRelease v p l s) :=
  .lift (updates_shortenRelease v p l s h)
theorem moves_testFollow (v : Fin 24) (s : State) : Moves s (testFollow v s) := .lift (updates_testFollow v s)
theorem moves_kick (v : Fin 24) (g : Nat) (s : State) (w : Fin 24) : Moves s (kick v g s w) :=
  .lift (updates_kick v g s w)
theorem moves_kickOthers (v : Fin 24) (g : Nat) (s : State) : Moves s (kickOthers v g s) :=
  .lift (updates_kickOthers v g s)

theorem moves_emitLate (v : Fin 24) (c : Claim) (l : Lateness) (t : Word) (s : State) :
    Moves s (emitLate v c l t s) := by
  unfold emitLate; dsimp only; repeat' split
  · exact (moves_emit _ _).then (moves_emit _ _)
  · exact moves_emit _ _
  · exact moves_emit _ _
  · exact .refl

theorem moves_entryEffects (v : Fin 24) (p : Playing) (l : Lateness) (s : State)
    (h : (s.voice v).content.soundingClaim = none) : Moves s (entryEffects v p l s) := by
  unfold entryEffects; dsimp only
  refine Moves.then (moves_testFollow _ _) (Moves.then (moves_emitLate _ _ _ _ _) (Moves.then (moves_emit _ _)
    (Moves.then (moves_keyDucks _ _ _) ?_)))
  exact .single (.enter s v ((s.voice v).takeUpHead p) { p with entry := none } h rfl rfl)

theorem moves_completeEntry (v : Fin 24) (s : State) : Moves s (completeEntry v s) := by
  unfold completeEntry; repeat' split
  · exact moves_entryEffects _ _ _ _ (by simp [*, Content.soundingClaim])
  · exact .refl
  · exact .refl

theorem moves_completeEntries (p : Content → Bool) (s : State) : Moves s (completeEntries p s) :=
  moves_foldl _ (fun t v => by split <;> first | exact moves_completeEntry _ _ | exact .refl) _ _

theorem moves_enterSounding (v : Fin 24) (i : Incoming) (b : Bool) (l : Option Nat) (s : State)
    (h : (s.voice v).content.soundingClaim = none) : Moves s (enterSounding v i b l s) := by
  have c := moves_setContent v (.sounding (i.begin b l)) s h.symm
  unfold enterSounding; dsimp only; split
  · exact c
  · exact (moves_completeEntry _ _).then c

theorem moves_releaseNow (v : Fin 24) (r : EndReason) (f : Playing → Nat) (b : Bool) (s : State) :
    Moves s (releaseNow v r f b s) := by
  unfold releaseNow; split
  · exact .refl
  · exact moves_withdrawEnded _ _ _
  · exact moves_withdrawEnded _ _ _
  · exact moves_releaseSounding _ _ _ _ _
  · split
    · exact moves_shortenRelease _ _ _ _ (by simp [*, Content.soundingClaim])
    · exact .refl
  · dsimp only; split
    · refine (moves_shortenRelease _ _ _ _ ?_).then (moves_withdrawEnded _ _ _)
      rw [soundingClaim_withdrawEnded]; simp [*, Content.soundingClaim]
    · exact moves_withdrawEnded _ _ _

theorem moves_releaseVoice (v : Fin 24) (r : EndReason) (f : Playing → Nat) (b : Bool) (s : State) :
    Moves s (releaseVoice v r f b s) := (moves_releaseNow _ _ _ _ _).then (moves_completeEntry _ _)

theorem moves_cutVoice (v : Fin 24) (s : State) : Moves s (cutVoice v s) := moves_releaseVoice _ _ _ _ _

theorem moves_releaseAll (p : Content → Bool) (r : EndReason) (f : Playing → Nat) (b : Bool) (s : State) :
    Moves s (releaseAll p r f b s) := by
  unfold releaseAll releaseAllNow; dsimp only
  exact (moves_foldl _ (fun t v => moves_releaseNow v r f b t) _ _).then
    ((moves_foldl _ (fun t v => moves_releaseNow v r f b t) _ _).then (moves_completeEntries _ _))

theorem moves_releaseGroup (g : Nat) (s : State) : Moves s (releaseGroup g s) := moves_releaseAll _ _ _ _ _

theorem moves_cutLastVoice (s : State) : Moves s (cutLastVoice s) := by
  unfold cutLastVoice; split
  · exact moves_cutVoice _ _
  · exact .refl

theorem moves_holdToPlayRelease (v : Fin 24) (c : Half) (s : State) : Moves s (holdToPlayRelease v c s) := by
  unfold holdToPlayRelease; repeat' split
  · exact moves_withdrawEnded _ _ _
  · exact moves_releaseVoice _ _ _ _ _
  · exact .refl

theorem moves_deepHoldVoices (s : State) : Moves s (deepHoldVoices s) := moves_releaseAll _ _ _ _ _

theorem moves_stopVoices (s : State) : Moves s (stopVoices s) := moves_releaseAll _ _ _ _ _

theorem moves_arm (v : Fin 24) (i : Incoming) (s : State) (h : (s.voice v).content.soundingClaim = none) :
    Moves s (arm v i s) := moves_setContent _ _ _ h.symm

theorem moves_missVoice (v : Fin 24) (i : Incoming) (r : Nat) (t : Word) (l : Nat) (s : State) :
    Moves s (missVoice v i r t l s) := (moves_emit _ _).then (moves_withdraw _ _)

theorem moves_judgeOverdue (v : Fin 24) (i : Incoming) (t : Word) (s : State)
    (h : (s.voice v).content.soundingClaim = none) : Moves s (judgeOverdue v i t s) := by
  unfold judgeOverdue; dsimp only; repeat' split
  · exact moves_missVoice _ _ _ _ _ _
  · exact moves_arm _ _ _ h
  · exact moves_missVoice _ _ _ _ _ _

theorem moves_actOnStart (v : Fin 24) (i : Incoming) (s : State) (h : (s.voice v).content.soundingClaim = none) :
    Moves s (actOnStart v i s) := by
  unfold actOnStart; repeat' split
  · exact moves_enterSounding _ _ _ _ _ h
  · exact (moves_arm _ _ _ h)
  · exact (moves_judgeOverdue _ _ _ _ h)
  · exact (moves_arm _ _ _ h)
  · exact (moves_arm _ _ _ h)
  · exact moves_enterSounding _ _ _ _ _ h
  · exact (moves_arm _ _ _ h)

theorem moves_landHead (v : Fin 24) (f : List Frame) (s : State) : Moves s (landHead v f s) := by
  unfold landHead; dsimp only; split
  · next h =>
    refine (moves_actOnStart _ _ _ ?_).then ((Moves.of (.voice _ _ _ ?_)))
    · simp [h, Content.soundingClaim]
    · rfl
  · next h => exact (Moves.of (.voice _ _ _ (by rw [h]; rfl)))
  · exact .refl

theorem moves_handBack (k : Fin 8) (v : Fin 24) (c : Half) (s : State) : Moves s (handBack k v c s) := by
  unfold handBack; dsimp only; repeat' split
  · exact Moves.of (.trigger _ _ id)
  · exact (moves_holdToPlayRelease _ _ _).then (Moves.of (.trigger _ _ id))
  · exact Moves.of (.trigger _ _ id)

/-! ### Claims and the schedule -/

theorem moves_reportSteal (w : Obtained) (v : Fin 24) (c : Claim) (n : Nat) (r : ClaimRequest) (s : State) :
    Moves s (reportSteal w v c n r s) := by
  unfold reportSteal; split
  · exact moves_emit _ _
  · exact .refl

theorem moves_takeNow (v : Fin 24) (r : ClaimRequest) (w : Obtained) (s : State) : Moves s (takeNow v r w s) := by
  unfold takeNow; dsimp only; split <;> rename_i h
  · exact Moves.of (.voice _ _ _ (by rw [h]; rfl))
  · exact Moves.of (.voice _ _ _ (by rw [h]; rfl))
  · exact (moves_reportSteal _ _ _ _ _ _).then (Moves.of (.voice _ _ _ (by rw [h]; rfl)))
  · refine (moves_cancelFollowers _ _ _).then ((moves_reportSteal _ _ _ _ _ _).then ((moves_unkeyDucks _ _).then ?_))
    exact Moves.of (.leave s v _ rfl)
  · exact (moves_unkeyDucks _ _).then (Moves.of (.voice _ _ _ (by rw [h]; rfl)))
  · exact Moves.of (.voice _ _ _ (by rw [h]; rfl))

theorem moves_takeVoice (v : Fin 24) (r : ClaimRequest) (w : Obtained) (s : State) : Moves s (takeVoice v r w s) :=
  (moves_takeNow _ _ _ _).then (moves_completeEntry _ _)

theorem moves_primingRequest (v : Fin 24) (c : SoundCue) (s : State) : Moves s (primingRequest v c s) := by
  unfold primingRequest; split
  · exact moves_landHead _ _ _
  · exact (moves_place _ _)

theorem moves_setLink (v : Fin 24) (t : Half) (l : Option Word) (s : State) : Moves s (setLink v t l s) := by
  unfold setLink; split
  · exact Moves.of (.schedule _ _ id)
  · exact .refl

theorem moves_claimTaken (v : Fin 24) (w : Obtained) (r : ClaimRequest) (n : Half) (s : State) :
    Moves s (claimTaken v w r n s) := by
  unfold claimTaken; repeat' split
  · exact moves_giveResult _ _ _ _
  · exact moves_handBack _ _ _ _
  · exact .refl
  · exact .refl

theorem moves_claim (r : ClaimRequest) (l : Option Word) (s : State) : Moves s (claim r l s) := by
  unfold claim; split
  · exact Moves.then (moves_claimTaken _ _ _ _ _) ((moves_primingRequest _ _ _).then
      (Moves.then (moves_setLink _ _ _ _) ((moves_takeVoice _ _ _ _))))
  · split
    · exact (moves_giveResult _ _ _ _)
    · exact (moves_emit _ _)

theorem length_insertEntry (f : Word) (e : Entry) (l : List Entry) : (insertEntry f e l).length = l.length + 1 := by
  induction l with
  | nil => rfl
  | cons x l ih => unfold insertEntry; split <;> simp [ih]

theorem moves_scheduleIntake (c : ResolvedCue) (n : Nat) (t : Half) (w : Word) (s : State) :
    Moves s (scheduleIntake c n t w s) := by
  unfold scheduleIntake; dsimp only; repeat' split
  · exact (moves_giveResult _ _ _ _)
  · refine Moves.then (moves_giveResult _ _ _ _) ((Moves.of (.schedule _ _ fun _ => ?_)))
    rw [length_insertEntry]; omega
  · exact (moves_giveResult _ _ _ _)
  · exact moves_claim _ _ _
  · exact moves_claim _ _ _
  · exact (moves_giveResult _ _ _ _)

theorem moves_primeEntry (s : State) (e : Entry) : Moves s (primeEntry s e) := by
  unfold primeEntry; dsimp only; repeat' split
  · exact moves_claim _ _ _
  · exact moves_claim _ _ _
  · exact (moves_emit _ _)

theorem moves_setEntries (es : List Entry) (s : State) (h : es.length ≤ s.schedule.entries.length) :
    Moves s (setEntries es s) := Moves.of (.schedule _ _ fun _ => h.trans ‹_›)

theorem length_dueFar (s : State) : (dueEntries s).length + (farEntries s).length = s.schedule.entries.length := by
  rw [← List.length_append]; unfold dueEntries farEntries; rw [List.takeWhile_append_dropWhile]

theorem moves_scheduleWalk (s : State) : Moves s (scheduleWalk s) := by
  have hl := length_dueFar s
  unfold scheduleWalk; dsimp only; split
  · refine Moves.then (moves_foldl _ (fun t e => moves_emit _ _) _ _) ((moves_setEntries _ _ ?_))
    rw [List.length_append]
    have := List.length_filter_le (fun e : Entry => isAhead e.target s.clock.frame) (dueEntries s)
    omega
  · exact (moves_foldl _ moves_primeEntry _ _).then ((moves_setEntries _ _ (by omega)))

end Sys2Proof.Machine
end

