-- ==== Sys2Proof/Laws/Steps.lean ====
section
/-! SUPPORT. Every command is a chain of acts: the list of Moves.lean, and the entry into SOUNDING, is all that a step can do. -/

namespace Sys2Proof.Machine

/-! ### Updates of two blocks -/

theorem moves_slate_port (s : State) (x : SlateUnit) (p : Port) (h : s.slate.slots.Nodup → x.slots.Nodup) :
    Moves s { s with slate := x, port := p } := (Moves.of (.slate s x h)).trans (Moves.of (.port _ p))

theorem moves_slate_run (s : State) (x : SlateUnit) (r : RunControl) (h : s.slate.slots.Nodup → x.slots.Nodup) :
    Moves s { s with slate := x, run := r } := (Moves.of (.slate s x h)).trans (Moves.of (.run _ r))

theorem moves_slate_mix (s : State) (x : SlateUnit) (m : Mix) (h : s.slate.slots.Nodup → x.slots.Nodup)
    (h₁ : offsetsFit s.mix.ducks → offsetsFit m.ducks) (h₂ : sidesFit s.mix.buses → sidesFit m.buses) :
    Moves s { s with slate := x, mix := m } := (Moves.of (.slate s x h)).trans (Moves.of (.mix _ m h₁ h₂))

theorem moves_resolver_port (s : State) (x : Resolver) (p : Port)
    (h : s.resolver.lines.length ≤ 16 → x.lines.length ≤ 16) (h' : s.resolver.leaders.Nodup → x.leaders.Nodup) :
    Moves s { s with resolver := x, port := p } := (Moves.of (.resolver s x h h')).trans (Moves.of (.port _ p))

theorem moves_regs_port (s : State) (r : Registers) (p : Port) : Moves s { s with regs := r, port := p } :=
  (Moves.of (.regs s r)).trans (Moves.of (.port _ p))

/-! ### The Cue Resolver -/

theorem moves_setResolution (r : Option Resolution) (s : State) : Moves s (setResolution r s) :=
  Moves.of (.resolver _ _ id id)

theorem moves_endResolution (r : Resolution) (c : ResultCode) (s : State) : Moves s (endResolution r c s) := by
  unfold endResolution; dsimp only; split
  · exact (moves_giveResult _ _ _ _).then (moves_setResolution _ _)
  · exact (moves_emit _ _).then (moves_setResolution _ _)

theorem moves_handOnCue (r : Resolution) (c : SoundCue) (s : State) : Moves s (handOnCue r c s) := by
  unfold handOnCue; dsimp only; split
  · exact ((moves_giveResult _ _ _ _).then (moves_setResolution _ _))
  · exact (moves_claim _ _ _).then ((moves_setResolution _ _))
  · exact (moves_scheduleIntake _ _ _ _ _).then ((moves_setResolution _ _))
  · exact (moves_claim _ _ _).then ((moves_setResolution _ _))

theorem moves_beginPass (r : Resolution) (s : State) : Moves s (beginPass r s) := by
  unfold beginPass; repeat' split
  · exact moves_endResolution _ _ _
  · exact moves_endResolution _ _ _
  · exact (moves_place _ _).then (moves_setResolution _ _)

theorem moves_descriptorRead (r : Resolution) (d : Descriptor) (s : State) : Moves s (descriptorRead r d s) := by
  unfold descriptorRead; dsimp only; split
  · exact moves_endResolution _ _ _
  · exact (moves_place _ _).then (moves_setResolution _ _)

theorem moves_cueRead (r : Resolution) (c : CueRecord) (s : State) : Moves s (cueRead r c s) := by
  unfold cueRead; dsimp only; repeat' split
  · exact (moves_endResolution _ _ _)
  · exact (moves_endResolution _ _ _)
  · exact (moves_endResolution _ _ _)
  · exact (moves_beginPass _ _)
  · exact (moves_endResolution _ _ _)
  · exact moves_handOnCue _ _ _

theorem moves_resolverReadDone (p : Phase) (f : Resolution → List Byte → State → State) (h : ∀ r b t, Moves t (f r b t))
    (j : Job) (b : Bool) (s : State) : Moves s (resolverReadDone p f j b s) := by
  have c : Moves s (if b then captureJob .read j s else s) := by
    split
    · exact (moves_captureJob _ _ _)
    · exact .refl
  unfold resolverReadDone; dsimp only
  generalize (if b = true then captureJob .read j s else s) = t at c
  repeat' split
  · exact c
  · exact Moves.then (moves_endResolution _ _ _) c
  · exact (h _ _ _).then c
  · exact c

theorem moves_takeSlate (t : Taken) (p : Purpose) (x : Selector) (o : Int) (s : State) : Moves s (takeSlate t p x o s) :=
  moves_beginPass _ _

theorem moves_takeItem (s : State) : Moves s (takeItem s) := by
  unfold takeItem; repeat' split
  · next f fs h =>
    refine (moves_beginPass _ _).then (Moves.of (.resolver _ _ id fun n => ?_))
    simp only [Resolver.leaders, h, List.map_cons, List.nodup_cons] at n ⊢; exact n.2
  · next f fs h =>
    refine (moves_beginPass _ _).then (Moves.of (.resolver _ _ (fun n => ?_) id))
    simp only [h, List.length_cons] at n ⊢; omega
  · exact .refl
  · exact .refl

/-! ### The Trigger Unit -/

theorem moves_sampleInputs (p : Pins) (s : State) : Moves s (sampleInputs p s) := Moves.of (.trigger _ _ id)

theorem moves_placeLineFire (f : LineFire) (e : Event) (n : Nat) (s : State) : Moves s (placeLineFire f e n s) := by
  unfold placeLineFire; split
  · refine Moves.of (.resolver _ _ (fun _ => ?_) id)
    simp only [List.length_append, List.length_singleton]; omega
  · exact moves_emit _ _

theorem moves_reopenGroups (m : BitVec 8) (s : State) : Moves s (reopenGroups m s) := Moves.of (.trigger _ _ id)

theorem moves_setVariable (v : Nat) (x : Half) (s : State) : Moves s (setVariable v x s) := by
  unfold setVariable; split
  · exact Moves.of (.resolver _ _ id id)
  · exact .refl

theorem moves_ruleAction (i : Nat) (r : Rule) (e : Event) (a : RuleAction) (s : State) : Moves s (ruleAction i r e a s) := by
  unfold ruleAction; repeat' split
  · exact moves_placeLineFire _ _ _ _
  · exact moves_releaseGroup _ _
  · exact .refl
  · exact moves_cutLastVoice _
  · exact moves_setVariable _ _ _
  · exact moves_setVariable _ _ _
  · exact moves_reopenGroups _ _

theorem moves_closeGroup (g : Fin 8) (w : Winner) (s : State) : Moves s (closeGroup g w s) := Moves.of (.trigger _ _ id)

theorem moves_consultGroup (g : Fin 8) (i : Nat) (r : Rule) (a : RuleAction) (n : Fin 16) (up : Bool) (t : Time)
    (s : State) : Moves s (consultGroup g i r a n up t s) := by
  unfold consultGroup; split
  · exact (moves_emit _ _).then ((moves_closeGroup _ _ _).then (moves_ruleAction _ _ _ _ _))
  · exact moves_emit _ _

theorem moves_evaluateRules (n : Fin 16) (up : Bool) (t : Time) (l : List Rule) :
    ∀ i s, Moves s (evaluateRules n up t i l s) := by
  induction l with
  | nil => intro i s; exact .refl
  | cons r l ih =>
    intro i s
    unfold evaluateRules; split
    · exact ih _ _
    · next a _ =>
      split
      · dsimp only
        have h : Moves s (match r.group with
            | none => ruleAction i r (.line n up t) a s
            | some g => consultGroup g i r a n up t s) := by
          split
          · exact moves_ruleAction _ _ _ _ _
          · exact moves_consultGroup _ _ _ _ _ _ _ _
        split
        · exact (ih _ _).then h
        · exact h
      · exact ih _ _

theorem moves_keyPress (k : Fin 8) (t : Time) (s : State) : Moves s (keyPress k t s) := moves_placeLineFire _ _ _ _

theorem moves_setHoldLink (k : Fin 8) (l : Option (Fin 24 × Half)) (s : State) : Moves s (setHoldLink k l s) :=
  Moves.of (.trigger _ _ id)

theorem moves_keyRelease (k : Fin 8) (s : State) : Moves s (keyRelease k s) := by
  unfold keyRelease; split
  · dsimp only; split
    · exact (moves_holdToPlayRelease _ _ _).then (moves_setHoldLink _ _ _)
    · exact moves_setHoldLink _ _ _
  · exact .refl

theorem moves_takeEvent (e : Event) (s : State) : Moves s (takeEvent e s) := by
  unfold takeEvent; repeat' split
  · exact moves_evaluateRules _ _ _ _ _ _
  · exact moves_keyPress _ _ _
  · exact moves_keyRelease _ _

theorem moves_raiseEvent (e : Event) (s : State) : Moves s (raiseEvent e s) := by
  unfold raiseEvent; repeat' split
  · exact .refl
  · refine Moves.of (.trigger _ _ fun _ => ?_)
    simp only [List.length_append, List.length_singleton]; omega
  · exact moves_emit _ _
  · exact moves_takeEvent _ _

theorem moves_takeQueued (s : State) : Moves s (takeQueued s) := by
  unfold takeQueued; repeat' split
  · exact .refl
  · next e q h =>
    refine (moves_takeEvent _ _).then (Moves.of (.trigger _ _ fun n => ?_))
    simp only [h, List.length_cons] at n ⊢; omega
  · exact .refl

theorem moves_leaveHold (t : Half) (c : HoldRelease) (s : State) : Moves s (leaveHold t c s) := by
  unfold leaveHold; exact (moves_emit _ _).then (Moves.of (.run _ _))

theorem moves_holdEdge (n : Fin 16) (up : Bool) (s : State) : Moves s (holdEdge n up s) := by
  unfold holdEdge; split
  · exact moves_leaveHold _ _ _
  · exact .refl

theorem moves_lineEdge (n : Fin 16) (s : State) : Moves s (lineEdge n s) := by
  unfold lineEdge; dsimp only; split
  · exact (moves_raiseEvent _ _).then ((moves_holdEdge _ _ _).then ((moves_rejudgeDucks _).then (Moves.of (.trigger _ _ id))))
  · exact .refl

theorem moves_keyEdge (k : Fin 8) (s : State) : Moves s (keyEdge k s) := by
  unfold keyEdge; dsimp only; split
  · exact (moves_raiseEvent _ _).then (Moves.of (.trigger _ _ id))
  · exact .refl

/-! ### The Frame Clock -/

theorem moves_setClock (c : Clock) (s : State) : Moves s (setClock c s) := Moves.of (.clock _ _)

theorem moves_changeLock (l : LockState) (c : RefCause) (s : State) : Moves s (changeLock l c s) := by
  unfold changeLock; dsimp only; split
  · exact (moves_emit _ _).then (moves_setClock _ _)
  · exact moves_setClock _ _

theorem moves_changeRate (c : Fin 7) (s : State) : Moves s (changeRate c s) := by
  unfold changeRate; dsimp only; split
  · exact (moves_setClock _ _).then (moves_setClock _ _)
  · exact (moves_changeLock _ _ _).then (moves_setClock _ _)

theorem moves_startRate (c : Nat) (s : State) : Moves s (startRate c s) := by
  unfold startRate; repeat' split
  · exact .refl
  · exact moves_changeRate _ _
  · exact .refl

theorem moves_strayPulse (s : State) : Moves s (strayPulse s) := by
  unfold strayPulse; split
  · exact moves_changeLock _ _ _
  · exact moves_setClock _ _

theorem moves_closeWindow (s : State) : Moves s (closeWindow s) := by
  unfold closeWindow missedWindow; repeat' split
  · dsimp only; split
    · exact (moves_changeLock _ _ _).then (moves_setClock _ _)
    · exact (moves_setClock _ _).then (moves_setClock _ _)
  · exact .refl

/-! ### Fetching and the head cache -/

theorem moves_placeRefill (s : State) (v : Fin 24) : Moves s (placeRefill s v) := by
  unfold placeRefill; dsimp only; repeat' split
  · exact (moves_place _ _).then (Moves.of (.voice _ _ _ rfl))
  · exact .refl
  · exact .refl

theorem moves_placeRefills (s : State) : Moves s (placeRefills s) := moves_foldl _ (fun t v => moves_placeRefill t v) _ s

theorem moves_nextFree (s : State) : Moves s (nextFree s) := Moves.of (.free _ _)

theorem moves_refillFault (v : Fin 24) (p : Playing) (j : Job) (s : State) : Moves s (refillFault v p j s) := by
  unfold refillFault; dsimp only
  exact (moves_cutVoice _ _).then ((moves_tell _ _ _).then ((moves_nextFree _).then (Moves.of (.voice _ _ _ rfl))))

theorem moves_refillLanded (v : Fin 24) (p : Playing) (n : Nat) (j : Job) (s : State) :
    Moves s (refillLanded v p n j s) := Moves.of (.voice _ _ _ rfl)

theorem moves_captureIf (b : Bool) (k : FaultKind) (j : Job) (s : State) :
    Moves s (if b then captureJob k j s else s) := by
  split
  · exact moves_captureJob _ _ _
  · exact .refl

theorem moves_refillDone (j : Job) (b : Bool) (s : State) : Moves s (refillDone j b s) := by
  unfold refillDone; split
  · next v _ _ _ _ _ =>
    dsimp only
    have c := moves_captureIf b .read j s
    generalize (if b = true then captureJob .read j s else s) = t at c
    have c' : Moves s (setVoice v { t.voice v with refillPending := false } t) :=
      (moves_refillPending _ _ _).then c
    generalize (setVoice v { t.voice v with refillPending := false } t) = u at c'
    refine (moves_placeRefill _ _).then (Moves.then ?_ c')
    repeat' split
    · exact .refl
    · exact moves_refillFault _ _ _ _
    · exact moves_refillLanded _ _ _ _ _
    · exact .refl
  · exact .refl

theorem moves_headDone (j : Job) (b : Bool) (s : State) : Moves s (headDone j b s) := by
  unfold headDone; split
  · dsimp only
    have c := (moves_captureIf b .read j s)
    generalize (if b = true then captureJob .read j s else s) = t at c
    refine Moves.then ?_ c
    repeat' split
    · exact .refl
    · exact ((moves_emit _ _).then ((moves_withdraw _ _).then (moves_nextFree _)))
    · exact moves_landHead _ _ _
    · exact .refl
  · exact .refl

theorem moves_realign (v : Fin 24) (p : Playing) (s : State) : Moves s (realign v p s) := by
  unfold realign voidRefill; dsimp only
  refine Moves.then (Moves.of (.voice _ _ _ rfl)) (Moves.then (Moves.of (.voice _ _ _ rfl)) (Moves.of (.port _ _)))

theorem cacheFits_filter (p : CacheEntry → Bool) {c : List CacheEntry} (h : cacheFits c) : cacheFits (c.filter p) :=
  ⟨(List.length_filter_le _ _).trans h.1, h.2.sublist (List.filter_sublist.map _)⟩

theorem moves_dropEntry (a : Word) (s : State) : Moves s (dropEntry a s) := Moves.of (.cache _ _ (cacheFits_filter _))

theorem moves_setEntry (a : Word) (x : CacheState) (s : State) : Moves s (setEntry a x s) := by
  refine Moves.of (.cache _ _ fun h => ⟨by simpa using h.1, ?_⟩)
  rw [List.map_map]
  have e : (CacheEntry.address ∘ fun e => if e.address = a then { e with state := x } else e) = CacheEntry.address := by
    funext y; simp only [Function.comp]; split <;> rfl
  rw [e]; exact h.2

theorem moves_pinDone (j : Job) (b : Bool) (s : State) : Moves s (pinDone j b s) := by
  unfold pinDone; split
  · dsimp only
    have c := moves_captureIf b .read j s
    generalize (if b = true then captureJob .read j s else s) = t at c
    refine Moves.then ?_ c
    repeat' split
    · exact .refl
    · exact (moves_giveResult _ _ _ _).then (moves_dropEntry _ _)
    · exact (moves_giveResult _ _ _ _).then (moves_dropEntry _ _)
    · exact (moves_giveResult _ _ _ _).then (moves_setEntry _ _ _)
  · exact .refl

theorem moves_deepHoldCache (s : State) : Moves s (deepHoldCache s) := by
  unfold deepHoldCache; dsimp only
  refine (moves_foldl _ (fun t i => moves_giveResult _ _ _ _) _ _).then
    (Moves.then (Moves.of (.cache _ _ fun _ => ⟨by simp, by simp⟩)) (Moves.of (.port _ _)))

theorem cacheFits_filterMap (f : CacheEntry → Option CacheEntry) (hf : ∀ e x, f e = some x → x.address = e.address)
    {c : List CacheEntry} (h : cacheFits c) : cacheFits (c.filterMap f) := by
  refine ⟨(List.length_filterMap_le _ _).trans h.1, h.2.sublist ?_⟩
  clear h
  induction c with
  | nil => simp
  | cons e c ih =>
    rw [List.filterMap_cons, List.map_cons]
    split
    · exact ih.trans (List.sublist_cons_self _ _)
    · next x hx => rw [List.map_cons, hf e x hx]; exact ih.cons_cons _

theorem moves_stopCache (s : State) : Moves s (stopCache s) := by
  unfold stopCache; dsimp only
  refine Moves.then (Moves.of (.cache _ _ (cacheFits_filterMap _ ?_))) (Moves.of (.port s _))
  intro e x hx
  split at hx
  · cases hx; rfl
  · split at hx
    · cases hx; rfl
    · cases hx

/-! ### Starting, stopping and failing -/

theorem moves_setPart (p : PartState) (s : State) : Moves s (setPart p s) := Moves.of (.regs _ _)

theorem moves_setStartFault (f : StartFault) (s : State) : Moves s (setStartFault f s) := Moves.of (.regs _ _)

theorem moves_setSwitch (w : Option Switch) (r : Option SceneRecord) (s : State) : Moves s (setSwitch w r s) :=
  Moves.of (.run _ _)

theorem moves_stopResolver (s : State) : Moves s (stopResolver s) := by
  unfold stopResolver
  exact moves_resolver_port _ _ _ (fun _ => by simp) (fun _ => by simp [Resolver.leaders])

theorem moves_stopSchedule (s : State) : Moves s (stopSchedule s) :=
  Moves.of (.schedule _ _ fun _ => by simp [Schedule.reset])

theorem moves_stopTrigger (s : State) : Moves s (stopTrigger s) := Moves.of (.trigger _ _ fun _ => by simp)

theorem moves_failStart (f : StartFault) (s : State) : Moves s (failStart f s) :=
  (moves_discardHoldList _).then ((moves_setSwitch _ _ _).then ((moves_setStartFault _ _).then (moves_setPart _ _)))

theorem moves_stopSwitch (s : State) : Moves s (stopSwitch s) := by
  unfold stopSwitch; split
  · exact (moves_setSwitch _ _ _).then (Moves.of (.port _ _))
  · exact .refl

theorem moves_stopSlate (s : State) : Moves s (stopSlate s) := by
  unfold stopSlate
  exact moves_slate_port _ _ _ (by exact id)

theorem moves_abandonSlots (s : State) : Moves s (abandonSlots s) := moves_foldl _ (fun _ _ => moves_giveResult _ _ _ _) _ _

theorem moves_enterStopping (s : State) : Moves s (enterStopping s) := by
  unfold enterStopping; dsimp only
  exact (moves_abandonSlots _).then ((moves_stopSlate _).then ((moves_stopCache _).then ((moves_stopSwitch _).then
    ((moves_stopTrigger _).then ((moves_stopVoices _).then ((moves_stopSchedule _).then
      ((moves_stopResolver _).then (moves_setPart _ _))))))))

theorem moves_clearRefillPending (s : State) : Moves s (clearRefillPending s) :=
  moves_foldl _ (fun _ _ => moves_refillPending _ _ _) _ _

theorem moves_failPort (s : State) : Moves s (failPort s) := by
  unfold failPort
  exact (moves_clearRefillPending _).then (Moves.of (.port _ _))

theorem quieten_soundingClaim (c : Content) : c.quieten.soundingClaim = c.soundingClaim := by cases c <;> rfl

theorem moves_quieten (s : State) : Moves s (quieten s) :=
  Moves.of (.each _ _ fun v => by simp [quieten_soundingClaim, State.voice])

theorem moves_enterFailed (s : State) : Moves s (enterFailed s) := by
  unfold enterFailed; dsimp only
  refine (moves_discardHoldList _).then ((moves_failPort _).then ((moves_stopCache _).then (Moves.then
    (Moves.of (.slate (setSwitch none none _) _ fun _ => by simp [SlateUnit.slots])) ?_)))
  exact (moves_setSwitch _ _ _).then ((moves_quieten _).then ((moves_stopTrigger _).then ((moves_stopVoices _).then ((moves_stopSchedule _).then
    ((moves_stopResolver _).then ((moves_setStartFault _ _).then (moves_setPart _ _)))))))

theorem moves_writeError (j : Job) (s : State) : Moves s (writeError j s) := by
  unfold writeError; split
  · exact (moves_enterFailed _).then ((moves_captureJob _ _ _).then (moves_setPart _ _))
  · exact moves_captureJob _ _ _

theorem moves_clearMeters (s : State) : Moves s (clearMeters s) := by
  refine Moves.of (.mix _ _ id fun h b => ?_)
  simpa using h b

theorem moves_enterStarting (s : State) : Moves s (enterStarting s) := by
  unfold enterStarting; dsimp only
  exact (moves_place _ _).then ((moves_clearMeters _).then ((moves_slate_run _ _ _ (by exact id)).then
    ((moves_setStartFault _ _).then (moves_setPart _ _))))

theorem moves_startHeader (h : Header) (s : State) : Moves s (startHeader h s) := by
  unfold startHeader; dsimp only
  exact (moves_place _ _).then ((moves_startRate _ _).then (moves_slate_mix _ _ _ (by exact id) (by exact id) (by exact id)))

theorem moves_headerDone (j : Job) (b : Bool) (s : State) : Moves s (headerDone j b s) := by
  unfold headerDone; dsimp only; repeat' split
  · exact (moves_failStart _ _).then (moves_captureJob _ _ _)
  · exact moves_failStart _ _
  · exact moves_startHeader _ _

theorem moves_startReports (s : State) : Moves s (startReports s) := by
  unfold startReports; dsimp only
  exact (moves_place _ _).then (Moves.of (.reports _ _ id))

theorem moves_startComplete (s : State) : Moves s (startComplete s) := by
  unfold startComplete; split
  · exact (moves_placeFaultRecord _).then (moves_setPart _ _)
  · exact moves_enterStopping _

theorem moves_startWrittenToDone (j : Job) (b : Bool) (s : State) : Moves s (startWrittenToDone j b s) := by
  unfold startWrittenToDone; split
  · exact (moves_failStart _ _).then (moves_captureJob _ _ _)
  · exact moves_startComplete _

/-! ### Scene switches -/

theorem moves_beginSwitch (w : Switch) (s : State) : Moves s (beginSwitch w s) :=
  (moves_place _ _).then (moves_setSwitch _ _ _)

theorem moves_abandonSwitch (w : Switch) (c : ResultCode) (f : Word) (s : State) : Moves s (abandonSwitch w c f s) := by
  unfold abandonSwitch; dsimp only; split
  · exact (moves_giveResult _ _ _ _).then (moves_setSwitch _ _ _)
  · exact (moves_failStart _ _).then (moves_setSwitch _ _ _)

theorem moves_commitMix (r : SceneRecord) (s : State) : Moves s (commitMix r s) := by
  unfold commitMix; dsimp only
  refine (moves_rejudgeDucks _).then ((moves_mapDucks _ _ fun g d h => ?_).then (Moves.of (.mix s _ id fun h b => ?_)))
  · simp only [Duck.configure]; omega
  · simpa using h b

theorem moves_commitResolver (r : SceneRecord) (s : State) : Moves s (commitResolver r s) := by
  unfold commitResolver
  exact Moves.of (.resolver _ _ (by exact id) (by unfold Resolver.leaders; exact id))

theorem moves_commitTrigger (r : SceneRecord) (l : List Rule) (s : State) : Moves s (commitTrigger r l s) := by
  unfold commitTrigger setTrigger
  refine Moves.of (.trigger s _ ?_)
  exact id

theorem moves_commitScene (w : Switch) (r : SceneRecord) (l : List Rule) (s : State) : Moves s (commitScene w r l s) := by
  have h : Moves s (commitMix r (commitResolver r (commitTrigger r l s))) :=
    (moves_commitMix _ _).then ((moves_commitResolver _ _).then (moves_commitTrigger _ _ _))
  unfold commitScene; dsimp only
  generalize commitMix r (commitResolver r (commitTrigger r l s)) = t at h
  split
  · exact (moves_place _ _).then (Moves.then (Moves.of (.run _ _)) h)
  · exact (moves_place _ _).then (Moves.then (Moves.of (.run _ _)) h)

theorem moves_sceneRecordRead (w : Switch) (r : SceneRecord) (s : State) : Moves s (sceneRecordRead w r s) := by
  unfold sceneRecordRead; repeat' split
  · exact moves_abandonSwitch _ _ _ _
  · exact moves_abandonSwitch _ _ _ _
  · exact moves_commitScene _ _ _ _
  · exact (moves_place _ _).then (moves_setSwitch _ _ _)

theorem moves_sceneReadDone (f : Switch → List Byte → State → State) (h : ∀ w b t, Moves t (f w b t)) (j : Job) (b : Bool)
    (s : State) : Moves s (sceneReadDone f j b s) := by
  unfold sceneReadDone; dsimp only
  have c := moves_captureIf b .read j s
  generalize (if b = true then captureJob .read j s else s) = t at c
  refine Moves.then ?_ c
  repeat' split
  · exact moves_abandonSwitch _ _ _ _
  · exact h _ _ _
  · exact .refl
  · exact .refl

theorem moves_ruleTableRead (w : Switch) (b : List Byte) (s : State) : Moves s (ruleTableRead w b s) := by
  unfold ruleTableRead; split
  · exact moves_commitScene _ _ _ _
  · exact .refl

theorem moves_endSwitch (w : Switch) (s : State) : Moves s (endSwitch w s) := by
  unfold endSwitch; dsimp only; split
  · exact (moves_giveResult _ _ _ _).then ((moves_nextFree _).then (moves_setSwitch _ _ _))
  · exact (moves_startReports _).then (moves_setSwitch _ _ _)

theorem moves_busyWriteDone (j : Job) (b : Bool) (s : State) : Moves s (busyWriteDone j b s) := by
  unfold busyWriteDone; repeat' split
  · exact (moves_failStart _ _).then (moves_captureJob _ _ _)
  · exact moves_writeError _ _
  · exact moves_endSwitch _ _
  · exact moves_place _ _
  · exact moves_setSwitch _ _ _
  · exact .refl

theorem moves_busyClearDone (table good count : Nat) (j : Job) (s : State) :
    Moves s (busyClearDone table good count j s) := by
  unfold busyClearDone; split
  · exact (moves_failStart _ _).then (moves_captureJob _ _ _)
  · exact moves_beginSwitch _ _

/-! ### Resets and the control word -/

theorem moves_resetBlocks (s : State) : Moves s (resetBlocks s) := by
  have a := Moves.of (.slate s SlateUnit.reset fun _ => by simp [SlateUnit.reset, SlateUnit.slots])
  have b := a.trans (Moves.of (.resolver _ { Resolver.reset with vars := s.resolver.vars } (fun _ => by simp [Resolver.reset])
    (fun _ => by simp [Resolver.reset, Resolver.leaders])))
  have c := b.trans (Moves.of (.clear _))
  have d := c.trans (Moves.of (.schedule _ Schedule.reset fun _ => by simp [Schedule.reset]))
  have e := d.trans (Moves.of (.trigger _ (resetTrigger s.trigger) fun _ => by simp [resetTrigger, Trigger.reset]))
  have f := e.trans (Moves.of (.cache _ [] fun _ => ⟨by simp, by simp⟩))
  have g := f.trans (Moves.of (.mix _ Mix.reset (fun _ => by unfold offsetsFit; decide) (fun _ => by unfold sidesFit; decide)))
  have h := g.trans (Moves.of (.run _ RunControl.reset))
  have i := h.trans (Moves.of (.tally _ { s.tally with enabled := false }))
  have j := i.trans (Moves.of (.reports _ ReportUnit.reset fun _ => ⟨by decide, by decide, by decide⟩))
  exact j.trans (Moves.of (.fault _ FaultCapture.reset fun _ => by decide))

theorem moves_doWarmReset (s : State) : Moves s (doWarmReset s) := by
  unfold doWarmReset; dsimp only
  exact (moves_regs_port _ _ _).then (moves_resetBlocks s)

theorem wf_foldl_write (f : Nat → Nat) (p : Nat → Bool) (l : List Nat) : ∀ {m : List Host.Cell}, Memory.wf m = true →
    Memory.wf (l.foldl (fun m i => if p i then Memory.write m (f i) 0 else m) m) = true := by
  induction l with
  | nil => exact id
  | cons i l ih =>
    intro m h
    rw [List.foldl_cons]
    apply ih
    split
    · exact wf_write _ _ h
    · exact h

theorem moves_abandonFlight (s : State) : Moves s (abandonFlight s) := by
  unfold abandonFlight; dsimp only; repeat' split
  · exact .refl
  · exact (moves_nextFree _).then (Moves.of (.mem _ _ (wf_foldl_write _ _ _)))
  · exact Moves.of (.mem _ _ (wf_writeBytes _ _))
  · exact Moves.of (.mem _ _ (wf_writeBytes _ _))
  · exact (moves_nextFree _).then (Moves.of (.mem _ _ (wf_writeSome _ _ _)))

theorem moves_doColdReset (s : State) : Moves s (doColdReset s) := by
  unfold doColdReset; dsimp only
  have h : Moves s (resetBlocks (abandonFlight s)) := (moves_resetBlocks _).then (moves_abandonFlight _)
  generalize resetBlocks (abandonFlight s) = t at h
  refine Moves.then (Moves.of (.tally _ _)) (Moves.then (Moves.of (.port _ _)) (Moves.then
    (Moves.of (.resolver _ _ (fun _ => by simp) (fun _ => by simp [Resolver.leaders])))
    (Moves.then (Moves.of (.regs _ _)) (Moves.then (Moves.of (.clock _ _)) h))))

theorem moves_writeRun (b : Bool) (s : State) : Moves s (writeRun b s) := by
  unfold writeRun setRun clearRun; dsimp only; repeat' split
  · exact .refl
  · exact (moves_enterStarting _).then (Moves.of (.regs _ _))
  · exact Moves.of (.regs _ _)
  · exact (moves_enterStopping _).then (Moves.of (.regs _ _))
  · exact (moves_setPart _ _).then (Moves.of (.regs _ _))
  · exact Moves.of (.regs _ _)

theorem moves_setEnables (e : BitVec 3) (s : State) : Moves s (setEnables e s) := Moves.of (.regs _ _)

theorem moves_writeControl (r w : Bool) (e : BitVec 3) (s : State) : Moves s (writeControl r w e s) := by
  unfold writeControl; split
  · exact moves_doWarmReset _
  · exact (moves_writeRun _ _).then (moves_setEnables _ _)

theorem moves_writeRegister (o : Nat) (v : Word) (s : State) : Moves s (writeRegister o v s) := by
  unfold writeRegister; split
  · exact Moves.of (.regs _ _)
  · exact moves_writeControl _ _ _ _
  · exact Moves.of (.regs _ _)
  · exact .refl

theorem moves_endStopping (s : State) : Moves s (endStopping s) := by
  unfold endStopping; dsimp only; split
  · exact (moves_enterStarting _).then ((moves_discardHoldList _).then (moves_setPart _ _))
  · exact (moves_discardHoldList _).then (moves_setPart _ _)

end Sys2Proof.Machine
end

