-- ==== Sys2Proof/Laws/Commands.lean ====
section
/-! SUPPORT. Every command answers a next state, and that state is reached by a chain of acts. -/

namespace Sys2Proof.Machine

/-! ### The Slate Unit and the Report Unit -/

theorem moves_setScan (i : Option Nat) (s : State) : Moves s (setScan i s) := Moves.of (.slate _ _ (by exact id))

theorem moves_scanFrom (i : Nat) (s : State) : Moves s (scanFrom i s) := (moves_place _ _).then (moves_setScan _ _)

theorem moves_endScan (s : State) : Moves s (endScan s) := by
  unfold endScan; split
  · exact (moves_scanFrom _ _).then (Moves.of (.slate _ _ (by exact id)))
  · exact moves_setScan _ _

theorem moves_scanNext (i : Nat) (s : State) : Moves s (scanNext i s) := by
  unfold scanNext; split
  · exact moves_scanFrom _ _
  · exact moves_endScan _

theorem moves_startScan (s : State) : Moves s (startScan s) := by
  unfold startScan; split
  · exact Moves.of (.slate _ _ (by exact id))
  · exact moves_scanFrom _ _

theorem moves_takeSlot (i : Nat) (b : List Byte) (s : State) (h : isHeld i s = false) : Moves s (takeSlot i b s) := by
  unfold takeSlot; dsimp only
  refine (moves_place _ _).then (Moves.of (.slate s _ fun n => ?_))
  unfold SlateUnit.slots at n ⊢
  rw [List.map_append, List.nodup_append]
  refine ⟨n, by simp, ?_⟩
  intro a ha c hc e
  simp only [List.map_cons, List.map_nil, List.mem_singleton] at hc
  subst hc; subst e
  obtain ⟨x, hx, rfl⟩ := List.mem_map.1 ha
  unfold isHeld at h
  rw [List.any_eq_false] at h
  exact h x hx (by simp)

theorem moves_slateRead (i : Nat) (b : List Byte) (s : State) : Moves s (slateRead i b s) := by
  unfold slateRead; split
  · exact moves_endScan _
  · refine (moves_scanNext _ _).then ?_
    split
    · next h =>
      refine moves_takeSlot _ _ _ ?_
      simp only [Bool.and_eq_true, Bool.not_eq_true'] at h
      exact h.2
    · exact .refl

theorem moves_slateReadDone (j : Job) (b : Bool) (s : State) : Moves s (slateReadDone j b s) := by
  unfold slateReadDone; split
  · dsimp only
    have c := moves_captureIf b .read j s
    generalize (if b = true then captureJob .read j s else s) = t at c
    refine Moves.then ?_ c
    repeat' split
    · exact moves_scanNext _ _
    · exact moves_slateRead _ _ _
    · exact .refl
  · exact .refl

theorem slots_markWritten (i : Nat) (l : List Held) :
    (markWritten i l).map (fun h => h.taken.slot) = l.map fun h => h.taken.slot := by
  induction l with
  | nil => rfl
  | cons h l ih => unfold markWritten; split <;> simp [ih]

theorem moves_takenWritten (i : Nat) (s : State) : Moves s (takenWritten i s) := by
  unfold takenWritten; split
  · exact .refl
  · dsimp only
    have h : ∀ x : SlateUnit, x = { s.slate with held := markWritten i s.slate.held } →
        Moves s { s with slate := x } := fun x e => Moves.of (.slate _ _ (by
          subst e; intro h; unfold SlateUnit.slots at h ⊢; rw [slots_markWritten]; exact h))
    repeat' split
    · exact (moves_placeCompletion _ _).then (h _ rfl)
    · exact (moves_settleQueue _ _).then (h _ rfl)
    · exact h _ rfl

theorem moves_takenWriteDone (j : Job) (b : Bool) (s : State) : Moves s (takenWriteDone j b s) := by
  unfold takenWriteDone; repeat' split
  · exact moves_writeError _ _
  · exact moves_takenWritten _ _
  · exact .refl

theorem moves_completionWriteDone (j : Job) (b : Bool) (s : State) : Moves s (completionWriteDone j b s) := by
  unfold completionWriteDone; repeat' split
  · exact moves_writeError _ _
  · refine (moves_setFlags _ _).then (Moves.of (.slate _ _ fun h => ?_))
    exact h.sublist (List.filter_sublist.map _)
  · exact .refl

theorem moves_placeMirror (d : List Byte) (s : State) : Moves s (placeMirror d s) := moves_place _ _

theorem moves_mirror (s : State) : Moves s (mirror s) := by
  unfold mirror; dsimp only; split
  · exact Moves.then (Moves.of (.slate _ _ (by exact id))) (moves_nextFree s)
  · exact (moves_placeMirror _ _).then (moves_nextFree s)

theorem moves_mirrorWriteDone (j : Job) (b : Bool) (s : State) : Moves s (mirrorWriteDone j b s) := by
  unfold mirrorWriteDone; repeat' split
  · exact moves_writeError _ _
  · exact (moves_placeMirror _ _).then (Moves.of (.slate _ _ (by exact id)))
  · exact .refl

theorem moves_readReturnedTo (s : State) : Moves s (readReturnedTo s) := by
  unfold readReturnedTo; split
  · exact .refl
  · exact moves_place _ _

/-- The drain keeps the bounds of the Report Unit, whatever they were: a chain of moves only from a state that has them. -/
theorem moves_drain (s : State) : Moves s (drainHoldList s.reports.holdList s) := by
  by_cases h : reportsFit s.reports
  · exact moves_drainHoldList _ s h h.1
  · have key : ∀ (l : List Report) (t : State), ¬ reportsFit t.reports → Moves t (drainHoldList l t) := by
      intro l
      induction l with
      | nil => intro t ht; exact Moves.of (.reports _ _ fun h => absurd h ht)
      | cons r l ih =>
        intro t ht; unfold drainHoldList; split
        · exact (ih (writeReport r t) ht).then (moves_writeReport _ _)
        · exact Moves.of (.reports _ _ fun h => absurd h ht)
    exact key _ s h

theorem moves_returnedToRead (n : Nat) (s : State) : Moves s (returnedToRead n s) := by
  unfold returnedToRead; dsimp only
  have c : Moves s (if n < (header s).reportCount then { s with reports := { s.reports with returnedTo := n } } else s) := by
    split
    · exact Moves.of (.reports _ _ (by exact id))
    · exact .refl
  generalize (if n < (header s).reportCount then { s with reports := { s.reports with returnedTo := n } } else s) = t at c
  exact Moves.then (Moves.of (.reports _ _ (by exact id))) ((moves_drain t).then c)

theorem moves_returnedToDone (j : Job) (b : Bool) (s : State) : Moves s (returnedToDone j b s) := by
  unfold returnedToDone; split
  · exact moves_captureJob _ _ _
  · exact moves_returnedToRead _ _

theorem moves_writtenToDone (j : Job) (b : Bool) (s : State) : Moves s (writtenToDone j b s) := by
  unfold writtenToDone; split
  · exact moves_writeError _ _
  · exact moves_setFlags _ _

theorem moves_plainWriteDone (j : Job) (b : Bool) (s : State) : Moves s (plainWriteDone j b s) := by
  unfold plainWriteDone; split
  · exact moves_writeError _ _
  · exact .refl

/-! ### Boundaries -/

theorem moves_closeClips (s : State) : Moves s (closeClips s) := by
  have h : Moves s { s with mix := { s.mix with buses := s.mix.buses.map Bus.closeClip } } := by
    refine Moves.of (.mix _ _ (by exact id) fun h b => ?_)
    simpa [Bus.closeClip] using h b
  unfold closeClips; dsimp only; split
  · exact (moves_emit _ _).then h
  · exact h

theorem moves_closeMeter (s : State) : Moves s (closeMeter s) := by
  unfold closeMeter; repeat' split
  · exact (moves_emit _ _).then (moves_clearMeters _)
  · exact Moves.of (.mix _ _ (by exact id) (by exact id))
  · exact .refl

theorem moves_boundaryVoice (s : State) (v : Fin 24) : Moves s (boundaryVoice s v) := by
  unfold boundaryVoice; dsimp only; repeat' split
  · exact moves_enterSounding _ _ _ _ _ (by simp [*, Content.soundingClaim])
  · exact (moves_missVoice _ _ _ _ _ _)
  · exact moves_enterSounding _ _ _ _ _ (by simp [*, Content.soundingClaim])
  · exact .refl
  · exact (moves_missVoice _ _ _ _ _ _)
  · exact (moves_setContent _ _ _ (by simp [*, Content.soundingClaim]))
  · exact .refl
  · exact (moves_missVoice _ _ _ _ _ _)
  · exact (moves_setContent _ _ _ (by simp [*, Content.soundingClaim]))
  · exact .refl
  · exact .refl

theorem moves_boundarySlate (s : State) : Moves s (boundarySlate s) := by
  unfold boundarySlate; split
  · exact (moves_mirror _).then (moves_startScan _)
  · exact .refl

theorem moves_boundaryReports (s : State) : Moves s (boundaryReports s) := by
  unfold boundaryReports; split
  · exact moves_readReturnedTo _
  · exact .refl

theorem moves_boundarySchedule (s : State) : Moves s (boundarySchedule s) := by
  unfold boundarySchedule; split
  · exact moves_scheduleWalk _
  · exact .refl

theorem moves_makeBoundary (c : BoundaryCause) (s : State) : Moves s (makeBoundary c s) := by
  unfold makeBoundary; dsimp only
  exact (moves_boundarySchedule _).then ((moves_foldl _ moves_boundaryVoice _ _).then
    ((moves_boundarySlate _).then ((moves_boundaryReports _).then ((moves_closeMeter _).then ((moves_closeClips _).then
      (moves_setClock _ _))))))

theorem moves_predictedBoundary (s : State) : Moves s (predictedBoundary s) := by
  unfold predictedBoundary; split
  · exact (moves_makeBoundary _ _).then (moves_setClock _ _)
  · exact .refl

theorem moves_reEpoch (s : State) : Moves s (reEpoch s) := by
  unfold reEpoch; dsimp only; split
  · exact moves_setClock _ _
  · exact (moves_makeBoundary _ _).then (moves_setClock _ _)

theorem moves_judgePulse (s : State) : Moves s (judgePulse s) := by
  unfold judgePulse; repeat' split
  · exact (moves_reEpoch _).then ((moves_changeLock _ _ _))
  · exact (moves_setClock _ _)
  · exact (moves_strayPulse _)
  · exact ((moves_changeLock _ _ _).then (moves_setClock _ _))
  · exact (moves_reEpoch _).then ((moves_changeLock _ _ _))

theorem moves_takePulse (s : State) : Moves s (takePulse s) := by
  unfold takePulse; split
  · exact (moves_judgePulse _).then ((moves_setClock _ _))
  · exact .refl

/-! ### Events of one voice -/

theorem moves_exactStart (v : Fin 24) (s : State) : Moves s (exactStart v s) := by
  unfold exactStart; repeat' split
  · exact .refl
  · exact moves_enterSounding _ _ _ _ _ (by simp [*, Content.soundingClaim])
  · exact .refl
  · exact .refl

theorem moves_naturalEnd (v : Fin 24) (s : State) : Moves s (naturalEnd v s) := by
  unfold naturalEnd; repeat' split
  · exact (moves_emitEnded _ _ _ _ _).then (moves_leaveIdle _ _ _)
  · exact .refl
  · exact moves_endRelease _ _ _ (by simp [*, Content.soundingClaim])
  · exact .refl
  · exact .refl

theorem moves_releaseComplete (v : Fin 24) (s : State) : Moves s (releaseComplete v s) := by
  unfold releaseComplete; repeat' split
  · exact moves_endRelease _ _ _ (by simp [*, Content.soundingClaim])
  · exact .refl
  · exact .refl

theorem moves_discardOutgoing (v : Fin 24) (p : Playing) (i : Incoming) (s : State)
    (h : (s.voice v).content.soundingClaim = none) : Moves s (discardOutgoing v p i s) := by
  have m : Moves s (setVoice v { s.voice v with
      content := .priming i, lastEnd := some (p.claim.number, false), stream := [], fetchPosition := 0, feeding := none
      refillFailed := false } s) := Moves.of (.voice _ _ _ h.symm)
  unfold discardOutgoing; dsimp only; split
  · exact (moves_tell _ _ _).then m
  · exact m

theorem content_discardOutgoing (v : Fin 24) (p : Playing) (i : Incoming) (s : State) :
    ((discardOutgoing v p i s).voice v).content = .priming i := by
  unfold discardOutgoing; dsimp only; split
  · rw [tell_voice, setVoice_self]
  · rw [setVoice_self]

theorem moves_handoverFadeEnd (v : Fin 24) (s : State) : Moves s (handoverFadeEnd v s) := by
  unfold handoverFadeEnd; split
  · next p i landed h =>
    have d := moves_discardOutgoing v p i s (by rw [h]; rfl)
    dsimp only; repeat' split
    · exact (moves_actOnStart _ _ _ (by rw [content_discardOutgoing]; rfl)).then d
    · exact d
    · exact .refl
  · exact .refl

/-! ### Requests -/

theorem moves_withVoice (t : Taken) (v : Nat) (f : Fin 24 → State → State) (s : State) (h : ∀ v, Moves s (f v s)) :
    Moves s (withVoice t v f s) := by
  unfold withVoice; split
  · exact h _
  · exact (moves_giveResult _ _ _ _)

theorem moves_requestGo (t : Taken) (a : Nat × Bool) (s : State) : Moves s (requestGo t a s) := by
  refine moves_withVoice _ _ _ _ fun v => ?_
  unfold goVoice; dsimp only; split
  · exact (moves_giveResult _ _ _ _)
  · split
    · refine Moves.then (moves_giveResult _ _ _ _) ?_
      split
      · exact (moves_arm _ _ _ (by simp [*, Content.soundingClaim]))
      · exact moves_enterSounding _ _ _ _ _ (by simp [*, Content.soundingClaim])
    · exact ((moves_giveResult _ _ _ _).then (moves_setContent _ _ _ (by simp [*, Content.soundingClaim])))
    · exact (moves_giveResult _ _ _ _)

theorem moves_requestSetVar (t : Taken) (a : Nat × VarOp × Half) (s : State) : Moves s (requestSetVar t a s) := by
  unfold requestSetVar; dsimp only; split
  · exact (moves_giveResult _ _ _ _).then (moves_setVariable _ _ _)
  · exact moves_giveResult _ _ _ _

theorem moves_releaseRequest (t : Taken) (r : EndReason) (f : Playing → Nat) (v : Fin 24) (s : State) :
    Moves s (releaseRequest t r f v s) := by
  unfold releaseRequest; split
  · exact moves_giveResult _ _ _ _
  · exact (moves_giveResult _ _ _ _).then (moves_releaseVoice _ _ _ _ _)

theorem moves_requestCutLast (t : Taken) (a : Unit) (s : State) : Moves s (requestCutLast t a s) := by
  unfold requestCutLast; split
  · exact (moves_giveResult _ _ _ _).then (moves_cutVoice _ _)
  · exact (moves_giveResult _ _ _ _).then (moves_nextFree _)

theorem moves_unloopVoice (v : Fin 24) (p : Playing) (f : Playing → Content) (s : State)
    (h : (f { p with loopActive := false }).soundingClaim = (s.voice v).content.soundingClaim) :
    Moves s (unloopVoice v p f s) :=
  (moves_placeRefill _ _).then ((moves_testFollow _ _).then ((moves_realign _ _ _).then (moves_setContent _ _ _ h)))

theorem moves_unloopNow (t : Taken) (v : Fin 24) (s : State) : Moves s (unloopNow t v s) := by
  unfold unloopNow; split
  · exact (moves_giveResult _ _ _ _).then (moves_unloopVoice _ _ _ _ (by simp [*, Content.soundingClaim]))
  · exact (moves_giveResult _ _ _ _).then (moves_unloopVoice _ _ _ _ (by simp [*, Content.soundingClaim]))
  · exact moves_giveResult _ _ _ _

theorem moves_unloopRequest (t : Taken) (v : Fin 24) (s : State) : Moves s (unloopRequest t v s) :=
  (moves_unloopNow _ _ _).then (moves_completeEntry _ _)

theorem moves_requestReleaseGroup (t : Taken) (g : Nat) (s : State) : Moves s (requestReleaseGroup t g s) := by
  unfold requestReleaseGroup; split
  · exact (moves_giveResult _ _ _ _).then (moves_releaseGroup _ _)
  · exact moves_giveResult _ _ _ _

theorem moves_clearLink (v : Fin 24) (s : State) : Moves s (clearLink v s) := Moves.of (.schedule _ _ (by exact id))

theorem moves_cancelLink (g : Half) (a : Nat × State) (v : Fin 24) : Moves a.2 (cancelLink g a v).2 := by
  unfold cancelLink; split
  · split
    · split
      · exact (moves_emit _ _).then ((moves_withdraw _ _).then (moves_clearLink _ _))
      · exact moves_clearLink _ _
    · exact .refl
  · exact .refl

theorem moves_cancelLinks (g : Half) (l : List (Fin 24)) : ∀ a : Nat × State, Moves a.2 (l.foldl (cancelLink g) a).2 := by
  induction l with
  | nil => intro a; exact .refl
  | cons v l ih => intro a; exact (moves_cancelLink g a v).trans (ih _)

theorem moves_requestCancel (t : Taken) (g : Half) (s : State) : Moves s (requestCancel t g s) := by
  unfold requestCancel; dsimp only
  refine (moves_giveResult _ _ _ _).then ((moves_cancelLinks g allVoices (0, _)).then ?_)
  exact moves_setEntries _ _ (List.length_filter_le _ _)

theorem moves_armResult (t : Taken) (x : BitVec 64) (s : State) : Moves s (armResult t x s) :=
  (moves_giveResult _ _ _ _).then (Moves.of (.trigger _ _ (by exact id)))

theorem moves_requestReopen (t : Taken) (m : BitVec 8) (s : State) : Moves s (requestReopen t m s) :=
  (moves_giveResult _ _ _ _).then (moves_reopenGroups _ _)

theorem moves_requestPin (t : Taken) (x : Word × ClipFormat) (s : State) : Moves s (requestPin t x s) := by
  unfold requestPin; split
  · exact moves_giveResult _ _ _ _
  · split
    · split <;> exact moves_giveResult _ _ _ _
    · next h =>
      split
      · exact moves_giveResult _ _ _ _
      · refine (moves_place _ _).then (Moves.of (.cache _ _ fun n => ⟨?_, ?_⟩))
        · rw [List.length_append, List.length_singleton]; omega
        · rw [List.map_append, List.nodup_append]
          refine ⟨n.2, by simp, ?_⟩
          intro a ha b hb e
          simp only [List.map_cons, List.map_nil, List.mem_singleton] at hb
          subst hb; subst e
          obtain ⟨y, hy, hy'⟩ := List.mem_map.1 ha
          unfold cacheEntry at h
          rw [List.find?_eq_none] at h
          exact h y hy (by simpa using hy')

theorem moves_unpinPending (t : Taken) (e : CacheEntry) (n : Nat) (s : State) : Moves s (unpinPending t e n s) := by
  unfold unpinPending; split
  · exact (moves_giveResult _ _ _ _).then (moves_setEntry _ _ _)
  · exact (moves_giveResult _ _ _ _).then ((moves_giveResult _ _ _ _).then ((moves_dropEntry _ _).then (Moves.of (.port s _))))

theorem moves_requestUnpin (t : Taken) (x : Word × ClipFormat) (s : State) : Moves s (requestUnpin t x s) := by
  unfold requestUnpin; repeat' split
  · exact moves_giveResult _ _ _ _
  · exact (moves_giveResult _ _ _ _).then (moves_dropEntry _ _)
  · exact moves_giveResult _ _ _ _
  · exact moves_unpinPending _ _ _ _

theorem moves_requestTrim (t : Taken) (a : Nat × Int) (s : State) : Moves s (requestTrim t a s) := by
  unfold requestTrim; split
  · unfold trimBus; dsimp only
    refine (moves_giveResult _ _ _ _).then (Moves.of (.mix _ _ (by exact id) fun h b => ?_))
    rename_i hb
    by_cases e : a.1 = b.val
    · have := h ⟨a.1, hb⟩
      simp only [Fin.getElem_fin] at this ⊢
      simp only [← e, Vector.getElem_set_self]
      exact this
    · have := h b
      simp only [Fin.getElem_fin] at this ⊢
      rw [Vector.getElem_set_ne _ _ e]
      exact this
  · exact moves_giveResult _ _ _ _

theorem moves_deepHoldSchedule (s : State) : Moves s (deepHoldSchedule s) :=
  (moves_foldl _ (fun _ _ => moves_emit _ _) _ _).then (moves_setEntries _ _ (by simp))

theorem moves_enterHold (d : Depth) (r : HoldRelease) (g : Half) (s : State) : Moves s (enterHold d r g s) := by
  have h : ∀ r' : RunControl, ∀ x, Moves s (emit x { s with run := r' }) := fun r' x =>
    (moves_emit _ _).then (Moves.of (.run _ _))
  unfold enterHold; dsimp only; split
  · exact h _ _
  · exact (moves_deepHoldCache _).then ((moves_deepHoldVoices _).then ((moves_deepHoldSchedule _).then (h _ _)))

theorem moves_judgeHold (t : Taken) (d : Depth) (r : HoldRelease) (s : State) : Moves s (judgeHold t d r s) := by
  unfold judgeHold; dsimp only; repeat' split
  · exact moves_giveResult _ _ _ _
  · exact (moves_giveResult _ _ _ _).then (moves_nextFree _)
  · exact moves_giveResult _ _ _ _
  · exact (moves_giveResult _ _ _ _).then (moves_enterHold _ _ _ _)

theorem moves_requestHold (t : Taken) (a : Depth × Option Nat) (s : State) : Moves s (requestHold t a s) := by
  unfold requestHold; repeat' split
  · exact moves_judgeHold _ _ _ _
  · exact moves_judgeHold _ _ _ _
  · exact moves_giveResult _ _ _ _

theorem moves_requestResume (t : Taken) (a : Unit) (s : State) : Moves s (requestResume t a s) := by
  unfold requestResume; split
  · exact moves_giveResult _ _ _ _
  · exact (moves_giveResult _ _ _ _).then (moves_leaveHold _ _ _)

theorem moves_requestScene (t : Taken) (i : Nat) (s : State) : Moves s (requestScene t i s) := by
  unfold requestScene; repeat' split
  · exact moves_giveResult _ _ _ _
  · exact moves_giveResult _ _ _ _
  · exact moves_beginSwitch _ _

theorem moves_latchResult (t : Taken) (x : BitVec 16) (s : State) : Moves s (latchResult t x s) :=
  (moves_giveResult _ _ _ _).then (Moves.of (.tally _ _))

theorem moves_requestSetRate (t : Taken) (c : Nat) (s : State) : Moves s (requestSetRate t c s) := by
  unfold requestSetRate; repeat' split
  · exact (moves_giveResult _ _ _ _).then (moves_changeRate _ _)
  · exact moves_giveResult _ _ _ _
  · exact moves_giveResult _ _ _ _

theorem moves_requestAckFault (t : Taken) (a : Unit) (s : State) : Moves s (requestAckFault t a s) :=
  (moves_giveResult _ _ _ _).then ((moves_placeFaultRecord _).then (Moves.of (.fault _ _ fun _ => by decide)))

theorem moves_ownerActs (t : Taken) (r : Request) (s : State) : Moves s (ownerActs t r s) := by
  unfold ownerActs; split
  · exact (moves_takeSlate _ _ _ _ _)
  · exact (moves_takeSlate _ _ _ _ _)
  · exact (moves_takeSlate _ _ _ _ _)
  · exact moves_requestGo _ _ _
  · exact (moves_requestSetVar _ _ _)
  · exact moves_withVoice _ _ _ _ fun v =>  (moves_releaseRequest _ _ _ _ _)
  · exact moves_withVoice _ _ _ _ fun v =>  (moves_releaseRequest _ _ _ _ _)
  · exact (moves_requestCutLast _ _ _)
  · exact moves_withVoice _ _ _ _ fun v =>  (moves_unloopRequest _ _ _)
  · exact (moves_requestReleaseGroup _ _ _)
  · exact (moves_requestCancel _ _ _)
  · exact (moves_armResult _ _ _)
  · exact (moves_armResult _ _ _)
  · exact (moves_requestReopen _ _ _)
  · exact (moves_requestPin _ _ _)
  · exact (moves_requestUnpin _ _ _)
  · exact (moves_requestTrim _ _ _)
  · exact (moves_requestHold _ _ _)
  · exact (moves_requestResume _ _ _)
  · exact (moves_requestScene _ _ _)
  · exact (moves_latchResult _ _ _)
  · exact (moves_latchResult _ _ _)
  · exact (moves_requestSetRate _ _ _)
  · exact (moves_requestAckFault _ _ _)

/-! ### One period of the word clock -/

theorem moves_headTaken (s : State) : Moves s (headTaken s) := by
  unfold headTaken; repeat' split
  · exact .refl
  · exact .refl
  · exact Moves.then (moves_settleQueue _ _) ((moves_ownerActs _ _ _).then ((moves_popHead _)))

theorem moves_takeWaiting (n : Nat) : ∀ s, Moves s (takeWaiting n s) := by
  induction n with
  | zero => intro s; exact .refl
  | succ n ih => intro s; exact (ih _).then ((moves_headTaken _).then ((moves_takeItem _)))

theorem moves_settle (s : State) : Moves s (settle s) := by
  have stop : ∀ t, Moves t (if stoppingEnds t then endStopping t else t) := fun t => by
    split
    · exact moves_endStopping _
    · exact .refl
  unfold settle; dsimp only
  refine Moves.then (moves_placeRefills _) ((moves_takeWaiting _ _).then (Moves.then (stop _) ?_))
  refine (moves_foldl _ (fun t v => moves_exactStart v t) _ _).then ?_
  refine (moves_foldl _ (fun t v => moves_handoverFadeEnd v t) _ _).then ?_
  refine Moves.then (moves_foldl _ (fun t v => moves_releaseComplete v t) _ _) ?_
  refine Moves.then (moves_foldl _ (fun t v => moves_naturalEnd v t) _ _) ?_
  refine Moves.then (moves_foldl _ (fun t v => moves_testFollow v t) _ _) ?_
  refine Moves.then (moves_foldl _ (fun t v => moves_keyEdge v t) _ _) ?_
  refine Moves.then (moves_foldl _ (fun t v => moves_lineEdge v t) _ _) ?_
  refine Moves.then (moves_takeQueued _) (Moves.then (moves_closeWindow _) ?_)
  exact (moves_predictedBoundary _).then ((moves_takePulse _).then ((moves_foldl _ (fun t g => moves_duckStep g t) _ _)))

theorem clampBus_range (x : Int) : -8388608 ≤ clampBus x ∧ clampBus x ≤ 8388607 := by
  unfold clampBus clamp; omega

theorem moves_mixBuses (c : List Contribution) (s : State) : Moves s (mixBuses c s) := by
  refine Moves.of (.mix _ _ (by exact id) fun _ b => ?_)
  simp only [Fin.getElem_fin, Vector.getElem_ofFn, mixBus]
  exact ⟨clampBus_range _, clampBus_range _⟩

theorem moves_reportUnderrun (v : Fin 24) (p : Playing) (b : Bool) (s : State) : Moves s (reportUnderrun v p b s) := by
  unfold reportUnderrun; split
  · exact moves_tell _ _ _
  · exact .refl

theorem moves_playVoice (s : State) (v : Fin 24) : Moves s (playVoice s v) := by
  unfold playVoice; dsimp only; repeat' split
  · exact moves_setContent _ _ _ (by simp [*, Content.soundingClaim, Playing.wait])
  · exact (moves_reportUnderrun _ _ _ _).then (Moves.of (.voice _ _ _ (by simp [*, Content.soundingClaim, Playing.play])))
  · exact moves_setContent _ _ _ (by simp [*, Content.soundingClaim])
  · exact (moves_reportUnderrun _ _ _ _).then (Moves.of (.voice _ _ _ (by simp [*, Content.soundingClaim])))
  · exact moves_setContent _ _ _ (by simp [*, Content.soundingClaim])
  · exact Moves.of (.voice _ _ _ (by simp [*, Content.soundingClaim]))
  · exact .refl

theorem moves_newSample (p : Pins) (s : State) : Moves s (newSample p s) := by
  unfold newSample; dsimp only
  refine (moves_mapDucks _ _ fun g d h => ?_).then (Moves.then (Moves.of (.tally _ _)) (Moves.then (Moves.of (.trigger _ _ (by exact id)))
    ((moves_sampleInputs _ _).then (moves_setClock _ s))))
  unfold Duck.tick; split <;> exact h

theorem moves_sampleTick (p : Pins) (s : State) : Moves s (sampleTick p s) := by
  unfold sampleTick; dsimp only
  exact Moves.then (moves_placeRefills _) (Moves.then (moves_completeEntries _ _) (Moves.then (moves_newSample _ _) (Moves.then (moves_foldl _ moves_playVoice _ _)
    (Moves.then (moves_mixBuses _ _) (moves_settle _)))))

/-! ### The commands -/

theorem moves_handOn {α : Type} (pick : Request → Option α) (act : Taken → α → State → State)
    (h : ∀ t a s, Moves s (act t a s)) (s : State) : Moves s (handOn pick act s) := by
  unfold handOn; repeat' split
  · exact .refl
  · exact .refl
  · exact Moves.then (moves_arbitrate _) (Moves.then (moves_settleQueue _ _) ((h _ _ _).then ((moves_popHead _))))

theorem moves_jobDone (is : JobKind → Bool) (e : JobEnd) (act : Job → Bool → State → State)
    (h : ∀ j b s, Moves s (act j b s)) (s : State) : Moves s (jobDone is e act s) := by
  unfold jobDone; split
  · exact .refl
  · next j _ =>
    split
    · have d : Moves s { s with
          mem := memoryAfter j e (e.error || j.outOfRange) s.mem
          port := { s.port with inFlight := none, discard := false } } :=
         (Moves.then (Moves.of (.port _ _)) (Moves.of (.mem s _ (wf_memoryAfter _ _ _))))
      dsimp only
      refine Moves.then (moves_arbitrate _) ?_
      split
      · exact d
      · exact (h _ _ _).then d
    · exact .refl

theorem moves_busyClearEnds (e : JobEnd) (n : Nat) (s : State) : Moves s (busyClearEnds e n s) := by
  unfold busyClearEnds; repeat' split
  · exact .refl
  · exact (moves_jobDone _ _ _ (fun j _ t =>  (moves_busyClearDone _ _ _ _ _)) _).then
      ((Moves.of (.mem s _ (wf_busyMemory _ _ _ _))))
  · exact .refl

theorem moves_answer {s t : State} (h : Moves s t) : ∃ u, answer t = .next u ∧ Moves s u :=
  ⟨_, rfl, Moves.then (moves_arbitrate _) h⟩

/-- Every command answers a next state, reached by a chain of acts. -/
theorem exec_acts (c : Instr) (s : State) : ∃ t, exec c s = .next t ∧ Moves s t := by
  have slate : ∀ {α : Type} (pick : Request → Option α) (act : Taken → α → State → State),
      (∀ t a s, Moves s (act t a s)) → Moves s (if slateTurn s then handOn pick act s else s) := by
    intro α pick act h
    split
    · exact moves_handOn _ _ (fun _ _ _ =>  (h _ _ _)) _
    · exact .refl
  have job : ∀ (is : JobKind → Bool) (e : JobEnd) (act : Job → Bool → State → State), (∀ j b t, Moves t (act j b t)) →
      Moves s (jobDone is e act s) := fun is e act h => moves_jobDone _ _ _ (fun _ _ _ =>  (h _ _ _)) _
  have req : ∀ {α : Type} (pick : Request → Option α) (act : Taken → α → State → State), (∀ t a s, Moves s (act t a s)) →
      Moves s (handOn pick act s) := fun pick act h => moves_handOn _ _ (fun _ _ _ =>  (h _ _ _)) _
  cases c with
  | runSet e => exact moves_answer ((moves_writeControl _ _ _ _))
  | runClear e => exact moves_answer ((moves_writeControl _ _ _ _))
  | warmReset => exact moves_answer ((moves_doWarmReset _))
  | coldReset => exact moves_answer ((moves_doColdReset _))
  | interruptEnableWrite e => exact moves_answer ((moves_setEnables _ _))
  | interruptFlagClear v => exact moves_answer ((Moves.of (.regs _ _)))
  | registerWrite o v => exact moves_answer ((moves_writeRegister _ _ _))
  | sample p => exact moves_answer (moves_sampleTick _ _)
  | referencePulse => exact moves_answer (moves_takePulse _)
  | predictedBoundary => exact moves_answer (moves_predictedBoundary _)
  | windowClose => exact moves_answer ((moves_closeWindow _))
  | lineEvent n => exact moves_answer ((moves_lineEdge _ _))
  | keyEvent k => exact moves_answer ((moves_keyEdge _ _))
  | queuedEventTaken => exact moves_answer ((moves_takeQueued _))
  | headerReadDone e => exact ⟨_, rfl, job _ _ _ moves_headerDone⟩
  | sceneBusyClearDone e n => exact ⟨_, rfl, moves_busyClearEnds _ _ _⟩
  | startWrittenToDone e => exact ⟨_, rfl, job _ _ _ moves_startWrittenToDone⟩
  | stoppingComplete =>
    refine moves_answer ?_
    split
    · exact (moves_endStopping _)
    · exact .refl
  | slateReadDone e => exact ⟨_, rfl, job _ _ _ moves_slateReadDone⟩
  | takenWriteDone e => exact ⟨_, rfl, job _ _ _ moves_takenWriteDone⟩
  | completionWriteDone e => exact ⟨_, rfl, job _ _ _ moves_completionWriteDone⟩
  | resolverTake => exact moves_answer ((moves_takeItem _))
  | descriptorReadDone e =>
    exact ⟨_, rfl, moves_jobDone _ _ _ (moves_resolverReadDone _ _ fun _ _ _ =>  (moves_descriptorRead _ _ _)) _⟩
  | cueReadDone e =>
    exact ⟨_, rfl, moves_jobDone _ _ _ (moves_resolverReadDone _ _ fun _ _ _ => moves_cueRead _ _ _) _⟩
  | headJobDone e => exact ⟨_, rfl, moves_jobDone _ _ _ moves_headDone _⟩
  | refillJobDone e => exact ⟨_, rfl, job _ _ _ moves_refillDone⟩
  | pinJobDone e => exact ⟨_, rfl, job _ _ _ moves_pinDone⟩
  | sceneRecordReadDone e =>
    exact ⟨_, rfl, job _ _ _ (moves_sceneReadDone _ fun _ _ _ => moves_sceneRecordRead _ _ _)⟩
  | ruleTableReadDone e => exact ⟨_, rfl, job _ _ _ (moves_sceneReadDone _ moves_ruleTableRead)⟩
  | busyWriteDone e => exact ⟨_, rfl, job _ _ _ moves_busyWriteDone⟩
  | returnedToReadDone e => exact ⟨_, rfl, job _ _ _ moves_returnedToDone⟩
  | writtenToWriteDone e => exact ⟨_, rfl, job _ _ _ moves_writtenToDone⟩
  | fatalWriteFault e =>
    refine ⟨_, rfl, ?_⟩
    split
    · exact job _ _ _ fun _ _ _ => moves_writeError _ _
    · exact .refl
  | exactStart v => exact moves_answer (moves_exactStart _ _)
  | followOnRequest v => exact moves_answer ((moves_testFollow _ _))
  | naturalEnd v => exact moves_answer ((moves_naturalEnd _ _))
  | releaseComplete v => exact moves_answer ((moves_releaseComplete _ _))
  | handoverFadeEnd v => exact moves_answer (moves_handoverFadeEnd _ _)
  | duckStep g => exact moves_answer ((moves_duckStep _ _))
  | fire => exact ⟨_, rfl, slate _ _ fun _ _ _ => moves_takeSlate _ _ _ _ _⟩
  | prime => exact ⟨_, rfl, slate _ _ fun _ _ _ => moves_takeSlate _ _ _ _ _⟩
  | probe => exact ⟨_, rfl, slate _ _ fun _ _ _ => moves_takeSlate _ _ _ _ _⟩
  | go => exact ⟨_, rfl, moves_handOn _ _ moves_requestGo _⟩
  | setVar => exact ⟨_, rfl, req _ _ moves_requestSetVar⟩
  | release =>
    exact ⟨_, rfl, moves_handOn _ _ (fun _ _ _ => moves_withVoice _ _ _ _ fun v =>  (moves_releaseRequest _ _ _ _ _)) _⟩
  | cut =>
    exact ⟨_, rfl, moves_handOn _ _ (fun _ _ _ => moves_withVoice _ _ _ _ fun v =>  (moves_releaseRequest _ _ _ _ _)) _⟩
  | cutLast => exact ⟨_, rfl, req _ _ moves_requestCutLast⟩
  | unloop =>
    exact ⟨_, rfl, moves_handOn _ _ (fun _ _ _ => moves_withVoice _ _ _ _ fun v =>  (moves_unloopRequest _ _ _)) _⟩
  | releaseGroup => exact ⟨_, rfl, req _ _ moves_requestReleaseGroup⟩
  | cancel => exact ⟨_, rfl, req _ _ moves_requestCancel⟩
  | armRules => exact ⟨_, rfl, req _ _ fun _ _ _ => moves_armResult _ _ _⟩
  | disarmRules => exact ⟨_, rfl, req _ _ fun _ _ _ => moves_armResult _ _ _⟩
  | reopen => exact ⟨_, rfl, req _ _ moves_requestReopen⟩
  | pin => exact ⟨_, rfl, req _ _ moves_requestPin⟩
  | unpin => exact ⟨_, rfl, req _ _ moves_requestUnpin⟩
  | trim => exact ⟨_, rfl, req _ _ moves_requestTrim⟩
  | hold => exact ⟨_, rfl, req _ _ moves_requestHold⟩
  | resume => exact ⟨_, rfl, req _ _ moves_requestResume⟩
  | scene => exact ⟨_, rfl, req _ _ moves_requestScene⟩
  | linesWrite => exact ⟨_, rfl, req _ _ fun _ _ _ => moves_latchResult _ _ _⟩
  | linesModify => exact ⟨_, rfl, req _ _ fun _ _ _ => moves_latchResult _ _ _⟩
  | setRate => exact ⟨_, rfl, req _ _ moves_requestSetRate⟩
  | ackFault => exact ⟨_, rfl, req _ _ moves_requestAckFault⟩
  | mirrorWriteDone e => exact ⟨_, rfl, job _ _ _ moves_mirrorWriteDone⟩
  | reportRecordWriteDone e => exact ⟨_, rfl, job _ _ _ moves_plainWriteDone⟩
  | faultRecordWriteDone e => exact ⟨_, rfl, job _ _ _ moves_plainWriteDone⟩

end Sys2Proof.Machine
end

