-- ==== Sys2Proof/Laws/Mix.lean ====
section
/-! SUPPORT. The level arithmetic of the mix (R151 to R154, R157, R159) in the words of the statements: floors of exact
quotients, and sums over the voices. -/

namespace Sys2Proof.Machine

/-- A fade record gives the value of R153 or R154. -/
theorem fadeValue_eq (p : Playing) : p.fadeValue = fadeNow p := by
  unfold Playing.fadeValue Fade.value fadeNow
  cases p.fade with
  | fadeIn n =>
    have h : ⌊(256 * n : ℚ) / p.sound.fadeIn⌋ = ((256 * n / p.sound.fadeIn : Nat) : Int) := by
      have := Rat.floor_intCast_div_natCast (256 * n) p.sound.fadeIn
      push_cast at this ⊢
      exact this
    simp only [h]
  | release f l m =>
    have h : ⌊((f + 256) * m : ℚ) / l⌋ = (f + 256) * m / l := by
      have := Rat.floor_intCast_div_natCast ((f + 256) * m) l
      push_cast at this ⊢
      exact this
    simp only [h]

/-- The effective code never exceeds +16 (R151). -/
theorem codeNow_le (s : State) (p : Playing) (b : Fin 4) : codeNow s p b ≤ 16 := by
  unfold codeNow
  dsimp only
  split
  · omega
  · exact max_le (by omega) (min_le_left _ _)

/-- The mantissas are the table's (R152). -/
theorem mantissa_eq {r : Nat} (h : r < 16) : mantissa r = mantissas.getD r 0 := by
  interval_cases r <;> rfl

/-- A contribution is the exact product rounded to nearest, halves towards +∞ (R152). -/
theorem contribution_eq {code : Int} (h : code ≤ 16) (x : Int) : contribution code x = scaled code x := by
  unfold contribution scaled
  split
  · rfl
  · obtain ⟨k, hk⟩ : ∃ k : Nat, (15 - code / 16).toNat = k + 1 := ⟨(14 - code / 16).toNat, by omega⟩
    have hr : code - 16 * (code / 16) = code % 16 := by omega
    simp only [hr, hk, mantissa_eq (r := (code % 16).toNat) (by omega), Nat.add_sub_cancel]
    have floor := Rat.floor_intCast_div_natCast (x * mantissas.getD (code % 16).toNat 0 + 2 ^ k) (2 ^ (k + 1))
    push_cast at floor ⊢
    rw [← floor]
    congr 1
    rw [pow_succ]
    field_simp

/-- The code the mix uses is that of R151. -/
theorem effectiveCode_eq (s : State) (p : Playing) (b : Fin 4) :
    effectiveCode p.sound.level p.claim.req.cue.offset p.fadeValue (duckTerm s p.sound.duck) s.mix.buses[b].trim
      = codeNow s p b := by
  rw [fadeValue_eq]
  unfold effectiveCode codeNow duckTerm clampLevel clamp
  split
  · rfl
  · cases p.sound.duck <;> rfl

/-- What one voice hands the mix gives bus `b` its share on both sides. -/
theorem shareOf_eq (s : State) (b : Fin 4) (v : Fin 24) :
    ((s.voice v).contribution.map (sidesOn s b)).getD (0, 0) = (shareOf s b Frame.left v, shareOf s b Frame.right v) := by
  unfold Voice.contribution shareOf
  cases (s.voice v).content.playing with
  | none => rfl
  | some p =>
    cases hn : p.fromNext <;> cases (s.voice v).stream.head? <;> simp [hn, sidesOn]
    rename_i f
    simp only [codeOn, effectiveCode_eq, contribution_eq (codeNow_le s p b)]
    split <;> rfl

/-- The sums of a bus are the sums of the voices' shares (R159). -/
theorem busSum_eq (s : State) (b : Fin 4) :
    busSum s b (contributions s) = (sumOf s b Frame.left, sumOf s b Frame.right) := by
  have voices : s.voices.toList = (List.finRange 24).map s.voice := by
    apply List.ext_getElem <;> simp [State.voice]
  have step (vs : List (Fin 24)) : busSum s b ((vs.map s.voice).filterMap Voice.contribution)
      = ((vs.map (shareOf s b Frame.left)).sum, (vs.map (shareOf s b Frame.right)).sum) := by
    induction vs with
    | nil => rfl
    | cons v vs ih =>
      have h := shareOf_eq s b v
      cases hc : (s.voice v).contribution <;>
        simp_all [busSum, Prod.ext_iff]
      all_goals omega
  unfold contributions sumOf
  rw [voices, step]

/-- One sample of a duck group (R157). -/
theorem tick_eq (d : Duck) : d.tick = counted d := rfl

end Sys2Proof.Machine
end

