-- ==== Sys2Proof/Laws/Port.lean ====
section
/-! SUPPORT. What the arbiter and the placing of jobs can do, and what the result of a request can do: the frame lemmas
that every statement about a command rests on. -/

namespace Sys2Proof.Machine

/-! ### Voices that differ in the pending refill only -/

theorem voiceAlike_refl (v : Fin 24) (s : State) : voiceAlike v s s := rfl

theorem voicesAlike_refl (s : State) : voicesAlike s s := fun _ => rfl

theorem voicesAlike.trans {s t u : State} (h : voicesAlike s t) (h' : voicesAlike t u) : voicesAlike s u := by
  intro v
  have a := h v
  have b := h' v
  rw [← b] at a
  exact a

/-- What alike voices share. -/
theorem voicesAlike.content {s t : State} (h : voicesAlike s t) (v : Fin 24) : (t.voice v).content = (s.voice v).content := by
  have := congrArg Voice.content (h v); exact this

theorem voicesAlike.claimNo {s t : State} (h : voicesAlike s t) (v : Fin 24) : (t.voice v).claimNo = (s.voice v).claimNo := by
  have := congrArg Voice.claimNo (h v); exact this

theorem voicesAlike.lastEnd {s t : State} (h : voicesAlike s t) (v : Fin 24) : (t.voice v).lastEnd = (s.voice v).lastEnd := by
  have := congrArg Voice.lastEnd (h v); exact this

theorem voicesAlike.head {s t : State} (h : voicesAlike s t) (v : Fin 24) : (t.voice v).head = (s.voice v).head := by
  have := congrArg Voice.head (h v); exact this

theorem voicesAlike.stream {s t : State} (h : voicesAlike s t) (v : Fin 24) : (t.voice v).stream = (s.voice v).stream := by
  have := congrArg Voice.stream (h v); exact this

theorem voicesAlike.fetchPosition {s t : State} (h : voicesAlike s t) (v : Fin 24) :
    (t.voice v).fetchPosition = (s.voice v).fetchPosition := by
  have := congrArg Voice.fetchPosition (h v); exact this

theorem voicesAlike.feeding {s t : State} (h : voicesAlike s t) (v : Fin 24) : (t.voice v).feeding = (s.voice v).feeding := by
  have := congrArg Voice.feeding (h v); exact this

theorem voicesAlike_of_voices {s t : State} (h : t.voices = s.voices) : voicesAlike s t := fun v => by
  rw [voice_of_voices h]

/-! ### States that differ in the port and pending refills only -/

theorem portOnly_refl (s : State) : portOnly s s := ⟨rfl, voicesAlike_refl s⟩

theorem portOnly.trans {s t u : State} (h : portOnly s t) (h' : portOnly t u) : portOnly s u := by
  refine ⟨?_, h.2.trans h'.2⟩
  have a := h.1
  rw [← h'.1] at a
  exact a

theorem portOnly_port (s : State) (p : Port) : portOnly s { s with port := p } := ⟨rfl, fun _ => rfl⟩

theorem portOnly_voice (v : Fin 24) (b : Bool) (s : State) : portOnly s (setVoice v { s.voice v with refillPending := b } s) := by
  refine ⟨rfl, fun w => ?_⟩
  rw [setVoice_at]; split
  · next e => subst e; rfl
  · rfl

theorem portOnly_place (j : Job) (s : State) : portOnly s (place j s) := ⟨rfl, fun _ => rfl⟩

theorem portOnly.clock {s t : State} (h : portOnly s t) : t.clock = s.clock := by
  have := congrArg State.clock h.1; exact this
theorem portOnly.regs {s t : State} (h : portOnly s t) : t.regs = s.regs := by
  have := congrArg State.regs h.1; exact this
theorem portOnly.slate {s t : State} (h : portOnly s t) : t.slate = s.slate := by
  have := congrArg State.slate h.1; exact this
theorem portOnly.resolver {s t : State} (h : portOnly s t) : t.resolver = s.resolver := by
  have := congrArg State.resolver h.1; exact this
theorem portOnly.startOrder {s t : State} (h : portOnly s t) : t.startOrder = s.startOrder := by
  have := congrArg State.startOrder h.1; exact this
theorem portOnly.schedule {s t : State} (h : portOnly s t) : t.schedule = s.schedule := by
  have := congrArg State.schedule h.1; exact this
theorem portOnly.trigger {s t : State} (h : portOnly s t) : t.trigger = s.trigger := by
  have := congrArg State.trigger h.1; exact this
theorem portOnly.cache {s t : State} (h : portOnly s t) : t.cache = s.cache := by
  have := congrArg State.cache h.1; exact this
theorem portOnly.mix {s t : State} (h : portOnly s t) : t.mix = s.mix := by
  have := congrArg State.mix h.1; exact this
theorem portOnly.run {s t : State} (h : portOnly s t) : t.run = s.run := by
  have := congrArg State.run h.1; exact this
theorem portOnly.tally {s t : State} (h : portOnly s t) : t.tally = s.tally := by
  have := congrArg State.tally h.1; exact this
theorem portOnly.reports {s t : State} (h : portOnly s t) : t.reports = s.reports := by
  have := congrArg State.reports h.1; exact this
theorem portOnly.fault {s t : State} (h : portOnly s t) : t.fault = s.fault := by
  have := congrArg State.fault h.1; exact this
theorem portOnly.mem {s t : State} (h : portOnly s t) : t.mem = s.mem := by
  have := congrArg State.mem h.1; exact this
theorem portOnly.free {s t : State} (h : portOnly s t) : t.free = s.free := by
  have := congrArg State.free h.1; exact this
theorem portOnly.pending {s t : State} (h : portOnly s t) : t.pending = s.pending := by
  have := congrArg State.pending h.1; exact this

theorem portOnly.rest {s t : State} (h : portOnly s t) : t.rest = s.rest := by
  unfold State.rest
  rw [h.clock, h.regs, h.slate, h.resolver, h.schedule, h.trigger, h.cache, h.mix, h.run, h.tally, h.reports, h.mem,
    h.pending]

theorem portOnly.slotAt {s t : State} (h : portOnly s t) (i : Nat) : slotAt i t = slotAt i s := by
  unfold Machine.slotAt; rw [h.slate]

theorem portOnly.resultOf {s t : State} (h : portOnly s t) (i : Nat) : resultOf i t = resultOf i s := by
  unfold Machine.resultOf; rw [h.slotAt]

theorem portOnly.awaiting {s t : State} (h : portOnly s t) {i : Nat} (a : awaiting i s) : awaiting i t := by
  unfold Machine.awaiting at *; rw [h.slotAt]; exact a

/-! ### The arbiter (R139) -/

/-- A voice record that differs in the pending refill only makes the same jobs stale. -/
theorem refillStale_alike {s t : State} (h : voicesAlike s t) (j : Job) : refillStale t j = refillStale s j := by
  unfold refillStale; split
  · rw [h.feeding]
  · rfl

theorem headStale_alike {s t : State} (h : voicesAlike s t) (j : Job) : headStale t j = headStale s j := by
  unfold headStale; split
  · rw [h.claimNo, h.content]
  · rfl

theorem refillKey_alike {s t : State} (h : voicesAlike s t) (j : Job) : refillKey t j = refillKey s j := by
  unfold refillKey; split
  · rw [h.stream]
  · rfl

theorem portOnly_dropRefill (j : Job) (s : State) : portOnly s (dropRefill j s) := by
  unfold dropRefill; dsimp only; split
  · exact (portOnly_port s _).trans (portOnly_voice _ _ _)
  · exact portOnly_port s _

theorem portOnly_takeRefill (n : Nat) : ∀ s, portOnly s (takeRefill n s).2 := by
  induction n with
  | zero => intro s; exact portOnly_refl s
  | succ n ih =>
    intro s; unfold takeRefill; split
    · exact portOnly_refl s
    · split
      · exact (portOnly_dropRefill _ s).trans (ih _)
      · exact portOnly_port s _

theorem portOnly_takeNext (s : State) : portOnly s (takeNext s) := by
  have h := portOnly_takeRefill s.port.refill.length s
  unfold takeNext
  split
  · next h' => rw [h'] at h; exact h.trans (portOnly_port _ _)
  · next h' =>
    rw [h'] at h
    dsimp only at h ⊢
    repeat' split
    all_goals exact h.trans (portOnly_port _ _)

/-- The arbiter changes the port, and the pending refill of voices whose stale refills it removes. -/
theorem portOnly_arbitrate (s : State) : portOnly s (arbitrate s) := by
  unfold arbitrate; split
  · exact portOnly_refl s
  · exact portOnly_takeNext s

theorem firstRefill_mem (s : State) {l : List Job} {j : Job} (h : firstRefill s l = some j) : j ∈ l := by
  induction l generalizing j with
  | nil => simp [firstRefill] at h
  | cons a l ih =>
    unfold firstRefill at h; split at h
    · cases h; simp
    · next b hb => split at h <;> cases h; exacts [List.mem_cons_of_mem _ (ih hb), List.mem_cons_self]

/-- The jobs that wait in the classes behind REFILL. -/
def behindRefill (p : Port) : List Job := p.resolver ++ p.house ++ p.head ++ p.scene ++ p.pin

theorem behindRefill_drop (j : Job) (s : State) : behindRefill (dropRefill j s).port = behindRefill s.port := by
  unfold dropRefill; dsimp only; split <;> rfl

theorem takeRefill_keeps (n : Nat) : ∀ (s : State) (j : Job), refillStale s j = false → j ∈ s.port.refill →
    (takeRefill n s).1 = some j ∨ j ∈ (takeRefill n s).2.port.refill := by
  induction n with
  | zero => intro s j _ h; exact .inr h
  | succ n ih =>
    intro s j hs h
    unfold takeRefill; split
    · exact .inr h
    · next b hb =>
      split
      · next hb' =>
        refine ih _ j (by rw [refillStale_alike (portOnly_dropRefill b s).2]; exact hs) ?_
        have : j ≠ b := fun e => by subst e; rw [hs] at hb'; exact Bool.noConfusion hb'
        unfold dropRefill; dsimp only
        have hm := (List.mem_erase_of_ne this).mpr h
        split <;> exact hm
      · by_cases e : j = b
        · subst e; exact .inl rfl
        · exact .inr ((List.mem_erase_of_ne e).mpr h)

theorem behindRefill_take (n : Nat) : ∀ s, behindRefill (takeRefill n s).2.port = behindRefill s.port := by
  induction n with
  | zero => intro s; rfl
  | succ n ih =>
    intro s; unfold takeRefill; split
    · rfl
    · split
      · rw [ih, behindRefill_drop]
      · rfl

theorem atPort_iff (j : Job) (s : State) :
    atPort j s ↔ s.port.inFlight = some j ∨ j ∈ s.port.refill ∨ j ∈ behindRefill s.port := by
  unfold atPort behindRefill; simp only [List.mem_append]; tauto

/-- A job that is not stale stays at the port under the arbiter. -/
theorem atPort_arbitrate {j : Job} {s : State} (h : atPort j s) (hr : refillStale s j = false)
    (hh : headStale s j = false) : atPort j (arbitrate s) := by
  unfold arbitrate
  cases hf : s.port.inFlight with
  | some x => simpa using h
  | none =>
    simp only [Option.isSome_none, Bool.false_eq_true, if_false]
    rw [atPort_iff, hf] at h
    simp only [reduceCtorEq, false_or] at h
    have hv := portOnly_takeRefill s.port.refill.length s
    have hb := behindRefill_take s.port.refill.length s
    have hk := takeRefill_keeps s.port.refill.length s j hr
    unfold takeNext
    split
    · next x u hx =>
      rw [hx] at hv hb hk
      rw [atPort_iff]
      rcases h with h | h
      · rcases hk h with e | e
        · exact .inl e
        · exact .inr (.inl e)
      · right; right; rw [← hb] at h; exact h
    · next u hx =>
      rw [hx] at hv hb hk
      have hh' : headStale u j = false := by rw [headStale_alike hv.2]; exact hh
      have h : j ∈ u.port.refill ∨ j ∈ behindRefill u.port := by
        rcases h with h | h
        · rcases hk h with e | e
          · cases e
          · exact .inl e
        · right; dsimp only at hb; rw [hb]; exact h
      rw [atPort_iff]
      have drop : ∀ l : List Job, j ∈ l → j ∈ l.dropWhile (headStale u) := by
        intro l
        induction l with
        | nil => exact id
        | cons a l ih =>
          intro hm
          rw [List.dropWhile_cons]
          split
          · next ha =>
            rcases List.mem_cons.mp hm with e | e
            · subst e; rw [hh'] at ha; exact Bool.noConfusion ha
            · exact ih e
          · exact hm
      have hd := drop u.port.head
      unfold behindRefill at h ⊢
      simp only [List.mem_append] at h ⊢
      repeat' split
      all_goals (simp only [launch]; simp_all only [List.mem_cons, List.not_mem_nil, Option.some.injEq]; tauto)

/-! ### Placed jobs -/

/-- An idle port has no job (R138). -/
theorem not_atPort_of_idle {s : State} (h : s.port.idle = true) (j : Job) : ¬ atPort j s := by
  unfold Port.idle at h
  simp only [Bool.and_eq_true, Option.isNone_iff_eq_none, List.isEmpty_iff] at h
  obtain ⟨⟨⟨⟨⟨⟨a, b⟩, c⟩, d⟩, e⟩, f⟩, g⟩ := h
  unfold atPort
  rw [a, b, c, d, e, f, g]
  simp

theorem atPort_place_self (j : Job) (s : State) : atPort j (place j s) := by
  unfold atPort place Port.put
  split
  · exact .inl rfl
  · unfold Port.enqueue; dsimp only; cases j.kind.cls <;> simp

theorem atPort_place {j : Job} (k : Job) {s : State} (h : atPort j s) : atPort j (place k s) := by
  unfold place Port.put
  split
  · next e => exact absurd h (not_atPort_of_idle e j)
  · unfold atPort Port.enqueue at *; dsimp only; cases k.kind.cls <;> simp <;> tauto

/-- A job placed and not stale is at the port when the arbiter has acted. -/
theorem atPort_placed (j : Job) (s : State) (hr : refillStale s j = false) (hh : headStale s j = false) :
    atPort j (arbitrate (place j s)) := atPort_arbitrate (atPort_place_self j s) hr hh

/-! ### The port goes on -/

theorem mem_queue_atPort {s : State} {c : JobClass} {j : Job} (h : j ∈ s.port.queue c) : atPort j s := by
  unfold atPort; cases c <;> simp only [Port.queue] at h <;> tauto

theorem atPort_queue (j : Job) (s : State) :
    atPort j s ↔ s.port.inFlight = some j ∨ ∃ c, j ∈ s.port.queue c := by
  constructor
  · rintro (h | h | h | h | h | h | h)
    exacts [.inl h, .inr ⟨.refill, h⟩, .inr ⟨.resolver, h⟩, .inr ⟨.house, h⟩, .inr ⟨.head, h⟩, .inr ⟨.scene, h⟩,
      .inr ⟨.pin, h⟩]
  · rintro (h | ⟨c, h⟩)
    exacts [.inl h, mem_queue_atPort h]

theorem portGoesOn_of_port {new : Job → Prop} {s t : State} (h : t.port = s.port) : portGoesOn new s t := by
  unfold portGoesOn atPort; rw [h]
  exact ⟨rfl, fun _ => id, fun _ => .inl, fun _ => .inl, fun c => ⟨[], by simp, by simp⟩⟩

theorem portGoesOn.mono {new new' : Job → Prop} {s t : State} (h : portGoesOn new s t) (hn : ∀ j, new j → new' j) :
    portGoesOn new' s t := by
  obtain ⟨a, b, c, d, e⟩ := h
  refine ⟨a, b, fun j hj => ?_, fun j hj => (d j hj).imp_right (hn j), fun q => ?_⟩
  · rcases c j hj with h | h | h | ⟨h, k, hk, e⟩
    exacts [.inl h, .inr (.inl h), .inr (.inr (.inl h)), .inr (.inr (.inr ⟨h, k, hn k hk, e⟩))]
  · obtain ⟨l, hl, hs⟩ := e q
    exact ⟨l, fun j hj => hn j (hl j hj), hs⟩

/-- The port goes on through two commands, when the voices are alike through the first. -/
theorem portGoesOn.trans {new : Job → Prop} {s t u : State} (h : portGoesOn new s t) (hv : voicesAlike s t)
    (h' : portGoesOn new t u) : portGoesOn new s u := by
  obtain ⟨a, b, c, d, e⟩ := h
  obtain ⟨a', b', c', d', e'⟩ := h'
  refine ⟨a'.trans a, fun j hj => b' j (b j hj), fun j hj => ?_, fun j hj => ?_, fun q => ?_⟩
  · rcases c j hj with h | h | h | h
    · have := c' j h
      rw [refillStale_alike hv, headStale_alike hv] at this
      exact this
    exacts [.inr (.inl h), .inr (.inr (.inl h)), .inr (.inr (.inr h))]
  · rcases d' j hj with h | h
    exacts [d j h, .inr h]
  · obtain ⟨l, hl, hs⟩ := e q
    obtain ⟨l', hl', hs'⟩ := e' q
    refine ⟨l ++ l', fun j hj => (List.mem_append.mp hj).elim (hl j) (hl' j), hs'.trans ?_⟩
    rw [← List.append_assoc]
    exact hs.append_right l'

theorem portGoesOn_place {new : Job → Prop} (j : Job) (s : State) (h : new j) : portGoesOn new s (place j s) := by
  refine ⟨?_, fun x hx => ?_, fun x hx => .inl (atPort_place j hx), fun x hx => ?_, fun q => ⟨[j], by simpa using h, ?_⟩⟩
  · unfold place Port.put Port.enqueue; dsimp only; split
    · rfl
    · cases j.kind.cls <;> rfl
  · have : s.port.idle = false := by unfold Port.idle; rw [hx]; rfl
    unfold place Port.put Port.enqueue; dsimp only; rw [this]
    cases j.kind.cls <;> exact hx
  · by_cases e : x = j
    · subst e; exact .inr h
    · left
      unfold place Port.put at hx
      split at hx
      · next hi =>
        rw [atPort_queue] at hx
        rcases hx with hx | ⟨c, hx⟩
        · exact absurd (Option.some.inj hx).symm e
        · exact mem_queue_atPort (c := c) (by cases c <;> exact hx)
      · unfold atPort Port.enqueue at *; dsimp only at hx
        revert hx; cases j.kind.cls <;> simp [e]
  · unfold place Port.put; dsimp only; split
    · exact (by cases q <;> exact List.sublist_append_left _ _)
    · refine .trans (List.Sublist.filter _ (l₂ := s.port.queue q ++ [j]) ?_) ?_
      · unfold Port.enqueue
        cases j.kind.cls <;> cases q <;> simp [Port.queue]
      · rw [List.filter_append]
        exact List.Sublist.append_left List.filter_sublist _

theorem portGoesOn_dropRefill {new : Job → Prop} (j : Job) (s : State) (h : refillStale s j = true) :
    portGoesOn new s (dropRefill j s) := by
  have hp : (dropRefill j s).port = { s.port with refill := s.port.refill.erase j } := by
    unfold dropRefill; dsimp only; split <;> rfl
  unfold portGoesOn atPort; rw [hp]
  refine ⟨rfl, fun _ => id, fun x hx => ?_, fun x hx => .inl ?_, fun q => ⟨[], by simp, ?_⟩⟩
  · by_cases e : x = j
    · subst e; exact .inr (.inl h)
    · left; simp only [List.mem_erase_of_ne e]; exact hx
  · rcases hx with h | h | h
    exacts [.inl h, .inr (.inl (List.mem_of_mem_erase h)), .inr (.inr h)]
  · rw [List.append_nil]
    refine List.Sublist.filter _ ?_
    cases q <;> first | exact List.Sublist.refl _ | exact List.erase_sublist

/-- A job taken from its queue is in flight. -/
theorem portGoesOn_take {new : Job → Prop} (j : Job) (s : State) (p : Port) (hf : s.port.inFlight = none)
    (hp : p.inFlight = some j) (hd : p.discard = s.port.discard) (hj : atPort j s)
    (hs : ∀ c, (p.queue c).Sublist (s.port.queue c))
    (hm : ∀ c x, x ∈ s.port.queue c → x = j ∨ x ∈ p.queue c ∨ headStale s x = true) :
    portGoesOn new s { s with port := p } := by
  refine ⟨hd, fun x (hx : s.port.inFlight = some x) => (nomatch hf.symm.trans hx), fun x hx => ?_, fun x hx => .inl ?_, fun q => ⟨[], by simp, ?_⟩⟩
  · rw [atPort_queue] at hx ⊢
    rcases hx with hx | ⟨c, hx⟩
    · rw [hf] at hx; cases hx
    · rcases hm c x hx with e | e | e
      · subst e; exact .inl (.inl hp)
      · exact .inl (.inr ⟨c, e⟩)
      · exact .inr (.inr (.inl e))
  · rw [atPort_queue] at hx
    rcases hx with hx | ⟨c, hx⟩
    · cases Option.some.inj (hp.symm.trans hx); exact hj
    · exact mem_queue_atPort ((hs c).subset hx)
  · rw [List.append_nil]; exact (hs q).filter _

/-- The arbiter at the REFILL queue: what it leaves, with the job it took in flight. -/
theorem portGoesOn_takeRefill {new : Job → Prop} (n : Nat) : ∀ s, s.port.inFlight = none →
    portGoesOn new s (match (takeRefill n s).1 with
      | some j => launch j (takeRefill n s).2
      | none => (takeRefill n s).2) := by
  induction n with
  | zero => intro s _; exact portGoesOn_of_port rfl
  | succ n ih =>
    intro s hf
    cases hb : firstRefill s s.port.refill with
    | none => simp only [takeRefill, hb]; exact portGoesOn_of_port rfl
    | some b =>
      simp only [takeRefill, hb]
      by_cases hb' : refillStale s b = true
      · rw [if_pos hb']
        have hf' : (dropRefill b s).port.inFlight = none := by
          unfold dropRefill; dsimp only; split <;> exact hf
        exact (portGoesOn_dropRefill b s hb').trans (portOnly_dropRefill b s).2 (ih _ hf')
      · rw [if_neg hb']
        refine portGoesOn_take b s { s.port with refill := s.port.refill.erase b, inFlight := some b } hf rfl rfl
          (.inr (.inl (firstRefill_mem s hb))) ?_ ?_
        · intro c; cases c <;> first | exact List.Sublist.refl _ | exact List.erase_sublist
        · intro c x hx
          by_cases e : x = b
          · exact .inl e
          · right; left
            cases c <;> first | exact hx | exact (List.mem_erase_of_ne e).mpr hx

/-- The arbiter places no job, and removes none but the stale ones it comes to. -/
theorem portGoesOn_arbitrate {new : Job → Prop} (s : State) : portGoesOn new s (arbitrate s) := by
  unfold arbitrate; split
  · exact portGoesOn_of_port rfl
  · next hf =>
    have hf : s.port.inFlight = none := by simpa using hf
    have h := portGoesOn_takeRefill (new := new) s.port.refill.length s hf
    have hv := (portOnly_takeRefill s.port.refill.length s).2
    have hn : ∀ n (s : State), s.port.inFlight = none → (takeRefill n s).2.port.inFlight = none := by
      intro n
      induction n with
      | zero => intro s h; exact h
      | succ n ih =>
        intro s h
        unfold takeRefill; split
        · exact h
        · split
          · refine ih _ ?_
            unfold dropRefill; dsimp only; split <;> exact h
          · exact h
    have hu := hn s.port.refill.length s hf
    unfold takeNext
    split
    · next j u hx => rw [hx] at h; exact h
    · next u hx =>
      rw [hx] at h hv hu
      dsimp only at h hv hu ⊢
      refine h.trans hv ?_
      have drop : ∀ l : List Job, ∀ x ∈ l, x ∈ l.dropWhile (headStale u) ∨ headStale u x = true := by
        intro l
        induction l with
        | nil => intro x h; cases h
        | cons a l ih =>
          intro x hm
          rw [List.dropWhile_cons]
          split
          · next ha =>
            rcases List.mem_cons.mp hm with e | e
            · subst e; exact .inr ha
            · exact ih x e
          · exact .inl hm
      have hd := drop u.port.head
      have hsub : (u.port.head.dropWhile (headStale u)).Sublist u.port.head := List.dropWhile_sublist _
      split
      · next j r hq =>
        refine portGoesOn_take j u _ hu rfl rfl (.inr (.inr (.inl (by rw [hq]; simp)))) ?_ ?_
        · intro c; cases c <;> simp [Port.queue, hq]
        · intro c x hx; cases c <;> simp_all [Port.queue]; tauto
      · next hq =>
      split
      · next j r hq2 =>
        refine portGoesOn_take j u _ hu rfl rfl (.inr (.inr (.inr (.inl (by rw [hq2]; simp))))) ?_ ?_
        · intro c; cases c <;> simp [Port.queue, hq2]
        · intro c x hx; cases c <;> simp_all [Port.queue]; tauto
      · next hq2 =>
      split
      · next j r hq3 =>
        refine portGoesOn_take j u _ hu rfl rfl (.inr (.inr (.inr (.inr (.inl ?_))))) ?_ ?_
        · exact hsub.subset (by rw [hq3]; simp)
        · intro c; cases c <;> first | exact List.Sublist.refl _ | skip
          exact .trans (by simp [Port.queue, hq3]) hsub
        · intro c x hx; cases c <;> simp only [Port.queue] at hx ⊢ <;> first | exact .inr (.inl hx) | skip
          rcases hd x hx with e | e
          · rw [hq3] at e; exact (List.mem_cons.mp e).imp_right .inl
          · exact .inr (.inr e)
      · next hq3 =>
      have clear : portGoesOn new u { u with port := { u.port with head := [] } } := by
        refine ⟨rfl, fun x hx => hx, fun x hx => ?_, fun x hx => .inl ?_, fun q => ⟨[], by simp, ?_⟩⟩
        · unfold atPort at *
          rcases hx with h | h | h | h | h | h
          · exact .inl (.inl h)
          · exact .inl (.inr (.inl h))
          · exact .inl (.inr (.inr (.inl h)))
          · exact .inl (.inr (.inr (.inr (.inl h))))
          · rcases hd x h with e | e
            · rw [hq3] at e; cases e
            · exact .inr (.inr (.inl e))
          · exact .inl (.inr (.inr (.inr (.inr (.inr h)))))
        · unfold atPort at *; simp only [List.not_mem_nil, false_or] at hx; tauto
        · rw [List.append_nil]; refine List.Sublist.filter _ ?_
          cases q <;> first | exact List.Sublist.refl _ | exact List.nil_sublist _
      have cv : voicesAlike u { u with port := { u.port with head := [] } } := fun _ => rfl
      refine clear.trans cv ?_
      dsimp only
      split
      · next j r hq4 =>
        refine portGoesOn_take j { u with port := { u.port with head := [] } } _ hu rfl rfl ?_ ?_ ?_
        · exact .inr (.inr (.inr (.inr (.inr (.inl (by show j ∈ u.port.scene; rw [hq4]; simp))))))
        · intro c; cases c <;> simp [Port.queue, hq4]
        · intro c x hx; cases c <;> simp_all [Port.queue]; tauto
      · next hq4 =>
      split
      · next j r hq5 =>
        refine portGoesOn_take j { u with port := { u.port with head := [] } } _ hu rfl rfl ?_ ?_ ?_
        · exact .inr (.inr (.inr (.inr (.inr (.inr (by show j ∈ u.port.pin; rw [hq5]; simp))))))
        · intro c; cases c <;> simp [Port.queue, hq5]
        · intro c x hx; cases c <;> simp_all [Port.queue]; tauto
      · exact portGoesOn_of_port rfl

/-- The arbiter's work, as the statements say it. -/
theorem portBut_arbitrate (s : State) : portBut s (arbitrate s) := ⟨portOnly_arbitrate s, portGoesOn_arbitrate s⟩

theorem portBut.then_arbitrate {s t : State} (h : portOnly s t) {new : Job → Prop} (g : portGoesOn new s t) :
    portOnly s (arbitrate t) ∧ portGoesOn new s (arbitrate t) :=
  ⟨h.trans (portOnly_arbitrate t), g.trans h.2 (portGoesOn_arbitrate t)⟩

/-- One job placed, and the arbiter's work. -/
theorem portPlus_place (k : Job) (s : State) (hr : refillStale s k = false) (hh : headStale s k = false) :
    portPlus k s (arbitrate (place k s)) :=
  have h := portBut.then_arbitrate (portOnly_place k s) (portGoesOn_place (new := fun j => j = k) k s rfl)
  ⟨h.1, h.2, atPort_placed k s hr hh⟩

theorem portGoesOn_giveResult {new : Job → Prop} (i : Nat) (r : ResultCode) (d : List Byte) (s : State)
    (hn : ∀ j : Job, j.kind.completes → new j) : portGoesOn new s (giveResult i r d s) := by
  unfold giveResult placeCompletion; dsimp only
  repeat' split
  all_goals first
    | exact portGoesOn_of_port rfl
    | exact portGoesOn_place (s := { s with slate := { s.slate with held := recordResult i r d s.slate.held } }) _
        (hn _ trivial)

theorem portGoesOn_settleQueue {new : Job → Prop} (hn : ∀ j : Job, j.kind.completes → new j) (l : List Taken) :
    ∀ s, portGoesOn new s (settleQueue l s) := by
  induction l with
  | nil => intro s; exact portGoesOn_of_port rfl
  | cons t l ih =>
    intro s
    unfold settleQueue; split
    · exact portGoesOn_of_port rfl
    · exact (portGoesOn_giveResult _ _ _ _ hn).trans (voicesAlike_of_voices (by rw [giveResult_voices])) (ih _)

/-! ### Results of slots (R44) -/

theorem find_recordResult (i : Nat) (r : ResultCode) (d : List Byte) (l : List Held) (k : Nat) :
    (recordResult i r d l).find? (fun h => h.taken.slot == k) =
      if k = i then (l.find? fun h => h.taken.slot == k).map fun h =>
        if h.result.isNone then { h with result := some r, detail := d } else h
      else l.find? fun h => h.taken.slot == k := by
  induction l with
  | nil => simp [recordResult]
  | cons h l ih =>
    unfold recordResult
    by_cases e : h.taken.slot = i
    · rw [if_pos e]
      have slot : (if h.result.isNone then { h with result := some r, detail := d } else h).taken.slot = h.taken.slot := by
        split <;> rfl
      by_cases ek : k = i
      · subst ek
        rw [if_pos rfl, List.find?_cons_of_pos (by rw [slot]; simpa using e), List.find?_cons_of_pos (by simpa using e)]
        rfl
      · rw [if_neg ek, List.find?_cons_of_neg (by rw [slot]; simp; omega), List.find?_cons_of_neg (by simp; omega)]
    · rw [if_neg e]
      by_cases ek : k = i
      · subst ek
        simp only [if_true] at ih ⊢
        rw [List.find?_cons_of_neg (by simp; exact e), ih, List.find?_cons_of_neg (by simp; exact e)]
      · simp only [if_neg ek] at ih ⊢
        by_cases hk : h.taken.slot = k
        · rw [List.find?_cons_of_pos (by simp; exact hk), List.find?_cons_of_pos (by simp; exact hk)]
        · rw [List.find?_cons_of_neg (by simp; exact hk), ih, List.find?_cons_of_neg (by simp; exact hk)]

theorem placeCompletion_slotAt (h : Held) (s : State) (k : Nat) : slotAt k (placeCompletion h s) = slotAt k s := by
  unfold slotAt; rw [placeCompletion_slate]

/-- A result given to a slot that awaits one is recorded; every other slot keeps its record. -/
theorem giveResult_slotAt (i : Nat) (r : ResultCode) (d : List Byte) (s : State) (k : Nat) :
    slotAt k (giveResult i r d s) =
      if k = i then (slotAt k s).map fun h => if h.result.isNone then { h with result := some r, detail := d } else h
      else slotAt k s := by
  have key := find_recordResult i r d s.slate.held k
  by_cases e : k = i
  · subst e
    rw [if_pos rfl]
    unfold giveResult
    split
    · next h => unfold slotAt; rw [h]; rfl
    · next h hh =>
      dsimp only
      split
      · next hs =>
        unfold slotAt; rw [hh, Option.map_some]
        rw [if_neg (by rw [Option.isNone_iff_eq_none]; intro e; rw [e] at hs; exact Bool.noConfusion hs)]
      · rw [if_pos rfl] at key
        split
        · rw [placeCompletion_slotAt]; exact key
        · exact key
  · rw [if_neg e] at key ⊢
    unfold giveResult; split
    · rfl
    · dsimp only; split
      · rfl
      · split
        · rw [placeCompletion_slotAt]; exact key
        · exact key

theorem giveResult_slotAt_other {i k : Nat} (r : ResultCode) (d : List Byte) (s : State) (h : k ≠ i) :
    slotAt k (giveResult i r d s) = slotAt k s := by rw [giveResult_slotAt, if_neg h]

theorem giveResult_resultOf {i : Nat} (r : ResultCode) (d : List Byte) {s : State} (h : awaiting i s) :
    resultOf i (giveResult i r d s) = some (r, d) := by
  obtain ⟨x, hx, hn⟩ := h
  unfold resultOf; rw [giveResult_slotAt, if_pos rfl, hx]; simp [hn]

/-- A slot that has its result keeps it. -/
theorem giveResult_resultOf_kept {i k : Nat} (r : ResultCode) (d : List Byte) {s : State} {x : ResultCode × List Byte}
    (h : resultOf k s = some x) : resultOf k (giveResult i r d s) = some x := by
  unfold resultOf at *; rw [giveResult_slotAt]
  split
  · cases hs : slotAt k s with
    | none => rw [hs] at h; simp at h
    | some y =>
      rw [hs] at h
      cases hy : y.result with
      | none => simp [hy] at h
      | some z => simp [hy] at h ⊢; exact h
  · exact h

theorem giveResult_awaiting_other {i k : Nat} (r : ResultCode) (d : List Byte) {s : State} (h : k ≠ i)
    (a : awaiting k s) : awaiting k (giveResult i r d s) := by
  unfold awaiting at *; rw [giveResult_slotAt_other r d s h]; exact a

/-- Decoding the head of the queue touches no slot whose request does not wait in it. -/
theorem settleQueue_slotAt (k : Nat) (l : List Taken) : ∀ s, k ∉ l.map Taken.slot →
    slotAt k (settleQueue l s) = slotAt k s := by
  induction l with
  | nil => intro s _; rfl
  | cons t l ih =>
    intro s h
    simp only [List.map_cons, List.mem_cons, not_or] at h
    unfold settleQueue; split
    · rfl
    · rw [ih _ h.2, giveResult_slotAt_other _ _ _ h.1]

theorem settleQueue_resultOf (k : Nat) (l : List Taken) : ∀ s x, resultOf k s = some x →
    resultOf k (settleQueue l s) = some x := by
  induction l with
  | nil => intro s x h; exact h
  | cons t l ih =>
    intro s x h
    unfold settleQueue; split
    · exact h
    · exact ih _ _ (giveResult_resultOf_kept _ _ h)

theorem atPort_giveResult {j : Job} (i : Nat) (r : ResultCode) (d : List Byte) {s : State} (h : atPort j s) :
    atPort j (giveResult i r d s) := by
  unfold giveResult placeCompletion; dsimp only
  repeat' split
  all_goals first | exact h | exact atPort_place _ h

theorem atPort_settleQueue {j : Job} (l : List Taken) : ∀ {s : State}, atPort j s → atPort j (settleQueue l s) := by
  induction l with
  | nil => intro s h; exact h
  | cons t l ih =>
    intro s h
    unfold settleQueue; split
    · exact h
    · exact ih (atPort_giveResult _ _ _ h)

/-! ### Requests handed on (R43) -/

theorem headRequest_queue {s : State} {tk : Taken} {rest : List Taken} {q : Request}
    (h : headRequest s = some (tk, rest, q)) : s.slate.queue = tk :: rest := by
  unfold headRequest at h; split at h
  · split at h
    · cases h
    · next t ts hq => split at h <;> cases h; exact hq
  · cases h

theorem headRequest_running {s : State} {tk : Taken} {rest : List Taken} {q : Request}
    (h : headRequest s = some (tk, rest, q)) : isRunning s = true := by
  unfold headRequest at h; split at h
  · assumption
  · cases h

theorem handOn_eq {α : Type} {pick : Request → Option α} {act : Taken → α → State → State} {s : State} {tk : Taken}
    {rest : List Taken} {q : Request} {a : α} (h : headRequest s = some (tk, rest, q)) (hp : pick q = some a) :
    handOn pick act s = arbitrate (settleQueue (act tk a (popHead s)).slate.queue (act tk a (popHead s))) := by
  unfold handOn; simp only [h, hp]

/-- The end of a command that hands a request on: from the owner's state `w`, whose slate is the popped one but for what
the owner did to held slots, the queue is settled and the arbiter acts. -/
theorem settled_slateOnly (i : Nat) {u w : State} (hw : { w with port := u.port, slate := u.slate } = u)
    (hq : w.slate.queue = u.slate.queue.tail) (hs : { w.slate with held := u.slate.held, queue := u.slate.queue } = u.slate)
    (hk : ∀ k, k ≠ i → slotAt k w = slotAt k u) : slateOnly i u (arbitrate (settleQueue w.slate.queue w)) := by
  have hp := portOnly_arbitrate (settleQueue w.slate.queue w)
  have he := settleQueue_eq w.slate.queue w
  have vw : w.voices = u.voices := by have := congrArg State.voices hw; exact this
  refine ⟨?_, ?_, ?_, ?_⟩
  · have a := congrArg (fun x : State => { x with port := u.port, voices := u.voices, slate := u.slate }) hp.1
    have b := congrArg (fun x : State => { x with port := u.port, voices := u.voices, slate := u.slate }) he
    have c := congrArg (fun x : State => { x with port := u.port, voices := u.voices, slate := u.slate }) hw
    exact a.trans (b.trans c)
  · exact (voicesAlike_of_voices (by rw [settleQueue_voices, vw])).trans hp.2
  · rw [hp.slate, he, ← hs]
  · intro k hk1 hk2
    rw [hp.slotAt, settleQueue_slotAt _ _ _ ?_, hk k hk1]
    rw [hq]
    intro hm
    apply hk2
    rw [List.mem_map] at hm ⊢
    obtain ⟨x, hx, e⟩ := hm
    exact ⟨x, List.mem_of_mem_tail hx, e⟩

/-- The port through the end of a command that hands a request on. -/
theorem settled_goesOn {new : Job → Prop} {u w : State} (h : portGoesOn new u w) (hv : voicesAlike u w)
    (hn : ∀ j : Job, j.kind.completes → new j) : portGoesOn new u (arbitrate (settleQueue w.slate.queue w)) :=
  (h.trans hv (portGoesOn_settleQueue hn _ w)).trans
    (hv.trans (voicesAlike_of_voices (settleQueue_voices _ _))) (portGoesOn_arbitrate _)

/-- A request whose owner gives its result at once. -/
theorem handOn_gives {α : Type} {pick : Request → Option α} {act : Taken → α → State → State} {s : State} {tk : Taken}
    {rest : List Taken} {q : Request} {a : α} (h : headRequest s = some (tk, rest, q)) (hp : pick q = some a)
    (hw : awaiting tk.slot s) {r : ResultCode} {d : List Byte} {u : State}
    (ha : act tk a (popHead s) = giveResult tk.slot r d u) (hu : u.slate = (popHead s).slate) :
    resultOf tk.slot (handOn pick act s) = some (r, d)
      ∧ slateBut tk.slot { u with slate := s.slate } (handOn pick act s) := by
  rw [handOn_eq h hp, ha]
  have us : ∀ k, slotAt k u = slotAt k s := by intro k; unfold slotAt; rw [hu]; rfl
  have uw : awaiting tk.slot u := by unfold awaiting; rw [us]; exact hw
  refine ⟨?_, ?_⟩
  · rw [(portOnly_arbitrate _).resultOf]
    exact settleQueue_resultOf _ _ _ _ (giveResult_resultOf _ _ uw)
  · refine ⟨settled_slateOnly _ ?_ ?_ ?_ ?_, settled_goesOn (u := { u with slate := s.slate })
      ((portGoesOn_of_port (t := u) rfl).trans (fun _ => rfl) (portGoesOn_giveResult _ _ _ u fun _ => id))
      (voicesAlike_of_voices (giveResult_voices _ _ _ _)) fun _ => id⟩
    · rw [giveResult_eq]
    · rw [giveResult_eq]; dsimp only; rw [hu]; rfl
    · rw [giveResult_eq]; dsimp only; rw [hu]; rfl
    · intro k hk; rw [giveResult_slotAt_other _ _ _ hk, us]; rfl

end Sys2Proof.Machine
end

