-- ==== Sys2Proof/Laws/Releases.lean ====
section
/-! SUPPORT. What releases, withdrawals and ends of cues can change: the voices, the start order, the duck groups, the port,
the Report Unit, Fault Capture and the interrupt flags, and nothing else. -/

namespace Sys2Proof.Machine

/-- `t` is `s` but for what a release can change. -/
def releaseOnly (s t : State) : Prop :=
  { t with
    voices := s.voices, startOrder := s.startOrder, mix := { t.mix with ducks := s.mix.ducks }, port := s.port
    reports := { s.reports with returnedTo := t.reports.returnedTo }, fault := s.fault
    regs := { t.regs with flags := s.regs.flags } } = s

theorem releaseOnly_refl (s : State) : releaseOnly s s := rfl

theorem releaseOnly.trans {s t u : State} (h : releaseOnly s t) (h' : releaseOnly t u) : releaseOnly s u := by
  have a := congrArg (fun x : State => { x with
    voices := s.voices, startOrder := s.startOrder, mix := { x.mix with ducks := s.mix.ducks }, port := s.port
    reports := { s.reports with returnedTo := x.reports.returnedTo }, fault := s.fault
    regs := { x.regs with flags := s.regs.flags } }) h'
  exact a.trans h

theorem releaseOnly_foldl {α : Type} (f : State → α → State) (h : ∀ t a, releaseOnly t (f t a)) (l : List α) :
    ∀ s, releaseOnly s (l.foldl f s) := by
  induction l with
  | nil => intro s; exact releaseOnly_refl s
  | cons a l ih => intro s; exact (h s a).trans (ih _)

theorem releaseOnly.resolver {s t : State} (h : releaseOnly s t) : t.resolver = s.resolver := by
  have := congrArg State.resolver h; exact this
theorem releaseOnly.schedule {s t : State} (h : releaseOnly s t) : t.schedule = s.schedule := by
  have := congrArg State.schedule h; exact this
theorem releaseOnly.trigger {s t : State} (h : releaseOnly s t) : t.trigger = s.trigger := by
  have := congrArg State.trigger h; exact this
theorem releaseOnly.cache {s t : State} (h : releaseOnly s t) : t.cache = s.cache := by
  have := congrArg State.cache h; exact this
theorem releaseOnly.run {s t : State} (h : releaseOnly s t) : t.run = s.run := by
  have := congrArg State.run h; exact this
theorem releaseOnly.slate {s t : State} (h : releaseOnly s t) : t.slate = s.slate := by
  have := congrArg State.slate h; exact this
theorem releaseOnly.clock {s t : State} (h : releaseOnly s t) : t.clock = s.clock := by
  have := congrArg State.clock h; exact this
theorem releaseOnly.tally {s t : State} (h : releaseOnly s t) : t.tally = s.tally := by
  have := congrArg State.tally h; exact this
theorem releaseOnly.mem {s t : State} (h : releaseOnly s t) : t.mem = s.mem := by
  have := congrArg State.mem h; exact this
theorem releaseOnly.free {s t : State} (h : releaseOnly s t) : t.free = s.free := by
  have := congrArg State.free h; exact this
theorem releaseOnly.pending {s t : State} (h : releaseOnly s t) : t.pending = s.pending := by
  have := congrArg State.pending h; exact this
theorem releaseOnly.buses {s t : State} (h : releaseOnly s t) : t.mix.buses = s.mix.buses := by
  have := congrArg (fun x : State => x.mix.buses) h; exact this
theorem releaseOnly.part {s t : State} (h : releaseOnly s t) : t.regs.part = s.regs.part := by
  have := congrArg (fun x : State => x.regs.part) h; exact this

/-- The quiet part of a state keeps what `rest` holds. -/
theorem rest_of_quiet {s t : State} (h : t.quiet = s.quiet) : t.rest = s.rest := by
  unfold State.quiet at h
  unfold State.rest
  simp only [Quiet.mk.injEq, Rest.mk.injEq] at h ⊢
  tauto

theorem releaseOnly.rest {s t : State} (h : releaseOnly s t) : t.rest = s.rest := by
  have := congrArg State.rest h; exact this

/-! ### The operations -/

theorem releaseOnly_setVoice (v : Fin 24) (x : Voice) (s : State) : releaseOnly s (setVoice v x s) := rfl

theorem releaseOnly_place (j : Job) (s : State) : releaseOnly s (place j s) := rfl

theorem releaseOnly_leaveOrder (v : Fin 24) (s : State) : releaseOnly s (leaveOrder v s) := rfl

theorem releaseOnly_unkeyDucks (v : Fin 24) (s : State) : releaseOnly s (unkeyDucks v s) := rfl

theorem releaseOnly_keyDucks (v : Fin 24) (r : DuckRole) (s : State) : releaseOnly s (keyDucks v r s) := by
  unfold keyDucks; split <;> rfl

theorem releaseOnly_emit (r : Report) (s : State) : releaseOnly s (emit r s) := by
  have h := congrArg (fun x : Quiet => x.returnedTo) (quiet_emit r s)
  have h : (emit r s).reports.returnedTo = s.reports.returnedTo := h
  unfold releaseOnly
  rw [h]
  have e := congrArg (fun x : State => { x with
    voices := s.voices, startOrder := s.startOrder, mix := { x.mix with ducks := s.mix.ducks }, port := s.port
    reports := s.reports, fault := s.fault, regs := { x.regs with flags := s.regs.flags } }) (emit_eq r s)
  exact e

theorem releaseOnly_tell (p : Playing) (r : Report) (s : State) : releaseOnly s (tell p r s) := by
  unfold tell; split
  · rfl
  · exact releaseOnly_emit _ _

theorem releaseOnly_emitEnded (v : Fin 24) (c : Claim) (r : EndReason) (b : Bool) (s : State) :
    releaseOnly s (emitEnded v c r b s) := releaseOnly_emit _ _

theorem releaseOnly_goIdle (v : Fin 24) (e : Half × Bool) (s : State) : releaseOnly s (goIdle v e s) := rfl

theorem releaseOnly_withdraw (v : Fin 24) (s : State) : releaseOnly s (withdraw v s) := by
  unfold withdraw; dsimp only; split
  · rfl
  · rfl
  · exact (releaseOnly_setVoice v _ s).trans (releaseOnly_keyDucks _ _ _)
  · rfl

theorem releaseOnly_withdrawEnded (v : Fin 24) (r : EndReason) (s : State) : releaseOnly s (withdrawEnded v r s) := by
  unfold withdrawEnded; split
  · exact (releaseOnly_withdraw v s).trans (releaseOnly_emitEnded _ _ _ _ _)
  · rfl

theorem releaseOnly_cancelFollowers (v : Fin 24) (n : Half) (s : State) : releaseOnly s (cancelFollowers v n s) := by
  refine releaseOnly_foldl _ (fun t w => ?_) _ _
  unfold cancelFollower; repeat' split
  · exact (releaseOnly_withdraw _ _).trans (releaseOnly_emit _ _)
  · rfl
  · rfl

theorem releaseOnly_endRelease (v : Fin 24) (p : Playing) (s : State) : releaseOnly s (endRelease v p s) := by
  unfold endRelease; dsimp only; split
  · exact (releaseOnly_goIdle _ _ _).trans (releaseOnly_tell _ _ _)
  · rfl

theorem releaseOnly_releaseSounding (v : Fin 24) (p : Playing) (l : Nat) (r : EndReason) (s : State) :
    releaseOnly s (releaseSounding v p l r s) := by
  unfold releaseSounding; dsimp only; split
  · exact (releaseOnly_leaveOrder v s).trans ((releaseOnly_goIdle _ _ _).trans
      ((releaseOnly_cancelFollowers _ _ _).trans (releaseOnly_emitEnded _ _ _ _ _)))
  · exact (releaseOnly_leaveOrder v s).trans ((releaseOnly_setVoice _ _ _).trans (releaseOnly_cancelFollowers _ _ _))

theorem releaseOnly_shortenRelease (v : Fin 24) (p : Playing) (l : Nat) (s : State) :
    releaseOnly s (shortenRelease v p l s) := by
  unfold shortenRelease; repeat' split
  · exact releaseOnly_endRelease _ _ _
  · rfl
  · rfl

/-- A release of one voice. -/
theorem releaseOnly_releaseNow (v : Fin 24) (r : EndReason) (f : Playing → Nat) (b : Bool) (s : State) :
    releaseOnly s (releaseNow v r f b s) := by
  unfold releaseNow; split
  · rfl
  · exact releaseOnly_withdrawEnded _ _ _
  · exact releaseOnly_withdrawEnded _ _ _
  · exact releaseOnly_releaseSounding _ _ _ _ _
  · split
    · exact releaseOnly_shortenRelease _ _ _ _
    · rfl
  · dsimp only; split
    · exact (releaseOnly_withdrawEnded _ _ _).trans (releaseOnly_shortenRelease _ _ _ _)
    · exact releaseOnly_withdrawEnded _ _ _

theorem releaseOnly_releaseAllNow (p : Content → Bool) (r : EndReason) (f : Playing → Nat) (b : Bool) (s : State) :
    releaseOnly s (releaseAllNow p r f b s) := by
  unfold releaseAllNow; dsimp only
  exact (releaseOnly_foldl _ (fun t v => releaseOnly_releaseNow v r f b t) _ _).trans
    (releaseOnly_foldl _ (fun t v => releaseOnly_releaseNow v r f b t) _ _)

theorem releaseOnly_kickOthers (v : Fin 24) (g : Nat) (s : State) : releaseOnly s (kickOthers v g s) := by
  unfold kickOthers; split
  · rfl
  · refine releaseOnly_foldl _ (fun t w => ?_) _ _
    unfold kick; repeat' split
    · rfl
    · exact releaseOnly_releaseSounding _ _ _ _ _
    · rfl
    · rfl

theorem releaseOnly_missVoice (v : Fin 24) (i : Incoming) (r : Nat) (t : Word) (l : Nat) (s : State) :
    releaseOnly s (missVoice v i r t l s) := (releaseOnly_withdraw _ _).trans (releaseOnly_emit _ _)

theorem releaseOnly_emitLate (v : Fin 24) (c : Claim) (l : Lateness) (t : Word) (s : State) :
    releaseOnly s (emitLate v c l t s) := by
  unfold emitLate; dsimp only; repeat' split
  · exact (releaseOnly_emit _ _).trans (releaseOnly_emit _ _)
  · exact releaseOnly_emit _ _
  · exact releaseOnly_emit _ _
  · rfl

/-! ### A release of every voice that meets a test (R97, R99, R102) -/

/-- The content of a voice after a withdrawal is released as the content before it, when it is released at all. -/
theorem afterRelease_afterWithdraw (c : Content) (r : EndReason) (f : Playing → Nat) (b : Bool) :
    c.afterWithdraw.afterRelease r f b = c.afterRelease r f b := by
  cases c <;> simp [Content.afterWithdraw, Content.afterRelease]

/-- No release leaves an unsounded claim. -/
theorem afterRelease_incoming (c : Content) (r : EndReason) (f : Playing → Nat) (b : Bool) :
    (c.afterRelease r f b).incoming = none := by
  cases c <;> simp only [Content.afterRelease, Playing.released, Playing.shortened] <;> repeat' split
  all_goals rfl

/-- Voices whose unsounded claims are released: each becomes what the release makes of it, every other stays as it is. -/
theorem foldl_release_incoming (r : EndReason) (f : Playing → Nat) (b : Bool) (l : List (Fin 24)) (hl : l.Nodup) :
    ∀ t : State, (∀ w ∈ l, (t.voice w).content.incoming ≠ none) → ∀ w,
      ((l.foldl (fun t v => releaseNow v r f b t) t).voice w).content =
        if w ∈ l then (t.voice w).content.afterRelease r f b else (t.voice w).content := by
  induction l with
  | nil => intro t _ w; simp
  | cons v l ih =>
    intro t h w
    rw [List.nodup_cons] at hl
    have hv := h v List.mem_cons_self
    have other : ∀ u, u ≠ v → ((releaseNow v r f b t).voice u).content = (t.voice u).content := by
      intro u hu
      unfold releaseNow
      split <;> rename_i hc
      · rfl
      · rw [withdrawEnded_other _ _ hu]
      · rw [withdrawEnded_other _ _ hu]
      · rw [hc] at hv; exact absurd rfl hv
      · rw [hc] at hv; exact absurd rfl hv
      · rename_i p _ _
        have hr : ((withdrawEnded v r t).voice v).content = .releasing p := by
          rw [withdrawEnded_content, if_pos rfl, hc]; rfl
        dsimp only; split
        · rw [shortenRelease_content _ _ _ _ _ hr, if_neg hu, withdrawEnded_other _ _ hu]
        · rw [withdrawEnded_other _ _ hu]
    rw [List.foldl_cons, ih hl.2]
    · by_cases e : w = v
      · subst e; simp [hl.1, releaseNow_self]
      · simp [e, other w e]
    · intro u hu
      rw [other u (fun e => hl.1 (e ▸ hu))]
      exact h u (List.mem_cons_of_mem _ hu)

/-- Voices without unsounded claims are released: each becomes what the release makes of it; every other stays as it is or
loses an unsounded claim. -/
theorem foldl_release_sounding (r : EndReason) (f : Playing → Nat) (b : Bool) (l : List (Fin 24)) (hl : l.Nodup) :
    ∀ t : State, (∀ w ∈ l, (t.voice w).content.incoming = none) → ∀ w,
      (w ∈ l → ((l.foldl (fun t v => releaseNow v r f b t) t).voice w).content = (t.voice w).content.afterRelease r f b)
      ∧ (w ∉ l → ((l.foldl (fun t v => releaseNow v r f b t) t).voice w).content = (t.voice w).content
          ∨ ((l.foldl (fun t v => releaseNow v r f b t) t).voice w).content = (t.voice w).content.afterWithdraw) := by
  induction l with
  | nil => intro t _ w; simp
  | cons v l ih =>
    intro t h w
    rw [List.nodup_cons] at hl
    have keep : ∀ u, u ≠ v → (t.voice u).content.incoming = none →
        ((releaseNow v r f b t).voice u).content = (t.voice u).content := by
      intro u hu hn
      rcases releaseNow_other v u r f b t hu with e | e
      · exact e
      · rw [e, afterWithdraw_of_none hn]
    have hn : ∀ u ∈ l, ((releaseNow v r f b t).voice u).content.incoming = none := by
      intro u hu
      have hu' := h u (List.mem_cons_of_mem _ hu)
      rw [keep u (fun e => hl.1 (e ▸ hu)) hu']; exact hu'
    have ih := ih hl.2 (releaseNow v r f b t) hn w
    rw [List.foldl_cons]
    by_cases e : w = v
    · subst e
      refine ⟨fun _ => ?_, fun hm => absurd List.mem_cons_self hm⟩
      have := ih.2 hl.1
      rw [releaseNow_self, afterWithdraw_of_none (afterRelease_incoming _ _ _ _), or_self] at this
      exact this
    · refine ⟨fun hm => ?_, fun hm => ?_⟩
      · have hm' : w ∈ l := by simpa [e] using hm
        rw [ih.1 hm', keep w e (h w hm)]
      · have hm' : w ∉ l := fun x => hm (List.mem_cons_of_mem _ x)
        have aw : ∀ c : Content, c.afterWithdraw.afterWithdraw = c.afterWithdraw := fun c => by cases c <;> rfl
        rcases releaseNow_other v w r f b t e with k | k <;> rcases ih.2 hm' with i | i <;> rw [i, k]
        · exact .inl rfl
        · exact .inr rfl
        · exact .inr rfl
        · exact .inr (aw _)

/-- Releasing twice to the same length is releasing once. -/
theorem afterRelease_twice (c : Content) (r : EndReason) (n : Nat) (h : c.incoming ≠ none) :
    (c.afterRelease r (fun _ => n) true).afterRelease r (fun _ => n) true = c.afterRelease r (fun _ => n) true := by
  have key : ∀ p : Playing, (p.shortened n).afterRelease r (fun _ => n) true = p.shortened n := by
    intro p
    unfold Playing.shortened
    by_cases h₁ : n < p.fade.remaining
    · rw [if_pos h₁]
      by_cases h₂ : n = 0
      · rw [if_pos h₂]; rfl
      · rw [if_neg h₂]
        simp [Content.afterRelease, Playing.shortened, Fade.remaining]
    · rw [if_neg h₁]
      simp [Content.afterRelease, Playing.shortened, h₁]
  cases c with
  | handover p _ _ => exact key p
  | priming _ => rfl
  | armed _ => rfl
  | _ => exact absurd rfl h

/-- An event that releases every voice that meets `p`. -/
theorem releaseAllNow_content (p : Content → Bool) (r : EndReason) (f : Playing → Nat) (b : Bool) (s : State)
    (hb : b = true → ∃ n, f = fun _ => n) (w : Fin 24) :
    (p (s.voice w).content = true →
        ((releaseAllNow p r f b s).voice w).content = (s.voice w).content.afterRelease r f b)
    ∧ (p (s.voice w).content = false → ((releaseAllNow p r f b s).voice w).content = (s.voice w).content
        ∨ ((releaseAllNow p r f b s).voice w).content = (s.voice w).content.afterWithdraw) := by
  have nd : allVoices.Nodup := List.nodup_finRange 24
  unfold releaseAllNow; dsimp only
  generalize hc : allVoices.filter (fun v => p (s.voice v).content) = chosen
  have cn : chosen.Nodup := by subst hc; exact nd.filter _
  have cm : ∀ v, v ∈ chosen ↔ p (s.voice v).content = true := by
    intro v; subst hc; simp [allVoices]
  generalize hl : chosen.filter (fun v => (s.voice v).content.incoming.isSome) = l₁
  have h₁ := foldl_release_incoming r f b l₁ (by subst hl; exact cn.filter _) s (by
    intro v hv; subst hl; rw [List.mem_filter] at hv; intro e; rw [e] at hv; simp at hv)
  have m₁ : ∀ v, v ∈ l₁ ↔ p (s.voice v).content = true ∧ (s.voice v).content.incoming ≠ none := by
    intro v; subst hl; rw [List.mem_filter, cm, Option.isSome_iff_ne_none]
  generalize l₁.foldl (fun t v => releaseNow v r f b t) s = t at h₁
  generalize hk : chosen.filter (fun v => (t.voice v).content.isSounding || b) = l₂
  have inc : ∀ v, v ∈ l₂ → (t.voice v).content.incoming = none := by
    intro v hv
    rw [h₁]
    split
    · exact afterRelease_incoming _ _ _ _
    · next hn =>
      have : p (s.voice v).content = true := by
        rw [← cm]; subst hk; exact (List.mem_filter.mp hv).1
      by_contra h
      exact hn ((m₁ v).mpr ⟨this, h⟩)
  have h₂ := foldl_release_sounding r f b l₂ (by subst hk; exact cn.filter _) t inc w
  have m₂ : w ∈ l₂ ↔ p (s.voice w).content = true ∧ ((t.voice w).content.isSounding || b) = true := by
    subst hk; rw [List.mem_filter, cm]
  refine ⟨fun hpw => ?_, fun hpw => ?_⟩
  · have ht := h₁ w
    by_cases hi : (s.voice w).content.incoming = none
    · have hn : w ∉ l₁ := fun hm => ((m₁ w).mp hm).2 hi
      rw [if_neg hn] at ht
      by_cases hm : w ∈ l₂
      · rw [h₂.1 hm, ht]
      · have hs : ((s.voice w).content.isSounding || b) = false := by
          rw [m₂, ht] at hm; simpa [hpw] using hm
        simp only [Bool.or_eq_false_iff] at hs
        have e : ((l₂.foldl (fun t v => releaseNow v r f b t) t).voice w).content = (s.voice w).content := by
          rcases h₂.2 hm with e | e
          · rw [e, ht]
          · rw [e, ht, afterWithdraw_of_none hi]
        rw [e]
        cases hcw : (s.voice w).content <;> simp_all [Content.afterRelease, Content.isSounding, Content.incoming]
    · have hm : w ∈ l₁ := (m₁ w).mpr ⟨hpw, hi⟩
      rw [if_pos hm] at ht
      by_cases hm₂ : w ∈ l₂
      · rw [h₂.1 hm₂, ht]
        cases b with
        | true =>
          obtain ⟨n, rfl⟩ := hb rfl
          exact afterRelease_twice _ _ _ hi
        | false =>
          rw [m₂, ht] at hm₂
          exfalso
          cases hcw : (s.voice w).content <;>
            simp_all [Content.afterRelease, Content.isSounding, Content.incoming]
      · rcases h₂.2 hm₂ with e | e
        · rw [e, ht]
        · rw [e, ht, afterWithdraw_of_none (afterRelease_incoming _ _ _ _)]
  · have hn : w ∉ l₁ := fun hm => by have := ((m₁ w).mp hm).1; rw [hpw] at this; exact Bool.noConfusion this
    have hm : w ∉ l₂ := fun hm => by have := (m₂.mp hm).1; rw [hpw] at this; exact Bool.noConfusion this
    have ht := h₁ w
    rw [if_neg hn] at ht
    rcases h₂.2 hm with e | e
    · left; rw [e, ht]
    · right; rw [e, ht]

end Sys2Proof.Machine
end

