-- ==== Sys2Proof/WellFormed.lean ====
section
/-! DEFINITION. The commands that the world around the part can send: the bounds their operands have that their types do
not say. The meanings are total and do not rest on these checks. -/

namespace Sys2Proof

/-- The console processor writes inside show memory (chapter 00 section 5.5). -/
def JobEnd.consoleOk (e : JobEnd) : Bool := e.console.all fun c => decide (c.1 < Config.addressSpace)

/-- The end of a job is one that can happen. -/
def JobEnd.wf (e : JobEnd) : Bool := e.consoleOk

/-- The offset is that of a register of the window (R46). -/
def offsetOk (offset : Nat) : Bool := offset == 0 || offset == 4 || offset == 8 || offset == 12

/-- A scene index (chapter 00 section 5.4). -/
def sceneIndexOk (i : Nat) : Bool := decide (i < 16)

/-- The command can be sent. -/
def Instr.wf (i : Instr) : Bool :=
  match i with
  | .registerWrite offset _ => offsetOk offset
  | .headerReadDone e => e.wf
  | .sceneBusyClearDone e failing => e.wf && sceneIndexOk failing
  | .startWrittenToDone e => e.wf
  | .slateReadDone e => e.wf
  | .takenWriteDone e => e.wf
  | .completionWriteDone e => e.wf
  | .descriptorReadDone e => e.wf
  | .cueReadDone e => e.wf
  | .headJobDone e => e.wf
  | .refillJobDone e => e.wf
  | .pinJobDone e => e.wf
  | .sceneRecordReadDone e => e.wf
  | .ruleTableReadDone e => e.wf
  | .busyWriteDone e => e.wf
  | .returnedToReadDone e => e.wf
  | .writtenToWriteDone e => e.wf
  | .fatalWriteFault e => e.wf
  | .mirrorWriteDone e => e.wf
  | .reportRecordWriteDone e => e.wf
  | .faultRecordWriteDone e => e.wf
  | .runSet _ => true
  | .runClear _ => true
  | .warmReset => true
  | .coldReset => true
  | .interruptEnableWrite _ => true
  | .interruptFlagClear _ => true
  | .sample _ => true
  | .referencePulse => true
  | .predictedBoundary => true
  | .windowClose => true
  | .lineEvent _ => true
  | .keyEvent _ => true
  | .queuedEventTaken => true
  | .stoppingComplete => true
  | .resolverTake => true
  | .exactStart _ => true
  | .followOnRequest _ => true
  | .naturalEnd _ => true
  | .releaseComplete _ => true
  | .handoverFadeEnd _ => true
  | .duckStep _ => true
  | .fire => true
  | .prime => true
  | .probe => true
  | .go => true
  | .setVar => true
  | .release => true
  | .cut => true
  | .cutLast => true
  | .unloop => true
  | .releaseGroup => true
  | .cancel => true
  | .armRules => true
  | .disarmRules => true
  | .reopen => true
  | .pin => true
  | .unpin => true
  | .trim => true
  | .hold => true
  | .resume => true
  | .scene => true
  | .linesWrite => true
  | .linesModify => true
  | .setRate => true
  | .ackFault => true

end Sys2Proof
end

