-- ==== Sys2Proof/Tests/Slice0.lean ====
section
/-! SUPPORT. The tests: the smoke test of WellFormed, values the manual's own worked examples give, one step of a few
commands, and for each statement with hypotheses a state and operands that meet them. -/

namespace Sys2Proof.Tests

open Sys2Proof Sys2Proof.Machine

/-! ### The states the tests use -/

/-- A working header: two sheets, two scenes, two slots, sixteen report records. -/
def header0 : Header :=
  { base := 0, version := 1, rate := 1, initialScene := 0, directory := 0x1000, directoryCount := 2, sceneCount := 2
    slotCount := 2, meterInterval := 0, sceneTable := 0x2000, slate := 0x3000, strip := 0x4000, reportCount := 16
    reserve := 4, returnedTo := 0 }

/-- The part RUNNING with that header. -/
def running : State :=
  { State.reset with
    regs := { Registers.reset with run := true, part := .running }
    slate := { SlateUnit.reset with header := some header0 } }

/-- A slot of this request kind with these argument bytes (R50). -/
def slot (kind : Byte) (args : List Byte) : List Byte := [1, 0, kind, 0, 0, 0, 0, 0] ++ args

/-- A slot taken as slot 0. -/
def taken (kind : Byte) (args : List Byte) : Taken := { slot := 0, bytes := slot kind args }

/-- That slot held, its TAKEN write finished. -/
def held (t : Taken) : Held := { taken := t, written := true, result := none, detail := [] }

/-- The request of slot 0 at the head of the intake queue. -/
def posted (t : Taken) (s : State) : State := { s with slate := { s.slate with queue := [t], held := [held t] } }

/-- Every request statement: the request is the head one. -/
theorem posted_head {t : Taken} {s : State} {r : Request} (hr : isRunning s = true) (hd : decodeRequest t.bytes = .ok r) :
    headRequest (posted t s) = some (t, [], r) := by
  unfold headRequest
  rw [show isRunning (posted t s) = true from hr]
  simp [posted, hd]

/-- Every request statement: the slot awaits its result. -/
theorem posted_awaits {k : Byte} {args : List Byte} {s : State} : awaiting 0 (posted (taken k args) s) := by
  refine ⟨held (taken k args), ?_, rfl⟩
  simp [slotAt, posted, held, taken]

/-- A job in flight. -/
def flight (j : Job) (s : State) : State := { s with port := { s.port with inFlight := some j } }

/-- A job that ends well. -/
def good : JobEnd := { console := [], error := false, landed := 0 }

/-- The witness of every statement about the end of a job. -/
theorem flight_ends {j : Job} {s : State} (hd : s.port.discard = false) (hj : j.outOfRange = false) :
    endsWell j good (flight j s) := ⟨rfl, hd, rfl, hj⟩

/-- A job that ends with a memory error. -/
def failed : JobEnd := { good with error := true }

/-- The witness of every clause about a memory error. -/
theorem flight_fails {j : Job} {s : State} (hd : s.port.discard = false) : endsBadly j failed (flight j s) :=
  ⟨rfl, hd, .inl rfl⟩

/-- A clip of two frames with no loop. -/
def sound0 : SoundCue :=
  { clip := 0x100, format := .m16, length := 2, loop := none, level := 0, fadeIn := 0, fadeOut := 0, priority := 0
    group := 0, duck := .none, buses := 1, retrigger := .layer, armOnly := false, condition := none, lateAllowance := 0
    follow := Selector.null, tally := none }

/-- Claim 1 of that cue. -/
def claim1 (c : SoundCue) (start : Start) : Claim :=
  { req :=
      { cue := { sheet := 1, cue := 0, entry := ⟨1, 0, 0⟩, sound := c, level := 0, offset := 0, hops := 0 }
        source := .slate, origin := 0, tag := 0, start := start, lateMark := none, leader := none }
    number := 1, time := 0, obtained := .idle }

/-- Claim 1 not yet sounded. -/
def incoming1 (c : SoundCue) (start : Start) : Incoming := { claim := claim1 c start, start := start, lateMark := none }

/-- Claim 1 playing from this position, its fade as given. -/
def playing1 (c : SoundCue) (position : Nat) (fade : Fade) : Playing :=
  { claim := claim1 c .immediate, position := position, loopActive := c.loop.isSome, fade := fade, endReason := none
    followPlaced := false, underrun := false, fromNext := false, entry := none, quiet := false }

/-- Voice 0 with this content under claim 1, fed with the whole of a two-frame clip. -/
def voice0 (c : Content) : Voice :=
  { Voice.reset with
    claimNo := 1, content := c, stream := [⟨0, 256, 256⟩, ⟨1, 512, 512⟩], fetchPosition := 2, feeding := some 1 }

/-- The part RUNNING with voice 0 so. -/
def with0 (c : Content) : State := setVoice 0 (voice0 c) running

/-- What voice 0 holds there. -/
theorem with0_voice (c : Content) : (with0 c).voice 0 = voice0 c := by
  simp [with0, setVoice, State.voice]

/-- Every other voice is IDLE there. -/
theorem with0_other (c : Content) {v : Fin 24} (h : v ≠ 0) : ((with0 c).voice v).content = .idle := by
  have e : (with0 c).voice v = running.voice v := by
    simp only [with0, setVoice, State.voice, Fin.getElem_fin]
    exact Vector.getElem_set_ne _ _ fun e => h (Fin.ext e.symm)
  have idle : ∀ w : Fin 24, (running.voice w).content = .idle := by decide
  rw [e, idle]

/-- The outcome is a next state that meets a test. -/
def nextMeets (o : Host.Outcome State Fault Refusal) (p : State → Bool) : Bool :=
  match o with
  | .next t => p t
  | _ => false

/-! ### WellFormed refuses -/

theorem test_wf_refuses_offset : Instr.wf (.registerWrite 6 0) = false := by decide

theorem test_wf_refuses_console : Instr.wf (.headerReadDone { good with console := [(2 ^ 32, 1)] }) = false := by decide

theorem test_wf_refuses_scene : Instr.wf (.sceneBusyClearDone good 16) = false := by decide

theorem test_wf_takes : Instr.wf (.registerWrite 12 0) = true ∧ Instr.wf (.sceneBusyClearDone good 15) = true := by decide

/-! ### The manual's worked examples -/

/-- Chapter 09 section 9.1, gain arithmetic: the effective code and both contributions. -/
theorem test_gain_example :
    effectiveCode (-20) 0 0 (-24) (-8) = -52 ∧ contribution (-52) 1000000 = 105112
      ∧ contribution (-52) (-1000000) = -105112 := by decide

/-- Chapter 09 section 9.1: a half is rounded towards +∞, and +16 doubles. -/
theorem test_gain_rounding :
    [1, -1, 3, -3].map (contribution (-16)) = [1, 0, 2, -1] ∧ contribution 16 8388607 = 16777214 := by decide

/-- Chapter 09 section 9.2, fade values worked. -/
theorem test_fade_example :
    [0, 1, 2, 240, 479, 480].map (fun n => (Fade.fadeIn n).value 480) = [-256, -256, -255, -128, -1, 0]
      ∧ (Fade.release (-128) 96 48).value 480 = -192 ∧ (Fade.release 0 480 479).value 480 = -255 := by decide

/-- Chapter 09 section 9.3: keyed with attack 48, the group steps at the 48th sample. -/
theorem test_duck_example :
    let d : Duck := { Duck.reset with depth := 24, attack := 48, recovery := 480, keyed := true, sub := 46 }
    d.tick.due = false ∧ d.tick.tick.due = true ∧ d.tick.tick.step.offset = -1 := by decide

/-- Chapter 08, a looping bed: the second refill is 440 frames and the fetch position then wraps to 1,000. -/
theorem test_refill_example :
    let p := playing1 { sound0 with format := .s16, length := 6000, loop := some ⟨1000, 3000⟩ } 1536 (.fadeIn 0)
    (refillJob 7 p 90 2560).length = 440 * 4 ∧ p.fetched 3000 = 1000 := by decide

/-- Chapter 08, an UNPIN that meets its PIN: the job reads 12,288 bytes. -/
theorem test_pin_length : 2048 * ClipFormat.s24.size = 12288 := by decide

/-! ### Single steps -/

/-- R35, R37: RUN SET from reset reads the header at the header base. -/
theorem test_run_set_reads_header :
    nextMeets (step { State.reset with pending := [.runSet 5] }) (fun t => t.regs.part == .starting && t.regs.enables == 5
      && t.port.inFlight == some (readJob .header 0 144)) = true := by decide

/-- R35, R46: the low 8 bits of the header base read 0. -/
theorem test_header_base :
    nextMeets (exec (.registerWrite 4 0x12345678) State.reset) (fun t => t.regs.read 4 == some 0x12345600) = true := by
  decide

/-- R59: ADD stops at 65,535. -/
theorem test_set_var_saturates :
    nextMeets (exec .setVar (posted (taken 4 [31, 1, 0xFF, 0xFF]) { running with resolver :=
      { Resolver.reset with vars := Vector.replicate 32 1 } }))
      (fun t => t.resolver.vars[31] == 65535#16 && t.resolver.vars[30] == 1#16) = true := by decide

/-- R177: only the lines in the mask change. -/
theorem test_lines_write :
    nextMeets (exec .linesWrite (posted (taken 21 [0x0F, 0, 0x55, 0]) { running with tally :=
      { latch := 0xFF, enabled := false, pulled := 0 } })) (fun t => t.tally.latch == 0xF5 && t.tally.enabled) = true := by
  decide

/-- R163: a trim code beyond +16 is clamped. -/
theorem test_trim_clamps :
    nextMeets (exec .trim (posted (taken 17 [3, 0, 100, 0]) running)) (fun t => t.mix.buses[3].trim == 16) = true := by
  decide

/-- R43: a hold depth of 0 has no meaning. -/
theorem test_hold_depth_zero : decodeRequest (slot 18 [0, 0, 0]) = .error .badArg := by decide

/-- R1: the level a null selector asserts is not used, so the NULL_REF detail shows level 0. -/
theorem test_null_level :
    nextMeets (exec .probe (posted (taken 5 [0, 0xC0]) running))
      (fun t => resultOf 0 t == some (.nullRef, [0, 0, 0, 0, 0, 0, 0, 0])) = true := by decide

/-- R175: a busy write in flight completes at a cold reset. -/
theorem test_cold_reset_busy :
    nextMeets (exec .coldReset (flight (writeJob (.busyWrite 1 true) 0x20A1 [1]) running))
      (fun t => t.mem == [(0x20A1, 1)] && t.port == Port.reset) = true := by decide

/-- R41, R42: a TAKEN write in flight at a cold reset completes: the slot stays TAKEN. -/
theorem test_cold_reset_taken :
    nextMeets (exec .coldReset (flight (writeJob (.takenWrite 1) 0x3020 [2, 0]) { running with mem := [(0x3020, 1)] }))
      (fun t => t.mem == [(0x3020, 2)] && t.port == Port.reset) = true := by decide

/-! ### Witnesses: the hypotheses of each statement are met -/

/-- Voice 0 SOUNDING, memory listed at its last address, a group at its depth, a bus at its limit, the line intake, the
event queue and the hold list full: the state the invariants are tried on. -/
def full : State :=
  { with0 (.sounding (playing1 { sound0 with group := 15 } 0 (.fadeIn 0))) with
    startOrder := [0], mem := [(0, 1), (2 ^ 32 - 1, 255)], pending := [.interruptEnableWrite 7]
    mix := { Mix.reset with
      buses := Vector.replicate 4 { Bus.reset with left := -8388608, right := 8388607 }
      ducks := Vector.replicate 4 { Duck.reset with depth := 96, offset := -96 } }
    resolver := { Resolver.reset with
      lines := List.replicate 16 { source := .key, origin := 0, selector := ⟨1, 0, 0⟩, level := 0, frame := false }
      follows := [{ leader := 0, claim := 1, selector := ⟨1, 0, 0⟩, level := 0, stop := 0 }] }
    trigger := { Trigger.reset with queue := List.replicate 16 (.key 0 true 0) }
    slate := { SlateUnit.reset with header := some header0, held := [held (taken 24 [])] }
    reports := { ReportUnit.reset with
      holdList := List.replicate 16 (plainReport .clip [] State.reset), drops := 65535, lost := 255 }
    fault := { FaultCapture.reset with further := 255 }
    cache := [{ address := 0, format := .m16, state := .present [] }] }

/-- A step from it answers a next state. -/
theorem witness_step : ∃ t, step full = .next t := ⟨_, rfl⟩

theorem witness_step_front : State.reset.pending = [] := rfl

theorem witness_memory : Memory.wf full.mem = true := by decide

theorem witness_order : orderExact full := by
  unfold orderExact
  decide

theorem witness_groups : groupsExclusive full := by
  have h : ∀ v w : Fin 24, (full.voice v).content.isSounding = true → (full.voice w).content.isSounding = true → v = w := by
    decide
  exact fun v w p q hv hw _ _ _ _ => h v w (by rw [hv]; rfl) (by rw [hw]; rfl)

theorem witness_levels : ducksInRange full ∧ busesInRange full := by
  unfold ducksInRange busesInRange
  decide

theorem witness_bounds : queuesBounded full ∧ countersBounded full ∧ cacheSound full ∧ ownersDistinct full := by
  unfold queuesBounded countersBounded cacheSound ownersDistinct
  decide

/-- RateTable: SET RATE with code 7 waits, and a header carries it. -/
theorem witness_rate :
    headRequest (posted (taken 23 [7]) running) = some (taken 23 [7], [], .setRate 7)
      ∧ awaiting 0 (posted (taken 23 [7]) running) ∧ { header0 with rate := 7 }.rate = 7 :=
  ⟨posted_head rfl rfl, posted_awaits, rfl⟩

/-- RegisterWindow: a control word with WARM clear and RUN as it stands, RUN set and RUN clear; one that changes RUN either
way; one with WARM set. -/
theorem witness_control :
    (BitVec.getLsbD (0x701 : Word) 1 = false ∧ BitVec.getLsbD (0x701 : Word) 0 = running.regs.run)
      ∧ (BitVec.getLsbD (0x700 : Word) 1 = false ∧ BitVec.getLsbD (0x700 : Word) 0 = State.reset.regs.run)
      ∧ BitVec.getLsbD (0x701 : Word) 0 ≠ State.reset.regs.run ∧ BitVec.getLsbD (0x700 : Word) 0 ≠ running.regs.run
      ∧ BitVec.getLsbD (0x702 : Word) 1 = true := by decide

/-- RunSetStarts and RunClearStops: every case of their hypotheses. -/
theorem witness_run :
    (State.reset.regs.part = .stopped ∧ State.reset.regs.run = false)
      ∧ (running.regs.part = .running ∧ running.regs.run = true)
      ∧ (setPart .failed running).regs.part = .failed ∧ (setPart .failed running).regs.run = true := by decide

/-- ResetsClear: no job in flight; a busy write, a TAKEN write, the busy 0 writes of a start, and another write. -/
theorem witness_cold :
    running.port.inFlight = none ∧ Memory.wf full.mem = true
      ∧ (∀ j : Job, (flight j full).port.inFlight = some j)
      ∧ (writeJob (.busyWrite 1 true) 0x20A1 [1]).kind = .busyWrite 1 true
      ∧ (writeJob (.takenWrite 1) 0x3020 [2, 0]).kind = .takenWrite 1
      ∧ (writeJob (.busyClear 2) 0x2001 []).kind = .busyClear 2
      ∧ ∀ k, (writeJob .mirror 34 []).kind ≠ .busyClear k := by
  refine ⟨rfl, by decide, fun _ => rfl, rfl, rfl, rfl, fun k => ?_⟩
  simp [writeJob]

set_option maxRecDepth 20000 in
/-- QuietSamplePlays: nothing is due, voice 0 plays its whole clip, in SOUNDING or as the outgoing cue of HANDOVER. -/
theorem witness_quiet :
    ∀ c ∈ [.sounding (playing1 sound0 0 (.fadeIn 0)),
        .handover (playing1 sound0 0 (.release 0 96 0)) (incoming1 sound0 .frame) false],
      settle (with0 c) = with0 c ∧ ∀ v : Fin 24, v ≠ 0 → ((with0 c).voice v).content = .idle := by decide

/-- Voice 0 plays this cue with nothing in its stream buffer. -/
def starved (c : Content) : State := setVoice 0 { voice0 c with stream := [] } running

set_option maxRecDepth 20000 in
/-- QuietSamplePlays: nothing is due, and voice 0 lacks its first frame, SOUNDING or RELEASING. -/
theorem witness_starved :
    ∀ c ∈ [.sounding (playing1 sound0 0 (.fadeIn 0)), .releasing (playing1 sound0 0 (.release 0 96 0))],
      settle (starved c) = starved c ∧ ∀ v : Fin 24, v ≠ 0 → ((starved c).voice v).content = .idle := by decide

/-- QuietSamplePlays: that voice gives UNDERRUN; behind an underrun of the same claim it gives none. -/
theorem witness_underrun :
    let p := playing1 sound0 0 (.fadeIn 0)
    underrunHere (starved (.sounding p)) 0
        = some (aboutClaim .underrun 0 p.claim [1, 0, 0, 0, 0, 0, 0] (starved (.sounding p)))
      ∧ underrunHere (starved (.sounding { p with underrun := true })) 0 = none := by decide

/-- A clip of 600 frames, its frames from 300 on looped, playing from its start with two frames in the stream buffer. -/
def hungry : State := with0 (.sounding (playing1 { sound0 with length := 600, loop := some ⟨300, 500⟩ } 0 (.fadeIn 0)))

set_option maxRecDepth 20000 in
/-- R142, R144, and the witness of UnloopClearsLoop: UNLOOP makes the clip length the limit of the next refill. -/
theorem test_refill_at_unloop :
    nextMeets (exec .unloop (posted (taken 9 [0]) hungry)) (fun t =>
      t.port.inFlight == some (readJob (.refill 0 1 2 512 false) (0x100 + 2 * ClipFormat.m16.size)
        (512 * ClipFormat.m16.size)) && (t.voice 0).refillPending) = true := by decide

/-- A cue that has landed, its entry into SOUNDING still to come. -/
def landed1 : Playing := (incoming1 sound0 .immediate).begin true none

set_option maxRecDepth 20000 in
/-- QuietSamplePlays, its last part: the entry of voice 0 is still to come, and no other voice has one. -/
theorem witness_entry :
    settle (with0 (.sounding landed1)) = with0 (.sounding landed1)
      ∧ landed1.fromNext = true ∧ landed1.entry = some { mark := none, samples := none }
      ∧ ((with0 (.sounding landed1)).voice 0).content.playing = some landed1
      ∧ ∀ v : Fin 24, v ≠ 0 → ((with0 (.sounding landed1)).voice v).content = .idle := by decide

/-- Voice 0 whose entry is still to come, its head the two frames of a clip that loops its first. -/
def entering : State :=
  setVoice 0 { voice0 (.sounding (incoming1 { sound0 with loop := some ⟨0, 1⟩ } .immediate |>.begin true none)) with
    head := [⟨0, 256, 256⟩, ⟨1, 512, 512⟩], stream := [], fetchPosition := 0, feeding := none } running

set_option maxRecDepth 20000 in
/-- RefillLands: nothing is due, and no refill is pending. -/
theorem witness_entering : settle entering = entering ∧ (entering.voice 0).refillPending = false := by decide

set_option maxRecDepth 20000 in
/-- R142, and the witness of RefillLands: the SAMPLE that makes the entry places a refill, up to the loop end. -/
theorem test_refill_at_sample :
    nextMeets (exec (.sample { lines := 0, keys := 0, reference := false, tally := 0 }) entering) (fun t =>
      t.port.refill == [readJob (.refill 0 1 0 1 false) 0x100 ClipFormat.m16.size] && (t.voice 0).refillPending) = true := by decide

/-- The Frame Clock with a pulse due at this show time. -/
def pulseAt (lock : LockState) (stray : Nat) (time : Time) : State :=
  { running with clock := { Clock.reset with lock := lock, stray := stray, showTime := time, refEdge := true } }

/-- R30: a pulse in HOLDOVER at the sample of a boundary already made makes no second one. -/
theorem test_one_boundary :
    nextMeets (exec .referencePulse { pulseAt .holdover 0 100 with
        clock := { (pulseAt .holdover 0 100).clock with boundary := some { frame := 0, sample := 100, cause := .predicted } } })
      (fun t => t.clock.frame == 0 && t.clock.epoch == 100
        && t.clock.boundary == some { frame := 0, sample := 100, cause := .reEpoch }) = true := by decide

/-- PulseAndWindowJudged: each clause of the pulse, at the edges of the window of the boundary at 1,920 and of the stray run. -/
theorem witness_pulse :
    ((pulseAt .holdover 0 1911).clock.inside = false ∧ (pulseAt .locked 0 1911).clock.inside = false)
      ∧ ((pulseAt .locked 0 1912).clock.inside = true ∧ (pulseAt .holdover 0 1928).clock.inside = true)
      ∧ ((pulseAt .locked 1 1929).clock.inside = false ∧ (pulseAt .locked 1 1929).clock.stray < 2)
      ∧ (pulseAt .locked 2 1929).clock.inside = false ∧ (pulseAt .locked 2 1929).clock.stray = 2
      ∧ ∀ lock stray time, (pulseAt lock stray time).clock.refEdge = true := by
  refine ⟨by decide, by decide, by decide, by decide, by decide, fun _ _ _ => rfl⟩

/-- PulseAndWindowJudged, REF_STATE: the part is RUNNING, with room for the report, or it is not. -/
theorem witness_lock (lock : LockState) (stray : Nat) (time : Time) :
    isRunning (pulseAt lock stray time) = true ∧ isRunning (setPart .stopping (pulseAt lock stray time)) = false
      ∧ hasRoom (plainReport .refState [] running) (pulseAt lock stray time) := by
  have room : 0 < freeRoom running ∧ ReportKind.refState.essential = true := by decide
  exact ⟨rfl, rfl, rfl, rfl, room.1, .inl room.2⟩

/-- PredictedBoundaryKeepsPattern: at the boundary, one sample before it, and at one already made at this sample. -/
theorem witness_boundary :
    ({ Clock.reset with showTime := 1920 }.showTime = { Clock.reset with showTime := 1920 }.next)
      ∧ ({ Clock.reset with showTime := 1919 }.showTime ≠ { Clock.reset with showTime := 1919 }.next)
      ∧ Clock.reset.refEdge = false ∧ Clock.reset.madeHere = false
      ∧ { Clock.reset with boundary := some { frame := 0, sample := 0, cause := .predicted } }.madeHere = true := by decide

/-- The part in this hold. -/
def inHold (h : HoldState) : State := { running with run := { running.run with hold := h, release := some .request } }

/-- A state at the sample of its predicted boundary, or of a pulse in HOLDOVER outside the window. -/
def due (pulse : Bool) (s : State) : State :=
  { s with clock := if pulse then (pulseAt .holdover 0 1911).clock else { Clock.reset with showTime := 1920 } }

/-- The command that makes the boundary there. -/
def maker (pulse : Bool) : Instr := if pulse then .referencePulse else .predictedBoundary

/-- BoundaryReachesUnits, BoundaryReachesVoices and BoundaryWalksSchedule: the boundary is to be made, by either command; in
SEEKING too. -/
theorem due_boundary (pulse : Bool) (s : State) :
    makesBoundary (maker pulse) (due pulse s) ∧ (due pulse s).clock.frame = 0
      ∧ makesBoundary .referencePulse (pulseAt .seeking 0 0) := by
  cases pulse <;> (simp only [due, makesBoundary, maker]; decide)

/-- BoundaryReachesUnits: no scan and one in progress, a mirror write in flight and none, the returned-to read outstanding
and not, a clip flag, and a meter count one below its interval and two below it. -/
theorem witness_units (pulse : Bool) :
    (isRunning (due pulse running) = true ∧ isRunning (due pulse State.reset) = false
        ∧ isActive (due pulse State.reset) = false)
      ∧ running.slate.scan = none ∧ { running.slate with scan := some 1 }.scan = some 1
      ∧ houseHas (fun k => k == .mirror) (due pulse running) = false
      ∧ houseHas (fun k => k == .mirror) (flight (writeJob .mirror 34 []) (due pulse running)) = true
      ∧ houseHas (fun k => k == .returnedTo) (due pulse running) = false
      ∧ houseHas (fun k => k == .returnedTo) (flight (readJob .returnedTo 28 2) (due pulse running)) = true
      ∧ (∀ b : Fin 4, running.mix.buses[b].clipFlag = false) ∧ running.mix.meterInterval = 0
      ∧ (∀ b : Fin 4, (8#4).getLsbD b = (Vector.ofFn fun b : Fin 4 => decide (b = 3))[b]) ∧ 8#4 ≠ 0
      ∧ { Mix.reset with meterInterval := 2, meterCount := 1 }.meterInterval ≤ 1 + 1 ∧ 0 + 1 < 2 := by
  cases pulse <;> decide

/-- BoundaryReachesVoices: voice 0 is the one voice with a claim that has not sounded, and frame 1 opens. -/
theorem witness_boundary_voices (pulse : Bool) (i : Incoming) :
    (due pulse (with0 (.armed i))).schedule.entries = [] ∧ ((due pulse (with0 (.armed i))).voice 0).content = .armed i
      ∧ ((due pulse (with0 (.priming i))).voice 0).content = .priming i
      ∧ (∀ v : Fin 24, v ≠ 0 → ((due pulse (with0 (.armed i))).voice v).content.incoming = none)
      ∧ (∀ b : Fin 4, (due pulse (with0 (.armed i))).mix.buses[b].clipFlag = false)
      ∧ (due pulse (with0 (.armed i))).mix.meterInterval = 0 ∧ (due pulse running).clock.frame + 1 = (1 : Word)
      ∧ (incoming1 sound0 (.atFrame 1 false)).start = .atFrame 1 false ∧ (due pulse running).run.hold ≠ .light := by
  have clips : ∀ b : Fin 4, running.mix.buses[b].clipFlag = false := by decide
  exact ⟨rfl, congrArg Voice.content (with0_voice _), congrArg Voice.content (with0_voice _),
    fun v hv => congrArg Content.incoming (with0_other (.armed i) hv), clips, rfl, by cases pulse <;> rfl, rfl, by cases pulse <;> decide⟩

/-- A fire booked for this frame. -/
def entry1 (target : Word) : Entry := { target := target, cue := (claim1 sound0 .immediate).req.cue, tag := 9, origin := 0 }

/-- BoundaryWalksSchedule, with frame 1 opening: targets 3 (two ahead), 1 (0 late) and 0 (1 late, past its allowance of 0)
are due, and 4 (three ahead) is not. -/
theorem witness_walk (pulse : Bool) :
    (∀ x ∈ [3, 1, 0], ((entry1 x).target - (0 + 1 : Word)).toNat < 3 ∨ 2 ^ 31 ≤ ((entry1 x).target - (0 + 1 : Word)).toNat)
      ∧ (3 ≤ ((entry1 4).target - (0 + 1 : Word)).toNat ∧ ((entry1 4).target - (0 + 1 : Word)).toNat < 2 ^ 31)
      ∧ 1 ≤ ((entry1 3).target - (0 + 1 : Word)).toNat
      ∧ ((0 + 1 : Word) - (entry1 1).target).toNat ≤ (entry1 1).cue.sound.lateAllowance
      ∧ (entry1 0).cue.sound.lateAllowance < ((0 + 1 : Word) - (entry1 0).target).toNat
      ∧ (∀ v : Fin 24, ((due pulse running).voice v).content.incoming = none) ∧ isRunning (due pulse running) = true := by
  refine ⟨by simp [entry1], by decide, by decide, by decide, by decide, by cases pulse <;> decide, rfl⟩

/-- BoundaryWalksSchedule, several entries: two late ones behind one that is ahead, in no hold and in a LIGHT one, with
room for both reports. -/
theorem witness_walk_several (pulse : Bool) :
    (∀ x ∈ [entry1 3, entry1 1, entry1 0],
        (x.target - (0 + 1 : Word)).toNat < 3 ∨ 2 ^ 31 ≤ (x.target - (0 + 1 : Word)).toNat)
      ∧ (due pulse (inHold .light)).run.hold = .light ∧ (due pulse running).run.hold ≠ .light
      ∧ isActive (due pulse (inHold .light)) = true ∧ 2 ≤ freeRoom (due pulse (inHold .light))
      ∧ (due pulse (inHold .light)).reports.writtenTo < (header (due pulse (inHold .light))).reportCount := by
  refine ⟨by simp [entry1], rfl, ?_, ?_, ?_, ?_⟩ <;> cases pulse <;> decide

/-- PulseAndWindowJudged: the ninth miss and the tenth, at the eighth sample behind the boundary at 0. -/
theorem witness_window :
    ∀ m ∈ [8, 9], ∀ c : Clock, c = { Clock.reset with showTime := 8, lock := .locked, lastOpen := true, missing := m } →
      c.lock = .locked ∧ c.lastOpen = true ∧ c.lastHeld = false ∧ c.refEdge = false ∧ c.showTime = c.last + 8#40 := by
  rintro m hm c rfl
  fin_cases hm <;> decide

/-- A due edge of line 15, with this event queue, rule and switch. -/
def lineDue (queue : List Event) (w : Option Switch) (s : State) : State :=
  { s with
    trigger := { s.trigger with
      lines := s.trigger.lines.set 15 { level := false, seen := true, count := 96, due := true }, queue := queue
      rules := [decodeRule [7, 0, 0, 0x80, 0x10, 0, 0, 0, 0, 1, 0, 0, 0, 0, 0, 0]], armed := 1 }
    run := { s.run with switch := w } }

/-- A switch in LOADING that slot 0 asked for. -/
def switch0 : Switch := { target := 1, previous := some 0, slot := some 0, tag := 0, phase := .loading, rules := 0 }

/-- LineAndQueuedEventsTaken: each clause, the queue at 15 events and the line intake at 15 fires. -/
theorem witness_line :
    (isRunning (lineDue [] none State.reset) = false ∧ (lineDue [] none State.reset).trigger.lines[15].due = true)
      ∧ (isLoading (lineDue [] (some switch0) running) = true
        ∧ (lineDue (List.replicate 15 (.key 0 true 0)) none running).trigger.queue.length < 16
        ∧ (lineDue (List.replicate 15 (.key 0 true 0)) none running).trigger.queue ≠ [])
      ∧ (isRunning (lineDue [] none running) = true ∧ isLoading (lineDue [] none running) = false
        ∧ ∃ r, (lineDue [] none running).trigger.rules = [r] ∧ r.action = some (.fire ⟨1, 0, 0⟩) ∧ r.group = none
          ∧ r.sources.getLsbD 15 = true ∧ r.edge = .both ∧ r.guardCond = none)
      ∧ (lineDue [.key 7 true 5] none running).trigger.queueTaken = false
      ∧ (full.resolver.lines.tail.length = 15 ∧ running.resolver.lines.length < 16)
      ∧ (full.trigger.queue.length = 16 ∧ full.trigger.queue ≠ [] ∧ full.run.hold = .none)
      ∧ (lineDue [] none running).trigger.lines[15].seen = true
      ∧ ({ Duck.reset with keyLine := some 15 }.keyLine = some 15 ∧ Duck.reset.keyLine ≠ some 15
        ∧ { Trigger.reset with queueTaken := true }.queueTaken = true)
      ∧ ({ hold := .light, release := some (.line 15), current := none, switch := none, staging := none } : RunControl).hold
        ≠ .none := by
  refine ⟨by decide, by decide, ⟨by decide, by decide, ?_⟩, by decide, by decide, by decide, by decide, by decide,
    by decide⟩
  exact ⟨_, rfl, by decide, by decide, by decide, by decide, by decide⟩

/-- A due press or release of key 7, with hold-to-play set and claim 1 of voice 0 its link. -/
def keyDue (up : Bool) (s : State) : State :=
  setTrigger { s.trigger with
    keys := s.trigger.keys.set 7 { level := !up, seen := up, count := 240, due := true }
    keyMap := s.trigger.keyMap.set 7 { selector := ⟨1, 0, 0⟩, holdToPlay := true }
    holdLinks := s.trigger.holdLinks.set 7 (some (0, 1)) } s

/-- KeyEventTaken: a due press and a due release of key 7, taken and queued, the line intake and the event queue not full
and full; the linked claim of voice 0 SOUNDING or not yet sounded; a part that is not RUNNING. -/
theorem witness_key (up : Bool) :
    ((keyDue up running).trigger.keys[7].due = true ∧ (keyDue up running).trigger.keys[7].seen = up
        ∧ isRunning (keyDue up running) = true ∧ isLoading (keyDue up running) = false
        ∧ (keyDue up running).trigger.queue = [] ∧ (keyDue up running).resolver.lines.length < 16)
      ∧ (16 ≤ (keyDue up full).resolver.lines.length ∧ (keyDue up full).trigger.queue ≠ []
        ∧ 16 ≤ (keyDue up full).trigger.queue.length)
      ∧ (∀ c ∈ [.sounding (playing1 sound0 0 (.fadeIn 0)), .armed (incoming1 sound0 .frame)],
        let s := keyDue up (with0 c)
        s.trigger.keyMap[7].holdToPlay = true ∧ s.trigger.holdLinks[7] = some (0, (s.voice 0).claimNo)
          ∧ (s.voice 0).content = c)
      ∧ (Content.armed (incoming1 sound0 .frame)).incoming = some (incoming1 sound0 .frame)
      ∧ (isLoading (lineDue [] (some switch0) running) = true ∧ isRunning (keyDue up State.reset) = false) := by
  cases up <;> decide

/-- This event alone waits in the event queue. -/
def queuing (e : Event) (s : State) : State := setTrigger { s.trigger with queue := [e] } s

/-- KeyEventTaken and RulesEvaluated: an event is at the head of the event queue, and its turn has come; the line intake is
full in one of the states. -/
theorem witness_queued (e : Event) :
    ∀ s ∈ [running, full, keyDue false (with0 (.armed (incoming1 sound0 .frame)))],
      isRunning (queuing e s) = true ∧ isLoading (queuing e s) = false ∧ (queuing e s).trigger.queue = [e]
        ∧ (queuing e s).trigger.queueTaken = false ∧ (queuing e s).resolver = s.resolver
        ∧ (queuing e s).trigger.holdLinks = s.trigger.holdLinks := by
  intro s hs
  simp only [List.mem_cons, List.not_mem_nil, or_false] at hs
  rcases hs with rfl | rfl | rfl <;> exact ⟨rfl, rfl, rfl, rfl, rfl, rfl⟩

/-- A due assert of line 15 with this rule store, rules 0 and 1 armed, and this state of group 1. -/
def ruled (rules : List Rule) (winner : Option Winner) : State :=
  { lineDue [] none running with
    trigger := { (lineDue [] none running).trigger with
      rules := rules, armed := 3, groups := Trigger.reset.groups.set 0 winner } }

/-- A rule on line 15 with both edges and no guard. -/
def rule1 (a : RuleAction) (group : Option (Fin 8)) (continues : Bool) : Rule :=
  { initiallyArmed := true, sources := 0x8000, edge := .both, guardCond := none, group := group, action := some a, level := 1
    frame := false, continues := continues }

/-- RulesEvaluated: the event is evaluated, group 1 OPEN or CLOSED. -/
theorem witness_ruled (rules : List Rule) (w : Option Winner) :
    (ruled rules w).trigger.lines[15].due = true ∧ isRunning (ruled rules w) = true ∧ isLoading (ruled rules w) = false
      ∧ (ruled rules w).trigger.queue = [] ∧ (ruled rules w).run.hold = .none ∧ (ruled rules w).trigger.groups[0] = w
      ∧ (ruled rules w).resolver.lines.length < 15 ∧ (ruled rules w).startOrder = [] := by
  have lines : running.resolver.lines.length < 15 := by decide
  refine ⟨by simp [ruled, lineDue], rfl, rfl, rfl, rfl, ?_, lines, rfl⟩
  simp [ruled]

/-- RulesEvaluated: the tests of a rule, with a test that decides them, and rules 0 and 1 that pass whatever their action. -/
theorem witness_rules (a : RuleAction) (group : Option (Fin 8)) (continues : Bool) :
    ∃ passes : Nat → Rule → Bool,
      (∀ i r, passes i r = true ↔ r.action ≠ none ∧ (ruled [] none).trigger.armed.getLsbD i = true
        ∧ r.sources.getLsbD 15 = true
        ∧ (r.edge = .both ∨ r.edge = .assert ∧ (ruled [] none).trigger.lines[15].seen = true
          ∨ r.edge = .deassert ∧ (ruled [] none).trigger.lines[15].seen = false)
        ∧ ∀ c, r.guardCond = some c → c.holds (ruled [] none).resolver.vars = true)
      ∧ passes 0 (rule1 a group continues) = true ∧ passes 1 (rule1 a group continues) = true
      ∧ passes 2 (rule1 a group continues) = false := by
  let P (i : Nat) (r : Rule) : Prop := r.action ≠ none ∧ (ruled [] none).trigger.armed.getLsbD i = true
    ∧ r.sources.getLsbD 15 = true
    ∧ (r.edge = .both ∨ r.edge = .assert ∧ (ruled [] none).trigger.lines[15].seen = true
      ∨ r.edge = .deassert ∧ (ruled [] none).trigger.lines[15].seen = false)
    ∧ ∀ c, r.guardCond = some c → c.holds (ruled [] none).resolver.vars = true
  have source : (0x8000#16).getLsbD 15 = true := by decide
  have none_ : ∀ c : Condition, (none : Option Condition) = some c → c.holds (ruled [] none).resolver.vars = true := by
    simp
  have iff (i : Nat) (r : Rule) : @decide (P i r) (Classical.propDecidable _) = true ↔ P i r :=
    @decide_eq_true_iff _ (Classical.propDecidable _)
  refine ⟨fun i r => @decide (P i r) (Classical.propDecidable _), iff, (iff 0 _).2 ⟨nofun, by decide, source, .inl rfl, none_⟩,
    (iff 1 _).2 ⟨nofun, by decide, source, .inl rfl, none_⟩, ?_⟩
  exact Bool.eq_false_iff.2 fun h => absurd ((iff 2 _).1 h).2.1 (by decide)

/-- The bytes of a header in show memory at 0 (R52). -/
def headerCells : List Host.Cell :=
  [(0, 1), (2, 1), (5, 0x10), (8, 2), (9, 2), (10, 2), (13, 0x20), (17, 0x30), (21, 0x40), (24, 16), (26, 4)]

/-- HeaderReadDone: a header that passes the checks, and one, all zero, that fails. -/
theorem witness_header :
    (decodeHeader 0 (delivered (readJob .header 0 144) good (flight (readJob .header 0 144)
        { State.reset with mem := headerCells }))).check = none
      ∧ (decodeHeader 0 (delivered (readJob .header 0 144) good (flight (readJob .header 0 144) State.reset))).check
        = some .hdrVersion
      ∧ endsWell (readJob .header 0 144) good (flight (readJob .header 0 144) State.reset) :=
  ⟨by decide, by decide, flight_ends rfl (by decide)⟩

/-- HeaderReadDone: a header that passes, at the rate in force or at another, and one that fails at each of the four checks. -/
theorem witness_header_checks :
    header0.passes ∧ { header0 with rate := 6 }.passes ∧ header0.rate = State.reset.clock.rate.val
      ∧ { header0 with version := 2, slotCount := 0 }.failsWith .hdrVersion
      ∧ { header0 with slotCount := 65, directory := 4 }.failsWith .hdrRange
      ∧ { header0 with strip := 0x4008, initialScene := 2 }.failsWith .hdrAlign
      ∧ { header0 with initialScene := 2 }.failsWith .sceneInitial := by
  refine ⟨?_, ?_, ?_, ?_, ?_, ?_, ?_⟩ <;> simp [Header.passes, Header.failsWith, Header.inRange, Header.aligned, header0]
  decide

/-- StartAndStopGoOn: the last scene record at the top of show memory, the written-to write, and nothing left to stop. -/
theorem witness_start :
    (endsWell (writeJob (.busyClear 1) (2 ^ 32 - 160) []) good (flight (writeJob (.busyClear 1) (2 ^ 32 - 160) []) running)
        ∧ 2 ^ 32 - 160 + 160 * 1 ≤ 2 ^ 32)
      ∧ endsWell (writeJob .startWrittenTo 32 [0, 0]) good (flight (writeJob .startWrittenTo 32 [0, 0]) running)
      ∧ (setPart .stopping running).regs.part = .stopping
      ∧ (∀ v, ((setPart .stopping running).voice v).content = .idle)
      ∧ ∀ h ∈ (setPart .stopping running).slate.held, h.result ≠ some .abandoned :=
  ⟨⟨flight_ends rfl (by decide), by decide⟩, flight_ends rfl (by decide), rfl, by decide, by decide⟩

/-- StartAndStopGoOn, a start that fails: the busy 0 write of the first and of the last of two scenes, and the written-to
write. -/
theorem witness_start_fails :
    (let j := writeJob (.busyClear 2) 0x2001 []
      let s := flight j (setPart .starting running)
      (s.port.inFlight = some j ∧ s.port.discard = false ∧ failed.error = true) ∧ Memory.wf s.mem = true
        ∧ (0 < 2 ∧ 1 < 2) ∧ 1 ≤ j.address ∧ j.address + 160 * 2 ≤ 2 ^ 32 ∧ s.fault.record = none)
      ∧ endsBadly (writeJob .startWrittenTo 32 [0, 0]) failed
          (flight (writeJob .startWrittenTo 32 [0, 0]) (setPart .starting running)) :=
  ⟨⟨⟨rfl, rfl, rfl⟩, rfl, by decide, by decide, by decide, rfl⟩, flight_fails rfl⟩

/-- The scan at slot `i`, with the POSTED word in that slot. -/
def scanning (i : Nat) : State :=
  { running with
    slate := { running.slate with scan := some i }, mem := [(0x3000, 1), (0x3020, 1)] }

/-- SlateReadTakesSlot: a POSTED slot, the last slot and the one before it. -/
theorem witness_scan :
    (endsWell (readJob (.slateRead 1) 0x3020 32) good (flight (readJob (.slateRead 1) 0x3020 32) (scanning 1))
        ∧ field (delivered (readJob (.slateRead 1) 0x3020 32) good (flight (readJob (.slateRead 1) 0x3020 32) (scanning 1))) 0 2 = 1)
      ∧ (0 + 1 < (header (scanning 0)).slotCount ∧ (header (scanning 1)).slotCount ≤ 1 + 1)
      ∧ (scanning 1).slate.scan = some 1 ∧ (scanning 1).reports.backPressure = false
      ∧ (scanning 1).slate.held = [] ∧ { ReportUnit.reset with backPressure := true }.backPressure = true
      ∧ { (scanning 1).slate with scanWaiting := true }.scanWaiting = true :=
  ⟨⟨flight_ends rfl (by decide), by decide⟩, by decide, rfl, rfl, rfl, rfl, rfl⟩

/-- SlateReadTakesSlot, a memory error: at the last slot and at the one before it. -/
theorem witness_scan_fails (i : Nat) :
    endsBadly (readJob (.slateRead i) 0x3000 32) failed (flight (readJob (.slateRead i) 0x3000 32) (scanning i))
      ∧ (scanning i).slate.scan = some i ∧ (scanning i).fault.record = none := ⟨flight_fails rfl, rfl, rfl⟩

/-- A slot held while its TAKEN write is in flight. -/
def taking (t : Taken) : State :=
  { running with slate := { running.slate with held := [{ held t with written := false }] } }

/-- SlotWritesEnd: a request that decodes, and kinds 0 and 25, which name none. -/
theorem witness_taken :
    (endsWell (writeJob (.takenWrite 0) 0x3000 [2, 0]) good (flight (writeJob (.takenWrite 0) 0x3000 [2, 0]) (taking (taken 24 [])))
        ∧ slotAt 0 (taking (taken 24 [])) = some { held (taken 24 []) with written := false })
      ∧ decodeRequest (taken 24 []).bytes = .ok .ackFault
      ∧ decodeRequest (taken 0 []).bytes = .error .unknownKind ∧ decodeRequest (taken 25 []).bytes = .error .unknownKind
      ∧ endsWell (writeJob (.completionWrite 0) 0x3000 []) good
          (flight (writeJob (.completionWrite 0) 0x3000 []) (taking (taken 24 []))) :=
  ⟨⟨flight_ends rfl (by decide), by decide⟩, by rfl, by rfl, by rfl, flight_ends rfl (by decide)⟩

/-- ResolverTakesInOrder: the resolver is free, the last sheet of the directory, the null selector and the sheet beyond
the directory; a request in either intake, from a key. -/
theorem witness_take :
    resolverFree running = true ∧ (⟨1, 0, 0⟩ : Selector).sheet ≠ 0
      ∧ (⟨1, 0, 0⟩ : Selector).sheet.toNat < (header running).directoryCount
      ∧ (⟨0, 0, 0⟩ : Selector).sheet = 0 ∧ (⟨2, 0, 0⟩ : Selector).sheet ≠ 0
      ∧ (header running).directoryCount ≤ (⟨2, 0, 0⟩ : Selector).sheet.toNat
      ∧ (full.resolver.follows = [{ leader := 0, claim := 1, selector := ⟨1, 0, 0⟩, level := 0, stop := 0 }]
        ∧ resolverFree full = true)
      ∧ running.resolver.follows = []
      ∧ ∀ f ∈ full.resolver.lines, f.source ≠ .slate := by decide

/-- A resolution from slot 0 of cue 0 of sheet 1, with this many hops behind it. -/
def resolution (hops : Nat) (phase : Phase) : Resolution :=
  { beginResolution .slate 0 0 (.fire .immediate) ⟨1, 0, 0⟩ 0 0 none with hops := hops, phase := phase }

/-- The resolver waiting for this read, with these bytes in show memory from 0x1008 on and slot 0 held. -/
def resolving (r : Resolution) (bytes : List Byte) : State :=
  { running with
    resolver := { running.resolver with current := some r, live := 2 }
    slate := { running.slate with held := [held (taken 1 [0, 1])] }
    mem := Memory.writeBytes [] 0x1008 bytes }

/-- The descriptor read of sheet 1. -/
def descriptorJob : Job := readJob (.descriptor 0) 0x1008 8

/-- A cue read from 0x1008. -/
def cueJob : Job := readJob (.cue 0) 0x1008 32

/-- What those reads deliver. -/
theorem resolving_delivers (r : Resolution) (bytes : List Byte) (j : Job) :
    delivered j good (flight j (resolving r bytes)) = Memory.readBytes
      (memoryAfter j good false (Memory.writeBytes [] 0x1008 bytes)) j.address j.length := rfl

/-- ResolverReadsJudged: a live PLAY sheet of one cue, a sheet not present, one of lesser rights; a LINK at four hops
and at three, an EMPTY record, and a SOUND record of length 0. -/
theorem witness_resolve :
    (endsWell descriptorJob good (flight descriptorJob (resolving (resolution 0 .readingDescriptor) [0x19]))
        ∧ awaiting 0 (resolving (resolution 0 .readingDescriptor) [0x19]))
      ∧ (let d := decodeDescriptor (delivered descriptorJob good
            (flight descriptorJob (resolving (resolution 0 .readingDescriptor) [0x19])))
        d.present = true ∧ d.kind = .play ∧ 0 ≤ d.rights ∧ 0 < d.count)
      ∧ (decodeDescriptor (delivered descriptorJob good
          (flight descriptorJob (resolving (resolution 0 .readingDescriptor) [])))).present = false
      ∧ (let d := decodeDescriptor (delivered descriptorJob good
            (flight descriptorJob (resolving (resolution 0 .readingDescriptor) [1])))
        d.present = true ∧ d.kind ≠ .invalid ∧ d.rights < ({ resolution 0 .readingDescriptor with level := 1 }).level)
      ∧ decodeCue (delivered cueJob good (flight cueJob (resolving (resolution 4 .readingCue) [2, 0, 0, 1])))
          = .link { target := ⟨1, 0, 0⟩, carry := 0, offset := 0 }
      ∧ decodeCue (delivered cueJob good (flight cueJob (resolving (resolution 3 .readingCue) [0]))) = .empty
      ∧ decodeCue (delivered cueJob good (flight cueJob (resolving (resolution 3 .readingCue) [1]))) = .badSound 0 := by
  refine ⟨⟨flight_ends rfl (by decide), held (taken 1 [0, 1]), rfl, rfl⟩, ?_⟩
  decide

/-- ResolverReadsJudged, a source other than a slot: a resolution from a key waits for either read. -/
theorem witness_refused_source (phase : Phase) (bytes : List Byte) :
    (resolving { resolution 0 phase with source := .key } bytes).resolver.current
        = some { resolution 0 phase with source := .key }
      ∧ ({ resolution 0 phase with source := .key } : Resolution).source ≠ .slate
      ∧ hasRoom (plainReport .refused [] running) running := by
  refine ⟨rfl, nofun, rfl, rfl, ?_⟩
  decide

/-- ResolverReadsJudged, the codes TYPE (a LIBRARY sheet named directly, a sheet of no kind, a record of no kind), NOT_LIVE
(sheet 3), LIMIT (cue 1 of one), NULL_REF and LIMIT behind a LINK, and a memory error. -/
theorem witness_codes :
    (let d := decodeDescriptor [0x1B, 0, 0, 0, 0, 0, 0, 0];
      d.present = true ∧ d.kind = .library ∧ (resolution 0 .readingDescriptor).direct = true)
      ∧ (decodeDescriptor [0x1D, 0, 0, 0, 0, 0, 0, 0]).kind = .invalid
      ∧ (let d := decodeDescriptor [0x19, 0, 0, 0, 0, 0, 0, 0]
        d.kind = .play ∧ (resolution 0 .readingDescriptor).level ≤ d.rights ∧ d.count ≤ (⟨1, 1, 0⟩ : Selector).cue.toNat
          ∧ (resolving (resolution 0 .readingDescriptor) []).resolver.live.getLsbD (⟨3, 0, 0⟩ : Selector).sheet.toNat = false)
      ∧ decodeCue [3] = .invalid
      ∧ (decodeCue [2, 3, 0, 0] = .link { target := ⟨0, 0, 0⟩, carry := 3, offset := 0 }
        ∧ decodeCue [2, 0, 0, 2] = .link { target := ⟨2, 0, 0⟩, carry := 0, offset := 0 }
        ∧ (header (resolving (resolution 3 .readingCue) [])).directoryCount ≤ (2 : Nat))
      ∧ (endsBadly cueJob failed (flight cueJob (resolving (resolution 3 .readingCue) []))
        ∧ awaiting 0 (resolving (resolution 3 .readingCue) [])
        ∧ (resolving (resolution 3 .readingCue) []).fault.record = none ∧ cueJob.address < 2 ^ 32) := by
  refine ⟨by decide, by decide, by decide, by decide, by decide, flight_fails rfl, ⟨held (taken 1 [0, 1]), rfl, rfl⟩, rfl,
    by decide⟩

/-- CueHandedOn: a resolution of each purpose waits for its cue. A SOUND record of two frames, no condition, LAYER; every voice is IDLE, so voice 0 is taken. -/
theorem witness_fire :
    (∃ c, decodeCue (delivered cueJob good (flight cueJob (resolving (resolution 0 .readingCue)
        [1, 0, 0, 0, 0, 1, 0, 0, 2]))) = .sound c ∧ c.condition = none ∧ c.retrigger = .layer ∧ c.clip = 0x100)
      ∧ ((resolving (resolution 0 .readingCue) []).voice 0).content = .idle
      ∧ (resolving (resolution 0 .readingCue) []).run.hold = .none
      ∧ (resolving (resolution 0 .readingCue) []).cache = []
      ∧ ∀ p bytes, (resolving { resolution 0 .readingCue with purpose := p } bytes).resolver.current
        = some { resolution 0 .readingCue with purpose := p } := by
  refine ⟨?_, by decide, rfl, rfl, fun _ _ => rfl⟩
  generalize h : decodeCue (delivered cueJob good (flight cueJob (resolving (resolution 0 .readingCue)
      [1, 0, 0, 0, 0, 1, 0, 0, 2]))) = x
  have : x = .sound { sound0 with buses := 0 } := by rw [← h]; decide
  exact ⟨_, this, rfl, rfl, rfl⟩

/-- A claim request for this cue. -/
def asks (c : SoundCue) (source : Source) : ClaimRequest := { (claim1 c .immediate).req with source := source }

/-- The part RUNNING with every voice so. -/
def everywhere (c : Content) : State := { running with voices := Vector.replicate 24 (voice0 c) }

/-- What each voice holds there. -/
theorem everywhere_voice (c : Content) (v : Fin 24) : (everywhere c).voice v = voice0 c := by
  simp [everywhere, State.voice]

/-- No voice is the leader of a claim without one. -/
theorem asks_notLeader (c : SoundCue) (source : Source) (v : Fin 24) : notLeader (asks c source) v := by
  simp [notLeader, asks, claim1]

/-- ClaimRefused, the first steps: a leader whose claim number has advanced, a LIGHT hold against a rule's fire, a DEEP one
against a key's, none against either, and a condition that fails. -/
theorem witness_refusals :
    ¬ leaderHolds { asks sound0 .followOn with leader := some (0, 1) } running
      ∧ leaderHolds (asks sound0 .slate) running
      ∧ ¬ holdLets (asks sound0 .rule) (inHold .light) ∧ holdLets (asks sound0 .key) (inHold .light)
      ∧ ¬ holdLets (asks sound0 .key) (inHold .deep) ∧ holdLets (asks sound0 .slate) running
      ∧ conditionLets (asks sound0 .slate) running
      ∧ Condition.holds running.resolver.vars { var := 31, cmp := .ne, value := 0 } = false := by
  have free : running.run.hold = .none := rfl
  refine ⟨fun h => absurd (h 0 1 rfl).1 (by decide), by simp [leaderHolds, asks, claim1], ?_, ?_, ?_, .inl free, ?_, by decide⟩
    <;> simp [holdLets, conditionLets, asks, claim1, inHold, sound0]

/-- ClaimRefused and ClaimTakesVoice: voice 0 alone sounds the cue, so it is the found voice. -/
theorem witness_found (c : SoundCue) (source : Source) :
    isFound (asks c source) (with0 (.sounding (playing1 c 0 (.fadeIn 0)))) 0 := by
  refine ⟨(playing1 c 0 (.fadeIn 0)).claim, ⟨asks_notLeader c source 0, rfl, rfl, .inr ⟨_, rfl, ?_⟩⟩, fun w d h => ⟨?_, ?_⟩⟩
  · exact congrArg Voice.content (with0_voice _)
  · intro hw
    exact absurd hw (by omega)
  · intro hw
    have idle := with0_other (.sounding (playing1 c 0 (.fadeIn 0))) (v := w) (by rintro rfl; exact absurd hw (by decide))
    rcases h.2.2.2 with ⟨i, -, hi⟩ | ⟨p, -, hp⟩
    · rw [idle] at hi
      exact nomatch hi
    · rw [idle] at hp
      exact nomatch hp

/-- ClaimRefused, NO_VOICE: every voice sounds another cue of the same class. -/
theorem witness_no_voice :
    (∀ w, ((everywhere (.sounding (playing1 sound0 0 (.fadeIn 0)))).voice w).content ≠ .idle)
      ∧ (∀ w p, ((everywhere (.sounding (playing1 sound0 0 (.fadeIn 0)))).voice w).content ≠ .releasing p)
      ∧ (∀ w c, ¬ mayBeStolen (asks sound0 .slate) (everywhere (.sounding (playing1 sound0 0 (.fadeIn 0)))) w c)
      ∧ goesOn (asks sound0 .slate) (everywhere (.sounding (playing1 sound0 0 (.fadeIn 0)))) := by
  refine ⟨fun w => ?_, fun w p => ?_, fun w c h => ?_, .inl rfl⟩
  · simp [everywhere_voice, voice0]
  · simp [everywhere_voice, voice0]
  · rcases h.2.2 with ⟨i, -, hi⟩ | ⟨p, rfl, hp⟩
    · simp [everywhere_voice, voice0] at hi
    · simp only [everywhere_voice, voice0, Content.sounding.injEq] at hp
      subst hp
      exact absurd h.2.1 (by decide)

/-- ClaimTakesVoice: an IDLE voice, a RELEASING one with 24 alike, a SOUNDING one of a lower class, and a restart. -/
theorem witness_obtains :
    obtains (asks sound0 .slate) running 0 .idle
      ∧ obtains (asks sound0 .key) (everywhere (.releasing (playing1 sound0 0 (.release 0 96 0)))) 0 .releasing
      ∧ obtains (asks { sound0 with priority := 1 } .rule) (everywhere (.sounding (playing1 sound0 0 (.fadeIn 0)))) 0 .stolen
      ∧ obtains (asks { sound0 with retrigger := .restart } .slate)
          (with0 (.sounding (playing1 { sound0 with retrigger := .restart } 0 (.fadeIn 0)))) 0 .restart := by
  refine ⟨.inr ⟨.inl rfl, .inl ⟨rfl, by decide, by decide⟩⟩, .inr ⟨.inl rfl, .inr ⟨fun w => ?_, .inl ⟨rfl, playing1 sound0 0 (.release 0 96 0), ?_, ?_⟩⟩⟩,
    .inr ⟨.inl rfl, .inr ⟨fun w => ?_, .inr ⟨fun w q => ?_, rfl, ?_⟩⟩⟩, .inl ⟨rfl, rfl, witness_found _ _⟩⟩
  · simp [everywhere_voice, voice0]
  · exact congrArg Voice.content (everywhere_voice _ _)
  · intro w q hq
    simp only [everywhere_voice, voice0, Content.releasing.injEq] at hq
    subst hq
    exact ⟨fun h => absurd h (by omega), fun _ => le_rfl⟩
  · simp [everywhere_voice, voice0]
  · simp [everywhere_voice, voice0]
  · refine ⟨(playing1 sound0 0 (.fadeIn 0)).claim, ⟨asks_notLeader _ _ _, by decide, .inr ⟨_, rfl, ?_⟩⟩, fun w d h hw => ?_⟩
    · exact congrArg Voice.content (everywhere_voice _ _)
    · rcases h.2.2 with ⟨i, -, hi⟩ | ⟨p, rfl, hp⟩
      · simp [everywhere_voice, voice0] at hi
      · simp only [everywhere_voice, voice0, Content.sounding.injEq] at hp
        subst hp
        exact .inr ⟨rfl, fun h => absurd h (by omega), fun _ => by decide⟩

/-- ClaimTakesVoice: the clip in the head cache, and not; the entry of voice 0 made; key 0 held down. -/
theorem witness_cached :
    (let s := { running with cache := [{ address := sound0.clip, format := sound0.format, state := .present [] }] };
      cacheSound s ∧ ∃ x ∈ s.cache, x.address = sound0.clip ∧ x.format = sound0.format ∧ x.state = .present [])
      ∧ running.cache = [] ∧ (playing1 sound0 0 (.fadeIn 0)).entry = none
      ∧ (asks sound0 .key).origin = (0 : Fin 8).val
      ∧ (setTrigger { running.trigger with
          keys := running.trigger.keys.set 0 { level := true, seen := true, count := 0, due := false } } running).trigger.keys[0].level
        = true := by
  refine ⟨⟨by simp [cacheSound], _, List.mem_singleton_self _, rfl, rfl, rfl⟩, rfl, rfl, rfl, by decide⟩

/-- Every key is up and has hold-to-play set. -/
def keysUp : State :=
  { running with
    trigger := { running.trigger with keyMap := Vector.replicate 8 { selector := ⟨1, 0, 0⟩, holdToPlay := true } } }

/-- ClaimTakesVoice, `released`: key 0 is up and has hold-to-play set, or has it clear; the IDLE voice 0 and a RELEASING
one; the clip of the cue is not in the head cache. -/
theorem witness_key_released :
    (∃ k : Fin 8, k.val = (asks sound0 .key).origin ∧ keysUp.trigger.keys[k].level = false
        ∧ keysUp.trigger.keyMap[k].holdToPlay = true)
      ∧ (∀ k : Fin 8, running.trigger.keyMap[k].holdToPlay = false) ∧ keysUp.cache = []
      ∧ obtains (asks sound0 .key) keysUp 0 .idle
      ∧ Content.outgoingFor .idle (running.voice 0).content = none
      ∧ Content.outgoingFor .releasing (.releasing (playing1 sound0 0 (.release 0 96 0)))
        = some (playing1 sound0 0 (.release 0 96 0))
      ∧ hasRoom (plainReport .ended [] running) running := by
  refine ⟨⟨0, rfl, by decide, by decide⟩, by decide, rfl, .inr ⟨.inl rfl, .inl ⟨rfl, by decide, by decide⟩⟩, by decide, rfl,
    rfl, rfl, ?_⟩
  decide

/-- ScheduleIntakeJudged: targets at distances 3, 2 and 0 and one frame late, 63 and 64 entries, a DEEP hold. -/
theorem witness_intake :
    (awaiting 0 (posted (taken 1 []) running) ∧ (posted (taken 1 []) running).clock.frame = (0 : Word))
      ∧ ((3 - 0 : Word).toNat = 3 ∧ (2 - 0 : Word).toNat = 2 ∧ (0 - 0 : Word).toNat = 0)
      ∧ (2 ^ 31 ≤ (-1 - 0 : Word).toNat ∧ (0 - -1 : Word).toNat = 1) ∧ sound0.lateAllowance < 1
      ∧ ((List.replicate 63 (entry1 3)).length < 64 ∧ 64 ≤ (List.replicate 64 (entry1 3)).length)
      ∧ (inHold .deep).run.hold = .deep ∧ running.run.hold ≠ .deep :=
  ⟨⟨posted_awaits, rfl⟩, by decide, by decide, by decide, by simp, rfl, by decide⟩

/-- HeadLands: each pending start of a PRIMING voice, EXACT at its end sample and one before it, AT_FRAME overdue by its
allowance and past it; a memory error. -/
theorem witness_starts :
    (∀ i, ((with0 (.priming i)).voice 0).content = .priming i)
      ∧ (Time.earlier running.clock.showTime 0 = false ∧ Time.earlier running.clock.showTime 1 = true)
      ∧ ((running.clock.frame - 0).toNat ≤ sound0.lateAllowance ∧ sound0.lateAllowance < (running.clock.frame - -1).toNat)
      ∧ (∀ i, endsBadly (readJob (.head 0 1) 0x100 4) failed (flight (readJob (.head 0 1) 0x100 4) (with0 (.priming i))))
      ∧ ∀ i, ((with0 (.priming i)).voice 0).content.incoming = some i :=
  ⟨fun _ => congrArg Voice.content (with0_voice _), by decide, by decide, fun _ => flight_fails rfl,
    fun _ => congrArg (fun x => x.content.incoming) (with0_voice _)⟩

/-- HeadLands: the claim PRIMING with FRAME and IMMEDIATE, in HANDOVER, and a stale head. -/
theorem witness_head :
    (endsWell (readJob (.head 0 1) 0x100 4) good (flight (readJob (.head 0 1) 0x100 4) (with0 (.priming (incoming1 sound0 .frame))))
        ∧ (1 : Half) = ((with0 (.priming (incoming1 sound0 .frame))).voice 0).claimNo)
      ∧ ((with0 (.priming (incoming1 sound0 .immediate))).voice 0).content = .priming (incoming1 sound0 .immediate)
      ∧ ((with0 (.handover (playing1 sound0 0 (.release 0 96 0)) (incoming1 sound0 .none) false)).voice 0).content
          = .handover (playing1 sound0 0 (.release 0 96 0)) (incoming1 sound0 .none) false
      ∧ (2 : Half) ≠ ((with0 (.priming (incoming1 sound0 .frame))).voice 0).claimNo
      ∧ (voice0 (.handover (playing1 sound0 0 (.release 0 96 0)) (incoming1 sound0 .none) false)).numberAfterWithdraw = 2 :=
  ⟨⟨flight_ends rfl (by decide), by decide⟩, by decide, by decide, by decide, by decide⟩

/-- RefillLands: a refill awaited, one of another claim, and one voided. -/
theorem witness_refill :
    let s := with0 (.sounding (playing1 sound0 0 (.fadeIn 0)))
    endsWell (readJob (.refill 0 1 2 0 false) 0x104 0) good (flight (readJob (.refill 0 1 2 0 false) 0x104 0) s)
      ∧ (s.voice 0).content.playing = some (playing1 sound0 0 (.fadeIn 0)) ∧ (s.voice 0).feeding = some 1
      ∧ (s.voice 0).feeding ≠ some 2 ∧ (playing1 sound0 0 (.fadeIn 0)).entry = none
      ∧ endsBadly (readJob (.refill 0 1 2 0 false) 0x104 0) failed (flight (readJob (.refill 0 1 2 0 false) 0x104 0) s)
      ∧ (playing1 sound0 0 (.fadeIn 0)).quiet = false :=
  ⟨flight_ends rfl (by decide), by decide, by decide, by decide, rfl, flight_fails rfl, rfl⟩

/-- A PENDING entry of slot 0. -/
def pendingEntry (dropping : Bool) : CacheEntry := { address := 0x200, format := .s24, state := .pending 0 dropping }

/-- The part with that entry, slot 0 held and its PIN job in flight. -/
def pinning (dropping : Bool) : State :=
  flight (readJob (.pin 0) 0x200 12288)
    { running with
      cache := [pendingEntry dropping], slate := { running.slate with held := [held (taken 15 [0, 2, 0, 0, 3])] } }

/-- PinJobEnds: the entry, dropping or not, is the only one and its slot waits. -/
theorem witness_pin_job (dropping : Bool) :
    endsWell (readJob (.pin 0) 0x200 12288) good (pinning dropping) ∧ cacheSound (pinning dropping)
      ∧ pendingEntry dropping ∈ (pinning dropping).cache
      ∧ (∀ y ∈ (pinning dropping).cache, ∀ d, y.state = .pending 0 d → y = pendingEntry dropping)
      ∧ awaiting 0 (pinning dropping) ∧ endsBadly (readJob (.pin 0) 0x200 12288) failed (pinning dropping) := by
  refine ⟨⟨rfl, rfl, rfl, by decide⟩, ?_, by simp [pinning, flight], by simp [pinning, flight], ⟨_, rfl, rfl⟩,
    rfl, rfl, .inl rfl⟩
  simp [cacheSound, pinning, flight]

/-- A switch in progress, with these bytes at scene record 1. -/
def switching (bytes : List Byte) (w : Switch) : State :=
  { running with
    run := { running.run with switch := some w, current := some 0 }
    slate := { running.slate with held := [held (taken 20 [1])] }
    mem := Memory.writeBytes [] 0x20A0 bytes }

/-- The scene record read of scene 1. -/
def sceneJob : Job := readJob (.sceneRecord 1) 0x20A0 160

/-- SceneCommits: a record with no rules, with one rule, not present; the slot waits; a staging copy for the rule table. -/
theorem witness_scene_read :
    (endsWell sceneJob good (flight sceneJob (switching [1] switch0)) ∧ awaiting 0 (switching [1] switch0))
      ∧ (let r := decodeScene (delivered sceneJob good (flight sceneJob (switching [1] switch0)))
        r.present = true ∧ r.busy = false ∧ r.ruleCount = 0)
      ∧ (decodeScene (delivered sceneJob good (flight sceneJob (switching [1, 0, 1] switch0)))).ruleCount = 1
      ∧ (decodeScene (delivered sceneJob good (flight sceneJob (switching [] switch0)))).present = false
      ∧ (switching [1] switch0).run.current ≠ some switch0.target ∧ switch0.phase = .loading := by
  refine ⟨⟨flight_ends rfl (by decide), held (taken 20 [1]), rfl, rfl⟩, by decide, by decide, by decide, by decide, rfl⟩

/-- SceneCommits: a record that is busy, one that is current, the initial load, and a memory error at either read. -/
theorem witness_scene_abandon :
    (decodeScene (delivered sceneJob good (flight sceneJob (switching [1, 1] switch0)))).busy = true
      ∧ (switching [1] { switch0 with target := 0 }).run.current = some ({ switch0 with target := 0 } : Switch).target
      ∧ (switching [] { switch0 with slot := none }).run.switch = some { switch0 with slot := none }
      ∧ endsBadly sceneJob failed (flight sceneJob (switching [] switch0))
      ∧ endsBadly (readJob (.ruleTable 1) 0x100 16) failed (flight (readJob (.ruleTable 1) 0x100 16) (switching [] switch0))
      ∧ (switching [] switch0).fault.record = none ∧ sceneJob.address < 2 ^ 32 ∧ awaiting 0 (switching [] switch0) :=
  ⟨by decide, rfl, rfl, flight_fails rfl, flight_fails rfl, rfl, by decide, held (taken 20 [1]), rfl, rfl⟩

/-- BusyWritesEnd: behind busy 0 in RUNNING and in STOPPING, behind busy 1 for a slot, and for the initial load. -/
theorem witness_busy :
    (endsWell (writeJob (.busyWrite 0 false) 0x2001 [0]) good
        (flight (writeJob (.busyWrite 0 false) 0x2001 [0]) (switching [] { switch0 with phase := .marking }))
      ∧ isRunning (switching [] switch0) = true ∧ isRunning (setPart .stopping (switching [] switch0)) = false
      ∧ awaiting 0 (switching [] switch0))
      ∧ endsWell (writeJob (.busyWrite 1 true) 0x20A1 [1]) good
          (flight (writeJob (.busyWrite 1 true) 0x20A1 [1]) (switching [] { switch0 with slot := none })) :=
  ⟨⟨flight_ends rfl (by decide), rfl, by decide, held (taken 20 [1]), rfl, rfl⟩, flight_ends rfl (by decide)⟩

/-- BusyWritesEnd: the busy write of the initial load fails. -/
theorem witness_busy_fails :
    let s := setPart .starting (switching [] { switch0 with slot := none, phase := .marking })
    endsBadly (writeJob (.busyWrite 1 true) 0x20A1 [1]) failed (flight (writeJob (.busyWrite 1 true) 0x20A1 [1]) s)
      ∧ s.regs.part = .starting ∧ s.run.switch = some { switch0 with slot := none, phase := .marking }
      ∧ s.fault.record = none := ⟨flight_fails rfl, rfl, rfl, rfl⟩

/-- The Report Unit with this returned-to index and this many reports in the hold list. -/
def reporting (returned n : Nat) : State :=
  { running with reports := { ReportUnit.reset with
      returnedTo := returned, holdList := List.replicate n (plainReport .fired [] State.reset) } }

/-- ReportTable: each column of R180 at its limit. -/
theorem witness_reports :
    isActive State.reset = false
      ∧ (isActive (reporting 2 0) = true ∧ (reporting 2 0).reports.holdList = [] ∧ freeRoom (reporting 2 0) = 1)
      ∧ freeRoom (reporting 1 0) = 0
      ∧ (freeRoom (reporting 5 0) = (header (reporting 5 0)).reserve
        ∧ (header (reporting 6 0)).reserve < freeRoom (reporting 6 0))
      ∧ ((reporting 1 15).reports.holdList.length = 15 ∧ (reporting 1 16).reports.holdList.length = 16)
      ∧ ReportKind.fired.essential = true ∧ ReportKind.meter.essential = false := by decide

/-- ReportJobsEnd: the read is in flight and the indices lie below the report count. -/
theorem witness_returned :
    endsWell (readJob .returnedTo 28 2) good (flight (readJob .returnedTo 28 2) (reporting 1 16))
      ∧ 0 < (header (reporting 1 16)).reportCount ∧ (reporting 1 16).reports.writtenTo < (header (reporting 1 16)).reportCount
      ∧ min (reporting 0 16).reports.holdList.length (freeRoom (reporting 0 16)) = 15 :=
  ⟨flight_ends rfl (by decide), by decide, by decide, by decide⟩

/-- ReportJobsEnd and FatalWriteFails: each write in flight, a mirror write waiting and none. -/
theorem witness_writes :
    endsWell (writeJob .writtenTo 32 [0, 0]) good (flight (writeJob .writtenTo 32 [0, 0]) running)
      ∧ endsWell (writeJob (.reportRecord 0) 0x4000 []) good (flight (writeJob (.reportRecord 0) 0x4000 []) running)
      ∧ endsWell (writeJob .faultRecord 128 []) good (flight (writeJob .faultRecord 128 []) running)
      ∧ endsWell (writeJob .mirror 34 []) good (flight (writeJob .mirror 34 []) running)
      ∧ running.slate.mirrorWaiting = none
      ∧ { running.slate with mirrorWaiting := some [] }.mirrorWaiting = some []
      ∧ JobKind.mirror.isWrite = true ∧ isActive running = true ∧ isActive State.reset = false :=
  ⟨flight_ends rfl (by decide), flight_ends rfl (by decide), flight_ends rfl (by decide), flight_ends rfl (by decide), rfl,
    rfl, rfl, by decide, by decide⟩

/-- ArbiterOrder: an idle port, a class with one job behind empty ones, a head and a refill that are not stale. -/
theorem witness_arbiter :
    running.port = Port.reset
      ∧ headStale (with0 (.priming (incoming1 sound0 .frame))) (readJob (.head 0 1) 0x100 4) = false
      ∧ refillStale (with0 (.sounding (playing1 sound0 0 (.fadeIn 0)))) (readJob (.refill 0 1 2 0 false) 0x104 0) = false := by
  decide

/-- ExactStartSounds: at the end sample and one before it; an entry still to come, whose first sample is the next one, and
one with both marks of lateness; room for its reports; a voice that has made its entry. -/
theorem witness_exact :
    (landed1.entry ≠ none ∧ landed1.fromNext = true ∧ ((with0 (.sounding landed1)).voice 0).content = .sounding landed1)
      ∧ ((with0 (.armed (incoming1 sound0 (.exact 0)))).voice 0).content = .armed (incoming1 sound0 (.exact 0))
      ∧ Time.earlier running.clock.showTime 0 = false ∧ Time.earlier running.clock.showTime 1 = true
      ∧ (lateHere 0 landed1 { mark := some 0, samples := some 301 } 2 running).length = 2
      ∧ (isActive (with0 (.sounding landed1)) = true ∧ 3 ≤ freeRoom (with0 (.sounding landed1)))
      ∧ (playing1 sound0 0 (.fadeIn 0)).entry = none := by decide

/-- FollowOnRequestPlaced: 9,600 samples left, and 9,601. -/
theorem witness_follow :
    let c : SoundCue := { sound0 with length := 9601, follow := ⟨1, 0, 0⟩ }
    let p := playing1 c 1 (.fadeIn 0)
    (isRunning (with0 (.sounding p)) = true ∧ p.sound.follow.sheet ≠ 0 ∧ p.loopActive = false ∧ p.followPlaced = false
        ∧ p.sound.length - p.position = 9600)
      ∧ 9600 < c.length - 0 ∧ p.entry = none ∧ landed1.entry ≠ none := by decide

/-- FollowOnRequestPlaced: no request of the leader waits, and one does, behind that of another leader. -/
theorem witness_follow_place :
    let f (v : Fin 24) : FollowOn := { leader := v, claim := 1, selector := ⟨1, 0, 0⟩, level := 0, stop := 0 }
    (∀ g ∈ ([] : List FollowOn), g.leader ≠ 0) ∧ [f 1, f 0] = [f 1] ++ f 0 :: [] ∧ (f 0).leader = 0
      ∧ ∀ g ∈ [f 1], g.leader ≠ 0 := by decide

/-- ClipsAndFadesEnd, a SOUNDING voice: the clip played to its end, and one frame before it. -/
theorem witness_natural :
    (playing1 sound0 2 (.fadeIn 0)).sound.length ≤ (playing1 sound0 2 (.fadeIn 0)).position
      ∧ (playing1 sound0 1 (.fadeIn 0)).position < (playing1 sound0 1 (.fadeIn 0)).sound.length
      ∧ ((with0 (.sounding (playing1 sound0 2 (.fadeIn 0)))).voice 0).content = .sounding (playing1 sound0 2 (.fadeIn 0)) := by
  decide

/-- ClipsAndFadesEnd, RELEASING and HANDOVER: the fade run out, and one sample before; the clip at its end; the head landed
or not. -/
theorem witness_release_end (landed : Bool) :
    let p := playing1 sound0 0 (.release 0 96 96)
    ((with0 (.releasing p)).voice 0).content = .releasing p ∧ p.fade = .release 0 96 96
      ∧ ((with0 (.handover p (incoming1 sound0 .frame) landed)).voice 0).content = .handover p (incoming1 sound0 .frame) landed
      ∧ (incoming1 sound0 .frame).start = .frame ∧ (incoming1 sound0 .immediate).start = .immediate ∧ 95 < 96
      ∧ (playing1 sound0 2 (.release 0 96 0)).sound.length ≤ 2
      ∧ { p with endReason := some .cut }.quiet = false ∧ { p with quiet := true }.quiet = true := by
  cases landed <;> decide

/-- DuckStepMoves: a due group and one that is not. -/
theorem witness_duck :
    ({ Duck.reset with depth := 24, keyed := true, due := true }).due = true ∧ running.mix.ducks[3].due = false := by decide

/-- ResolutionsBegin: FIRE, PRIME and PROBE are the head request, of sheets 0, 1 and 2 of two; it is the slate's turn, and it is not. -/
theorem witness_resolutions :
    (headRequest (posted (taken 1 [0, 1, 0, 0]) running) = some (taken 1 [0, 1, 0, 0], [], .fire ⟨1, 0, 0⟩ 0 .immediate)
        ∧ headRequest (posted (taken 2 [0, 1, 0, 0]) running) = some (taken 2 [0, 1, 0, 0], [], .prime ⟨1, 0, 0⟩ 0)
        ∧ headRequest (posted (taken 5 [0, 1]) running) = some (taken 5 [0, 1], [], .probe ⟨1, 0, 0⟩)
        ∧ headRequest (posted (taken 5 [0, 0xC0]) running) = some (taken 5 [0, 0xC0], [], .probe ⟨0, 0, 3⟩)
        ∧ headRequest (posted (taken 5 [0, 2]) running) = some (taken 5 [0, 2], [], .probe ⟨2, 0, 0⟩))
      ∧ slateTurn (posted (taken 5 [0, 1]) running) = true
      ∧ slateTurn (posted (taken 5 [0, 1]) { running with resolver :=
          { running.resolver with current := some (resolution 0 .readingCue) } }) = false :=
  ⟨⟨posted_head rfl rfl, posted_head rfl rfl, posted_head rfl rfl, posted_head rfl rfl, posted_head rfl rfl⟩,
    by decide, by decide⟩

/-- GoStarts: voices 23 and 24; ARMED, PRIMING and IDLE; a hold. -/
theorem witness_go :
    (headRequest (posted (taken 3 [24, 0, 0]) running) = some (taken 3 [24, 0, 0], [], .go 24 false)
        ∧ headRequest (posted (taken 3 [0, 0, 1]) (with0 (.armed (incoming1 sound0 .none))))
          = some (taken 3 [0, 0, 1], [], .go 0 true))
      ∧ awaiting 0 (posted (taken 3 [0, 0, 1]) (with0 (.armed (incoming1 sound0 .none))))
      ∧ ((with0 (.armed (incoming1 sound0 .none))).voice 0).content = .armed (incoming1 sound0 .none)
      ∧ ((with0 (.priming (incoming1 sound0 .none))).voice 0).content = .priming (incoming1 sound0 .none)
      ∧ (running.voice 23).content = .idle ∧ running.run.hold = .none :=
  ⟨⟨posted_head rfl rfl, posted_head rfl rfl⟩, posted_awaits, by decide, by decide, by decide, rfl⟩

/-- SetVarResult: variables 31 and 32. -/
theorem witness_set_var :
    (headRequest (posted (taken 4 [31, 2, 5, 0]) running) = some (taken 4 [31, 2, 5, 0], [], .setVar 31 .sub 5)
        ∧ headRequest (posted (taken 4 [32, 0, 5, 0]) running) = some (taken 4 [32, 0, 5, 0], [], .setVar 32 .set 5))
      ∧ awaiting 0 (posted (taken 4 [31, 2, 5, 0]) running) :=
  ⟨⟨posted_head rfl rfl, posted_head rfl rfl⟩, posted_awaits⟩

/-- ReleaseActs, CutActs and UnloopClearsLoop: voices 23 (IDLE), 24, and voice 0 SOUNDING at the tail of the start order. -/
theorem witness_voice_requests :
    (headRequest (posted (taken 6 [23, 1, 0, 0]) running) = some (taken 6 [23, 1, 0, 0], [], .release 23 true 0)
        ∧ headRequest (posted (taken 6 [24, 0, 96, 0]) running) = some (taken 6 [24, 0, 96, 0], [], .release 24 false 96)
        ∧ headRequest (posted (taken 7 [24]) running) = some (taken 7 [24], [], .cut 24)
        ∧ headRequest (posted (taken 8 []) running) = some (taken 8 [], [], .cutLast)
        ∧ headRequest (posted (taken 9 [24]) running) = some (taken 9 [24], [], .unloop 24))
      ∧ awaiting 0 (posted (taken 8 []) running)
      ∧ ((with0 (.sounding (playing1 sound0 0 (.fadeIn 0)))).voice 0).content = .sounding (playing1 sound0 0 (.fadeIn 0))
      ∧ full.startOrder.getLast? = some 0 ∧ running.startOrder = [] :=
  ⟨⟨posted_head rfl rfl, posted_head rfl rfl, posted_head rfl rfl, posted_head rfl rfl,
    posted_head rfl rfl⟩, posted_awaits, by decide, rfl, rfl⟩

/-- ReleaseActs and CutActs: voice 0 has a claim that has not sounded, ARMED or in HANDOVER, and ENDED tells of it. -/
theorem witness_withdrawn (reason : Byte) :
    ∀ c ∈ [.armed (incoming1 sound0 .frame),
        .handover (playing1 sound0 0 (.release 0 96 0)) (incoming1 sound0 .none) false],
      endedUnsounded reason (with0 c) 0
        = some (aboutClaim .ended 0 (claim1 sound0 .immediate) [1, 0, reason, 0] (with0 c)) := by
  intro c hc
  simp only [List.mem_cons, List.not_mem_nil, or_false] at hc
  rcases hc with rfl | rfl <;> rfl

/-- ReleaseGroupActs: groups 0, 15 and 16, and a voice of group 15. -/
theorem witness_release_group :
    (headRequest (posted (taken 10 [15]) full) = some (taken 10 [15], [], .releaseGroup 15)
        ∧ headRequest (posted (taken 10 [0]) full) = some (taken 10 [0], [], .releaseGroup 0)
        ∧ headRequest (posted (taken 10 [16]) full) = some (taken 10 [16], [], .releaseGroup 16))
      ∧ awaiting 0 (posted (taken 10 [15]) full) ∧ (full.voice 0).content.inGroup 15 = true
      ∧ (full.voice 1).content.inGroup 15 = false :=
  ⟨⟨posted_head (by decide) rfl, posted_head (by decide) rfl, posted_head (by decide) rfl⟩,
    posted_awaits, by decide, by decide⟩

/-- A voice that a schedule link with tag 9 still holds. -/
def linked : State :=
  { with0 (.armed (incoming1 sound0 .frame)) with
    schedule := { Schedule.reset with links := Schedule.reset.links.set 0 (some { claim := 1, tag := 9, target := 0 }) } }

/-- CancelActs: voice 0 is hit, and no other. -/
theorem witness_cancel :
    (headRequest (posted (taken 11 [9, 0]) linked) = some (taken 11 [9, 0], [], .cancel 9)
        ∧ awaiting 0 (posted (taken 11 [9, 0]) linked))
      ∧ ∀ v : Fin 24, decide (v = 0) = true ↔ ∃ l, linked.schedule.links[v] = some l ∧ l.tag = 9
        ∧ (linked.voice v).claimNo = l.claim ∧ (linked.voice v).content.incoming ≠ none := by
  refine ⟨⟨posted_head (by decide) rfl, posted_awaits⟩, fun v => ?_⟩
  by_cases h : v = 0
  · subst h
    exact ⟨fun _ => ⟨{ claim := 1, tag := 9, target := 0 }, by decide⟩, fun _ => rfl⟩
  · have : linked.schedule.links[v] = none := by revert v; decide
    simp [h, this]

/-- ArmAndReopen: masks that name rules beyond the store, and group 8. -/
theorem witness_arm :
    (headRequest (posted (taken 12 [0xFF, 0, 0, 0, 0, 0, 0, 0x80]) running)
        = some (taken 12 [0xFF, 0, 0, 0, 0, 0, 0, 0x80], [], .armRules 0x80000000000000FF)
        ∧ headRequest (posted (taken 13 [1]) running) = some (taken 13 [1], [], .disarmRules 1)
        ∧ headRequest (posted (taken 14 [0x80]) running) = some (taken 14 [0x80], [], .reopen 0x80))
      ∧ awaiting 0 (posted (taken 14 [0x80]) running) :=
  ⟨⟨posted_head rfl rfl, posted_head rfl rfl, posted_head rfl rfl⟩, posted_awaits⟩

/-- PinAndUnpinJudged: an address that is not aligned, an address not pinned, and the entry of slot 1 in each state. -/
theorem witness_pin (d : Bool) :
    (headRequest (posted (taken 15 [2, 2, 0, 0, 3]) running) = some (taken 15 [2, 2, 0, 0, 3], [], .pin 0x202 .s24)
        ∧ headRequest (posted (taken 15 [0, 2, 0, 0, 3]) running) = some (taken 15 [0, 2, 0, 0, 3], [], .pin 0x200 .s24)
        ∧ headRequest (posted (taken 16 [0, 2, 0, 0, 0]) running) = some (taken 16 [0, 2, 0, 0, 0], [], .unpin 0x200 .m16))
      ∧ awaiting 0 (posted (taken 15 [0, 2, 0, 0, 3]) running)
      ∧ cacheSound { running with cache := [{ pendingEntry d with state := .pending 1 d }] }
      ∧ pinInFlight 1 running = false ∧ pinInFlight 1 (flight (readJob (.pin 1) 0x200 12288) running) = true
      ∧ (List.range 16).length = 16 :=
  ⟨⟨posted_head rfl rfl, posted_head rfl rfl, posted_head rfl rfl⟩, posted_awaits,
    by simp [cacheSound], by decide, by decide, by decide⟩

/-- TrimResult: buses 3 and 4. -/
theorem witness_trim :
    (headRequest (posted (taken 17 [3, 0, 0, 0xFF]) running) = some (taken 17 [3, 0, 0, 0xFF], [], .trim 3 (-256))
        ∧ headRequest (posted (taken 17 [4, 0, 0, 0]) running) = some (taken 17 [4, 0, 0, 0], [], .trim 4 0))
      ∧ awaiting 0 (posted (taken 17 [3, 0, 0, 0xFF]) running) :=
  ⟨⟨posted_head rfl rfl, posted_head rfl rfl⟩, posted_awaits⟩

/-- HoldJudged: both depths, lines 15 and 16, RESUME in a hold and in none. -/
theorem witness_hold :
    (headRequest (posted (taken 18 [1, 0, 0]) running) = some (taken 18 [1, 0, 0], [], .hold .light none)
        ∧ headRequest (posted (taken 18 [2, 1, 15]) running) = some (taken 18 [2, 1, 15], [], .hold .deep (some 15))
        ∧ headRequest (posted (taken 18 [2, 1, 16]) running) = some (taken 18 [2, 1, 16], [], .hold .deep (some 16))
        ∧ headRequest (posted (taken 19 []) running) = some (taken 19 [], [], .resume))
      ∧ awaiting 0 (posted (taken 19 []) running)
      ∧ (anyPinInFlight running = false ∧ anyPinInFlight (pinning false) = true ∧ running.run.switch = none)
      ∧ (switching [] switch0).run.switch ≠ none ∧ running.trigger.lines[15].level = false
      ∧ hasRoom (plainReport .holdEntered [] running) (posted (taken 18 [1, 0, 0]) running)
      ∧ slotAt 0 (posted (taken 18 [1, 0, 0]) running) = some (held (taken 18 [1, 0, 0]))
      ∧ (held (taken 18 [1, 0, 0])).written = true ∧ freeRoom running = 15
      ∧ running.reports.writtenTo < (header running).reportCount := by
  refine ⟨⟨posted_head rfl rfl, posted_head rfl rfl, posted_head rfl rfl, posted_head rfl rfl⟩,
    posted_awaits, by decide, by decide, by decide, ⟨rfl, rfl, ?_⟩, rfl, rfl, ?_, ?_⟩ <;> decide

/-- SceneJudged: scenes 1 and 2 of two, with and without a switch in progress. -/
theorem witness_scene :
    (headRequest (posted (taken 20 [1]) running) = some (taken 20 [1], [], .scene 1)
        ∧ headRequest (posted (taken 20 [2]) running) = some (taken 20 [2], [], .scene 2))
      ∧ awaiting 0 (posted (taken 20 [1]) running)
      ∧ (1 < (header running).sceneCount ∧ (header running).sceneCount ≤ 2)
      ∧ running.run.switch = none ∧ (switching [] switch0).run.switch ≠ none :=
  ⟨⟨posted_head rfl rfl, posted_head rfl rfl⟩, posted_awaits, by decide, rfl, by decide⟩

/-- LinesResults. -/
theorem witness_lines :
    (headRequest (posted (taken 21 [0xFF, 0xFF, 1, 0x80]) running)
        = some (taken 21 [0xFF, 0xFF, 1, 0x80], [], .linesWrite 0xFFFF 0x8001)
        ∧ headRequest (posted (taken 22 [1, 0, 0, 0x80]) running) = some (taken 22 [1, 0, 0, 0x80], [], .linesModify 1 0x8000))
      ∧ awaiting 0 (posted (taken 22 [1, 0, 0, 0x80]) running) :=
  ⟨⟨posted_head rfl rfl, posted_head rfl rfl⟩, posted_awaits⟩

/-- SetRateJudged: code 6, with every voice IDLE and with one that is not. -/
theorem witness_set_rate :
    (headRequest (posted (taken 23 [6]) running) = some (taken 23 [6], [], .setRate (6 : Fin 7).val)
        ∧ awaiting 0 (posted (taken 23 [6]) running))
      ∧ (∀ v, (running.voice v).content = .idle) ∧ running.schedule.entries = [] ∧ (full.voice 0).content ≠ .idle
      ∧ running.clock.lock = .seeking ∧ (pulseAt .locked 0 0).clock.lock ≠ .seeking
      ∧ hasRoom (plainReport .refState [] running) (posted (taken 23 [6]) (pulseAt .locked 0 0)) := by
  refine ⟨⟨posted_head rfl rfl, posted_awaits⟩, by decide, rfl, by decide, rfl, nofun, rfl, rfl, ?_⟩
  decide

/-- AckFaultClears. -/
theorem witness_ack :
    headRequest (posted (taken 24 []) running) = some (taken 24 [], [], .ackFault) ∧ awaiting 0 (posted (taken 24 []) running) :=
  ⟨posted_head rfl rfl, posted_awaits⟩

end Sys2Proof.Tests
end

section
/-! The rate codes (R22): their table, the code that names no rate, and the code in force after cold reset. -/

namespace Sys2Proof.Machine

/-! ### The table -/

/-- The N and D of a code make its frames per second (a fraction) of the 48 kHz clock: 48,000 D / N. -/
theorem rateN_mul_frames (r : Fin 7) (f : Nat × Nat)
    (h : [(24, 1), (25, 1), (30000, 1001), (30, 1), (50, 1), (60000, 1001), (60, 1)][r.val]? = some f) :
    f.1 * rateN r = 48000 * rateD r * f.2 := by
  fin_cases r <;> cases h <;> rfl

/-! ### Code 7 -/

/-- A code beyond the table is judged before the voices and the schedule (R32). -/
theorem requestSetRate_badArg (t : Taken) {code : Nat} (h : 7 ≤ code) (s : State) :
    requestSetRate t code s = giveResult t.slot .badArg [] s :=
  dif_neg (Nat.not_lt.mpr h)

/-- A SET RATE request with a code beyond the table is answered BAD_ARG, whatever the state. -/
theorem setRate_answers_badArg {s : State} {tk : Taken} {rest : List Taken} {code : Nat} (hc : 7 ≤ code)
    (h : headRequest s = some (tk, rest, .setRate code)) (hw : awaiting tk.slot s) :
    Answers .setRate s tk.slot .badArg [] s :=
  ⟨_, rfl, handOn_gives (pick := Request.asSetRate) (u := popHead s) h rfl hw (requestSetRate_badArg tk hc _) rfl⟩

/-- A header that passes the checks carries a rate code of the table (R38). -/
theorem Header.rate_le_of_check {h : Header} (hc : h.check = none) : h.rate ≤ 6 := by
  unfold Header.check at hc
  split at hc
  · cases hc
  · split at hc
    · cases hc
    · next inRange => simp_all only [Bool.not_eq_true', Bool.not_eq_false, Bool.and_eq_true, decide_eq_true_eq]

/-! ### Cold reset -/

theorem doColdReset_rate (s : State) : (doColdReset s).clock.rate = 1 := rfl

/-- The rate code in force after cold reset: the arbiter, which acts last, leaves the clock alone. -/
theorem exec_coldReset_rate {s t : State} (h : exec .coldReset s = .next t) : t.clock.rate = 1 := by
  cases h
  rw [(portOnly_arbitrate (doColdReset s)).clock, doColdReset_rate]

/-- Settles O7: the table is evaluated code by code; SET RATE and the header check each test the code against it; a cold
reset puts the clock's reset value. -/
theorem rateTable : Obligations.RateTable :=
  ⟨by decide, by decide, rateN_mul_frames, fun _ _ _ => setRate_answers_badArg le_rfl,
    fun _ hr hc => absurd (Header.rate_le_of_check hc) (by rw [hr]; decide), rfl, fun _ _ => exec_coldReset_rate⟩

end Sys2Proof.Machine
end

section
/-! SET VAR (R59): what each operation makes of a variable, and what the slot is answered. -/

namespace Sys2Proof.Machine

/-! ### Show variables -/

theorem variableAt_of_lt {v : Nat} (h : v < 32) (s : State) : variableAt v s = s.resolver.vars[v] := dif_pos h

theorem setVariable_of_lt {v : Nat} (h : v < 32) (x : Half) (s : State) :
    setVariable v x s = { s with resolver := { s.resolver with vars := s.resolver.vars.set v x } } := dif_pos h

/-! ### The operations -/

@[simp] theorem VarOp.apply_set (old x : Half) : VarOp.set.apply old x = x := rfl

/-- ADD stops at 65,535 (R59). -/
@[simp] theorem VarOp.apply_add (old x : Half) :
    VarOp.add.apply old x = BitVec.ofNat 16 (min 65535 (old.toNat + x.toNat)) := rfl

/-- SUB stops at 0 (R59): a difference of natural numbers does. -/
@[simp] theorem VarOp.apply_sub (old x : Half) : VarOp.sub.apply old x = BitVec.ofNat 16 (old.toNat - x.toNat) := rfl

/-! ### The request -/

/-- A variable is read, and written with what the operation makes of it; both values are the detail. -/
theorem requestSetVar_of_lt (t : Taken) {v : Nat} (h : v < 32) (op : VarOp) (x : Half) (s : State) :
    requestSetVar t (v, op, x) s =
      giveResult t.slot .ok
        (toBytes 2 s.resolver.vars[v].toNat ++ toBytes 2 (op.apply s.resolver.vars[v] x).toNat)
        { s with resolver := { s.resolver with vars := s.resolver.vars.set v (op.apply s.resolver.vars[v] x) } } := by
  rw [requestSetVar, if_pos h]
  simp only [variableAt_of_lt h, setVariable_of_lt h]

/-- A number that names no variable. -/
theorem requestSetVar_badArg (t : Taken) {v : Nat} (h : 32 ≤ v) (op : VarOp) (x : Half) (s : State) :
    requestSetVar t (v, op, x) s = giveResult t.slot .badArg [] s :=
  if_neg (Nat.not_lt.mpr h)

section
variable {s : State} {tk : Taken} {rest : List Taken} {v : Nat} {op : VarOp} {x : Half}

/-- SET VAR on a variable answers OK with the old and the new value, and writes the new one. -/
theorem setVar_answers_ok (hv : v < 32) (h : headRequest s = some (tk, rest, .setVar v op x))
    (hw : awaiting tk.slot s) :
    Answers .setVar s tk.slot .ok
      (toBytes 2 s.resolver.vars[v].toNat ++ toBytes 2 (op.apply s.resolver.vars[v] x).toNat)
      { s with resolver := { s.resolver with vars := s.resolver.vars.set v (op.apply s.resolver.vars[v] x) } } :=
  ⟨_, rfl, handOn_gives (pick := Request.asSetVar) h rfl hw (requestSetVar_of_lt tk hv op x (popHead s)) rfl⟩

/-- SET VAR on a number that names no variable answers BAD_ARG and changes nothing. -/
theorem setVar_answers_badArg (hv : 32 ≤ v) (h : headRequest s = some (tk, rest, .setVar v op x))
    (hw : awaiting tk.slot s) : Answers .setVar s tk.slot .badArg [] s :=
  ⟨_, rfl, handOn_gives (pick := Request.asSetVar) (u := popHead s) h rfl hw (requestSetVar_badArg tk hv op x _) rfl⟩

end

/-- Settles O47: the number is tested against 32 and nothing else of the state is; the new value is that of the
operation, case by case. -/
theorem setVarResult : Obligations.SetVarResult := by
  intro s tk rest v op x h hw
  refine ⟨fun hv old new hold hnew => ?_, fun hv => setVar_answers_badArg hv h hw⟩
  have value : new = op.apply old x := by
    cases op with
    | set => exact hnew.trans (VarOp.apply_set old x).symm
    | add => exact hnew.trans (VarOp.apply_add old x).symm
    | sub => exact hnew.trans (VarOp.apply_sub old x).symm
  rw [value, hold]
  exact setVar_answers_ok hv h hw

end Sys2Proof.Machine
end

section
/-! TRIM (R163): the request that moves the trim of a bus, and the commit of a scene that sets all four. -/

namespace Sys2Proof.Machine

/-! ### The request -/

/-- A number below 4 names a bus: its trim is read and replaced, with nothing else of the state looked at. -/
theorem requestTrim_of_lt (t : Taken) {b : Nat} (h : b < 4) (level : Int) (s : State) :
    requestTrim t (b, level) s =
      giveResult t.slot .ok
        (toBytes 1 b ++ [0] ++ signedBytes 2 s.mix.buses[b].trim ++ signedBytes 2 (clampLevel level))
        { s with mix := { s.mix with
            buses := s.mix.buses.set b { s.mix.buses[b] with trim := clampLevel level } } } :=
  dif_pos h

/-- A number that names no bus. -/
theorem requestTrim_badArg (t : Taken) {b : Nat} (h : 4 ≤ b) (level : Int) (s : State) :
    requestTrim t (b, level) s = giveResult t.slot .badArg [] s :=
  dif_neg (Nat.not_lt.mpr h)

section
variable {s : State} {tk : Taken} {rest : List Taken} {b : Nat} {level : Int}

/-- TRIM on a bus answers OK with the bus and its two trims, and puts the clamped one in force. -/
theorem trim_answers_ok (hb : b < 4) (h : headRequest s = some (tk, rest, .trim b level))
    (hw : awaiting tk.slot s) :
    Answers .trim s tk.slot .ok
      (toBytes 1 b ++ [0] ++ signedBytes 2 s.mix.buses[b].trim ++ signedBytes 2 (clampLevel level))
      { s with mix := { s.mix with
          buses := s.mix.buses.set b { s.mix.buses[b] with trim := clampLevel level } } } :=
  ⟨_, rfl, handOn_gives (pick := Request.asTrim) h rfl hw (requestTrim_of_lt tk hb level (popHead s)) rfl⟩

/-- TRIM on a number that names no bus answers BAD_ARG and changes nothing. -/
theorem trim_answers_badArg (hb : 4 ≤ b) (h : headRequest s = some (tk, rest, .trim b level))
    (hw : awaiting tk.slot s) : Answers .trim s tk.slot .badArg [] s :=
  ⟨_, rfl, handOn_gives (pick := Request.asTrim) (u := popHead s) h rfl hw (requestTrim_badArg tk hb level _) rfl⟩

end

/-! ### The commit -/

/-- The duck groups are configured and judged again after the trims are set, and leave the buses alone. -/
theorem commitMix_buses (r : SceneRecord) (s : State) :
    (commitMix r s).mix.buses = Vector.ofFn fun b : Fin 4 => { s.mix.buses[b] with trim := r.trims[b] } := rfl

/-- What a commit does after its Mix Engine's part is run control and a busy write (R173, R174), neither in the mix. -/
theorem commitScene_mix (w : Switch) (r : SceneRecord) (rules : List Rule) (s : State) :
    (commitScene w r rules s).mix = (commitMix r (commitResolver r (commitTrigger r rules s))).mix := by
  unfold commitScene
  split
  · exact place_mix _ _
  · exact place_mix _ _

/-- A commit puts the trims of the scene in force (R163). -/
theorem commitScene_trim (w : Switch) (r : SceneRecord) (rules : List Rule) (s : State) (b : Fin 4) :
    (commitScene w r rules s).mix.buses[b].trim = r.trims[b] := by
  rw [commitScene_mix, commitMix_buses]
  simp

/-- Settles O55: the bus is tested against 4 and nothing else of the state is, and the clamp is the statement's; the
commit writes every trim from the scene record. -/
theorem trimResult : Obligations.TrimResult := by
  intro s tk rest b l h hw
  refine ⟨fun hb old new hold hnew => ?_, fun hb => trim_answers_badArg hb h hw, commitScene_trim⟩
  have clamped : new = clampLevel l := hnew
  rw [clamped, hold]
  exact trim_answers_ok hb h hw

end Sys2Proof.Machine
end

section
/-! The invariants: a property that every update of Laws/Moves.lean and the entry into SOUNDING keep is kept by every step. -/

namespace Sys2Proof.Machine

/-! ### From moves to steps -/

/-- A property that every update keeps is kept by a chain of them. -/
theorem Updates.keeps {P : State → Prop} (hm : ∀ s t, Update s t → P s → P t) {s t : State} (m : Updates s t)
    (h : P s) : P t := by
  induction m with
  | refl => exact h
  | tail _ m ih => exact hm _ _ m ih

/-- A property that every move keeps, and that does not look at the queue of commands, is kept by every step. -/
theorem step_keeps {P : State → Prop} (hm : ∀ s t, Move s t → P s → P t)
    (hp : ∀ s rest, P s → P { s with pending := rest }) {s t : State} (h : P s) (hs : step s = .next t) : P t := by
  have chain : ∀ {a b : State}, Moves a b → P a → P b := fun m ha => by
    induction m with
    | refl => exact ha
    | tail _ m ih => exact hm _ _ m ih
  unfold step at hs
  split at hs
  · cases hs; exact h
  · next c rest _ =>
    obtain ⟨u, hu, m⟩ := exec_acts c { s with pending := rest }
    cases hu.symm.trans hs
    exact chain m (hp s rest h)

/-- The same for a property that looks at neither the voices nor the start order: the updates alone need to keep it. -/
theorem step_keeps_of_updates {P : State → Prop} (hm : ∀ s t, Update s t → P s → P t)
    (hv : ∀ (s : State) x o, P s → P { s with voices := x, startOrder := o })
    (hp : ∀ s rest, P s → P { s with pending := rest }) {s t : State} (h : P s) (hs : step s = .next t) : P t := by
  refine step_keeps (fun a b m ha => ?_) hp h hs
  cases m with
  | update m => exact hm a b m ha
  | enter v x p _ _ _ =>
    exact (updates_kickOthers _ _ _).keeps hm (hv a _ _ ha)

/-! ### Show memory -/

/-- Settles O3: the one update of show memory keeps its canonical form. -/
theorem memoryStaysCanonical : Obligations.MemoryStaysCanonical := by
  intro s t
  refine step_keeps_of_updates (P := fun s => Memory.wf s.mem = true) (fun a b m ha => ?_) (fun _ _ _ => id) (fun _ _ => id)
  cases m with
  | mem m h => exact h ha
  | _ => exact ha

/-! ### The bounds -/

theorem ducksInRange_iff (s : State) : ducksInRange s ↔ offsetsFit s.mix.ducks := Iff.rfl

theorem busesInRange_iff (s : State) : busesInRange s ↔ sidesFit s.mix.buses := Iff.rfl

theorem cacheSound_iff (s : State) : cacheSound s ↔ cacheFits s.cache := Iff.rfl

/-- The bounds of the queues and of the saturating counts, block by block. -/
theorem bounded_iff (s : State) : queuesBounded s ∧ countersBounded s ↔
    s.schedule.entries.length ≤ 64 ∧ s.resolver.lines.length ≤ 16 ∧ s.trigger.queue.length ≤ 16
      ∧ reportsFit s.reports ∧ s.fault.further ≤ 255 := by
  unfold queuesBounded countersBounded reportsFit
  tauto

theorem ownersDistinct_iff (s : State) : ownersDistinct s ↔ s.slate.slots.Nodup ∧ s.resolver.leaders.Nodup := Iff.rfl

theorem update_keeps_ducksInRange {s t : State} (m : Update s t) (h : ducksInRange s) : ducksInRange t := by
  rw [ducksInRange_iff] at *
  cases m with
  | mix m hd _ => exact hd h
  | _ => exact h

theorem update_keeps_busesInRange {s t : State} (m : Update s t) (h : busesInRange s) : busesInRange t := by
  rw [busesInRange_iff] at *
  cases m with
  | mix m _ hb => exact hb h
  | _ => exact h

theorem update_keeps_bounded {s t : State} (m : Update s t) (h : queuesBounded s ∧ countersBounded s) :
    queuesBounded t ∧ countersBounded t := by
  rw [bounded_iff] at *
  obtain ⟨entries, lines, events, reports, further⟩ := h
  cases m with
  | schedule x hx => exact ⟨hx entries, lines, events, reports, further⟩
  | resolver x hx _ => exact ⟨entries, hx lines, events, reports, further⟩
  | trigger x hx => exact ⟨entries, lines, hx events, reports, further⟩
  | reports r hr => exact ⟨entries, lines, events, hr reports, further⟩
  | fault f hf => exact ⟨entries, lines, events, reports, hf further⟩
  | _ => exact ⟨entries, lines, events, reports, further⟩

theorem update_keeps_cacheSound {s t : State} (m : Update s t) (h : cacheSound s) : cacheSound t := by
  rw [cacheSound_iff] at *
  cases m with
  | cache c hc => exact hc h
  | _ => exact h

theorem update_keeps_ownersDistinct {s t : State} (m : Update s t) (h : ownersDistinct s) : ownersDistinct t := by
  rw [ownersDistinct_iff] at *
  obtain ⟨slots, leaders⟩ := h
  cases m with
  | slate x hx => exact ⟨hx slots, leaders⟩
  | resolver x _ hx => exact ⟨slots, hx leaders⟩
  | _ => exact ⟨slots, leaders⟩

/-- Settles O5: each update keeps the bounds of the one block it writes. -/
theorem boundsAreKept : Obligations.BoundsAreKept :=
  ⟨fun _ _ => step_keeps_of_updates (fun _ _ => update_keeps_ducksInRange) (fun _ _ _ => id) (fun _ _ => id),
    fun _ _ => step_keeps_of_updates (fun _ _ => update_keeps_busesInRange) (fun _ _ _ => id) (fun _ _ => id),
    fun _ _ hq hc => step_keeps_of_updates (P := fun s => queuesBounded s ∧ countersBounded s)
      (fun _ _ => update_keeps_bounded) (fun _ _ _ => id) (fun _ _ => id) ⟨hq, hc⟩,
    fun _ _ => step_keeps_of_updates (fun _ _ => update_keeps_cacheSound) (fun _ _ _ => id) (fun _ _ => id),
    fun _ _ => step_keeps_of_updates (fun _ _ => update_keeps_ownersDistinct) (fun _ _ _ => id) (fun _ _ => id)⟩

/-! ### The start order -/

/-- A voice has entered SOUNDING when a claim sounds on it. -/
theorem entered_eq (c : Content) : c.entered = c.soundingClaim.isSome := by
  cases c with
  | sounding p => cases h : p.entry <;> simp [Content.entered, Content.soundingClaim, h]
  | _ => rfl

theorem orderExact_iff (s : State) : orderExact s ↔
    s.startOrder.Nodup ∧ ∀ v : Fin 24, v ∈ s.startOrder ↔ (s.voice v).content.soundingClaim.isSome = true := by
  unfold orderExact
  simp only [entered_eq]

/-- Voices on which the same claims sound leave the start order exact. -/
theorem orderExact_of_claims {s t : State} (ho : t.startOrder = s.startOrder)
    (hc : ∀ v, (t.voice v).content.soundingClaim = (s.voice v).content.soundingClaim) (h : orderExact s) : orderExact t := by
  rw [orderExact_iff] at *
  rw [ho]
  simpa only [hc] using h

theorem update_keeps_orderExact {s t : State} (m : Update s t) (h : orderExact s) : orderExact t := by
  cases m with
  | voice v x hx =>
    refine orderExact_of_claims (s := s) rfl (fun w => ?_) h
    rw [setVoice_at]
    split
    · next e => rw [hx, e]
    · rfl
  | each x hx => exact orderExact_of_claims (s := s) rfl hx h
  | leave v x hx =>
    rw [orderExact_iff] at *
    obtain ⟨nodup, members⟩ := h
    refine ⟨nodup.erase v, fun w => ?_⟩
    show w ∈ s.startOrder.erase v ↔ _
    rw [nodup.mem_erase_iff, members, setVoice_at]
    by_cases e : w = v
    · simp [e, hx]
    · simp [e]
  | clear =>
    rw [orderExact_iff]
    refine ⟨List.nodup_nil, fun v => ?_⟩
    simp [State.voice, Voice.reset, Content.soundingClaim]
  | _ => exact h

/-- The voice that enters joins the tail of an exact start order. -/
theorem enter_orderExact {s : State} {v : Fin 24} {x : Voice} (hs : (s.voice v).content.soundingClaim = none)
    (hx : x.content.soundingClaim.isSome = true) (h : orderExact s) :
    orderExact { setVoice v x s with startOrder := s.startOrder ++ [v] } := by
  rw [orderExact_iff] at *
  obtain ⟨nodup, members⟩ := h
  have out : v ∉ s.startOrder := by simp [members, hs]
  refine ⟨List.nodup_append.mpr ⟨nodup, List.nodup_singleton v, fun a ha b hb => ?_⟩, fun w => ?_⟩
  · rw [List.mem_singleton.mp hb]
    exact fun e => out (e ▸ ha)
  · show w ∈ s.startOrder ++ [v] ↔ ((setVoice v x s).voice w).content.soundingClaim.isSome = true
    rw [List.mem_append, members, setVoice_at]
    by_cases e : w = v
    · simp [e, hx]
    · simp [e]

theorem move_keeps_orderExact {s t : State} (m : Move s t) (h : orderExact s) : orderExact t := by
  cases m with
  | update m => exact update_keeps_orderExact m h
  | enter v x p hs hx hp =>
    exact (updates_kickOthers _ _ _).keeps (fun _ _ => update_keeps_orderExact)
      (enter_orderExact hs (by rw [hx]; simp [Content.soundingClaim, hp]) h)

/-! ### The exclusive groups -/

/-- The exclusive group of the cue of a claim. -/
def Claim.group (c : Claim) : Nat := c.req.cue.sound.group

/-- At most one voice of each exclusive group, said of the claims that sound. -/
theorem groupsExclusive_iff (s : State) : groupsExclusive s ↔ ∀ v w c d,
    (s.voice v).content.soundingClaim = some c → (s.voice w).content.soundingClaim = some d →
    c.group ≠ 0 → c.group = d.group → v = w := by
  have claim_iff (x : Content) (c : Claim) :
      x.soundingClaim = some c ↔ ∃ p, x = .sounding p ∧ p.entry = none ∧ p.claim = c := by
    cases x with
    | sounding p => cases h : p.entry <;> simp [Content.soundingClaim, h]
    | _ => simp [Content.soundingClaim]
  simp only [claim_iff]
  constructor
  · rintro h v w c d ⟨p, hp, ep, rfl⟩ ⟨q, hq, eq, rfl⟩
    exact h v w p q hp hq ep eq
  · intro h v w p q hp hq ep eq
    exact h v w _ _ ⟨p, hp, ep, rfl⟩ ⟨q, hq, eq, rfl⟩

/-- No voice sounds a claim that it did not sound before, so the groups stay exclusive. -/
theorem groupsExclusive_of_claims {s t : State} (hc : ∀ v c, (t.voice v).content.soundingClaim = some c →
    (s.voice v).content.soundingClaim = some c) (h : groupsExclusive s) : groupsExclusive t := by
  rw [groupsExclusive_iff] at *
  exact fun v w c d hv hw => h v w c d (hc v c hv) (hc w d hw)

theorem update_keeps_groupsExclusive {s t : State} (m : Update s t) (h : groupsExclusive s) : groupsExclusive t := by
  cases m with
  | voice v x hx =>
    refine groupsExclusive_of_claims (fun w c hw => ?_) h
    rw [setVoice_at] at hw
    split at hw
    · next e => rw [e, ← hx, hw]
    · exact hw
  | each x hx => exact groupsExclusive_of_claims (fun w c hw => (hx w).symm.trans hw) h
  | leave v x hx =>
    refine groupsExclusive_of_claims (fun w c hw => ?_) h
    rw [setVoice_at] at hw
    split at hw
    · rw [hx] at hw; cases hw
    · exact hw
  | clear =>
    refine groupsExclusive_of_claims (fun w c hw => ?_) h
    simp [State.voice, Voice.reset, Content.soundingClaim] at hw
  | _ => exact h

/-- A kick ends the claims of the group on the voice it looks at, and no other voice's. -/
theorem soundingClaim_kick (v : Fin 24) (g : Nat) (s : State) (u w : Fin 24) :
    ((kick v g s u).voice w).content.soundingClaim =
      if w = u ∧ u ≠ v ∧ ∃ c, (s.voice u).content.soundingClaim = some c ∧ c.group = g then none
      else (s.voice w).content.soundingClaim := by
  unfold kick
  by_cases huv : u = v
  · simp [huv]
  · rw [if_neg huv]
    cases hc : (s.voice u).content with
    | sounding p =>
      by_cases hk : (p.entry.isNone && p.sound.group == g) = true
      · have hk' : p.entry.isNone = true ∧ p.claim.group = g := by simpa [Playing.sound, Claim.group] using hk
        simp only [hk, if_true, soundingClaim_releaseSounding]
        simp [huv, Content.soundingClaim, hk'.1, hk'.2]
      · have stays : ¬ ∃ c, (Content.sounding p).soundingClaim = some c ∧ c.group = g := by
          rintro ⟨c, h, rfl⟩
          refine hk ?_
          cases he : p.entry with
          | some l => simp [Content.soundingClaim, he] at h
          | none => simp_all [Content.soundingClaim, Playing.sound, Claim.group]
        simp [hk, stays]
    | _ => simp [Content.soundingClaim]

/-- After the kicks of an entry no other voice of a nonzero group sounds, and no voice sounds a claim it did not. -/
theorem soundingClaim_kickOthers {v : Fin 24} {g : Nat} (hg : g ≠ 0) (s : State) (w : Fin 24) :
    ((kickOthers v g s).voice w).content.soundingClaim =
      if w ≠ v ∧ ∃ c, (s.voice w).content.soundingClaim = some c ∧ c.group = g then none
      else (s.voice w).content.soundingClaim := by
  have fold : ∀ (l : List (Fin 24)) (t : State), ((l.foldl (kick v g) t).voice w).content.soundingClaim =
      if w ∈ l ∧ w ≠ v ∧ ∃ c, (t.voice w).content.soundingClaim = some c ∧ c.group = g then none
      else (t.voice w).content.soundingClaim := by
    intro l
    induction l with
    | nil => intro t; simp
    | cons u l ih =>
      intro t
      rw [List.foldl_cons, ih, soundingClaim_kick]
      by_cases e : w = u
      · subst e
        by_cases hk : w ≠ v ∧ ∃ c, (t.voice w).content.soundingClaim = some c ∧ c.group = g <;> simp [hk]
      · simp [e]
  unfold kickOthers
  rw [if_neg hg, fold]
  simp [allVoices]

theorem move_keeps_groupsExclusive {s t : State} (m : Move s t) (h : groupsExclusive s) : groupsExclusive t := by
  cases m with
  | update m => exact update_keeps_groupsExclusive m h
  | enter v x p hs hx hp =>
    have hv : x.content.soundingClaim = some p.claim := by rw [hx]; simp [Content.soundingClaim, hp]
    rw [groupsExclusive_iff] at *
    have after (w : Fin 24) : (({ setVoice v x s with startOrder := s.startOrder ++ [v] } : State).voice w).content.soundingClaim
        = if w = v then some p.claim else (s.voice w).content.soundingClaim := by
      show ((setVoice v x s).voice w).content.soundingClaim = _
      rw [setVoice_at]; split
      · exact hv
      · rfl
    by_cases hg : p.sound.group = 0
    · intro a b c d ha hb hc hcd
      unfold kickOthers at ha hb
      rw [if_pos hg, after] at ha hb
      have none_of : ∀ e : Claim, some p.claim = some e → e.group = 0 := fun e he => by cases he; exact hg
      split at ha
      · exact absurd (none_of c ha) hc
      · split at hb
        · exact absurd (none_of d hb) (hcd ▸ hc)
        · exact h a b c d ha hb hc hcd
    · intro a b c d ha hb hc hcd
      rw [soundingClaim_kickOthers hg, after] at ha hb
      by_cases ea : a = v <;> by_cases eb : b = v
      · rw [ea, eb]
      · simp only [ea, eb, ne_eq, not_true_eq_false, false_and, if_false, if_true, not_false_eq_true, true_and] at ha hb
        split at hb
        · cases hb
        · next hn => cases ha; exact absurd ⟨d, hb, hcd.symm⟩ hn
      · simp only [ea, eb, ne_eq, not_true_eq_false, false_and, if_false, if_true, not_false_eq_true, true_and] at ha hb
        split at ha
        · cases ha
        · next hn => cases hb; exact absurd ⟨c, ha, hcd⟩ hn
      · simp only [ea, eb, ne_eq, if_false, not_false_eq_true, true_and] at ha hb
        split at ha
        · cases ha
        · split at hb
          · cases hb
          · exact h a b c d ha hb hc hcd

/-- Settles O4: no update makes a voice sound, and the entry into SOUNDING joins the start order and kicks its group. -/
theorem orderAndGroupsStayExact : Obligations.OrderAndGroupsStayExact :=
  ⟨fun _ _ => step_keeps (fun _ _ => move_keeps_orderExact) (fun _ _ => id),
    fun _ _ => step_keeps (fun _ _ => move_keeps_groupsExclusive) (fun _ _ => id)⟩

end Sys2Proof.Machine
end

section
/-! The step itself, the state after cold reset, and the two resets (R41). -/

namespace Sys2Proof.Machine

/-! ### Every command -/

/-- No update touches the queue of commands. -/
theorem update_pending {s t : State} (m : Update s t) : t.pending = s.pending := by
  cases m <;> rfl

theorem move_pending {s t : State} (m : Move s t) : t.pending = s.pending := by
  cases m with
  | update m => exact update_pending m
  | enter v x p _ _ _ =>
    exact (updates_kickOthers _ _ _).keeps (P := fun u => u.pending = s.pending)
      (fun _ _ m h => (update_pending m).trans h) rfl

theorem moves_pending {s t : State} (m : Moves s t) : t.pending = s.pending := by
  induction m with
  | refl => rfl
  | tail _ m ih => exact (move_pending m).trans ih

/-- Settles O2: every command is a chain of moves, none of which touches the queue. -/
theorem everyCommandCompletes : Obligations.EveryCommandCompletes := by
  intro c s
  obtain ⟨t, ht, m⟩ := exec_acts c s
  exact ⟨t, ht, moves_pending m⟩

/-- Settles O1, by the two cases of the queue. -/
theorem stepTakesFrontCommand : Obligations.StepTakesFrontCommand := by
  refine ⟨fun c rest s => rfl, fun s h => ?_⟩
  unfold step
  rw [h]

/-! ### The state after cold reset -/

@[simp] theorem reset_voice (v : Fin 24) : State.reset.voice v = Voice.reset := by
  simp [State.voice, State.reset]

theorem reset_duck (g : Fin 4) : State.reset.mix.ducks[g] = Duck.reset := by
  simp [State.reset, Mix.reset]

theorem reset_bus (b : Fin 4) : State.reset.mix.buses[b] = Bus.reset := by
  simp [State.reset, Mix.reset]

theorem reset_orderExact : orderExact State.reset :=
  ⟨List.nodup_nil, fun v => by rw [reset_voice]; exact iff_of_false List.not_mem_nil Bool.false_ne_true⟩

theorem reset_groupsExclusive : groupsExclusive State.reset := by
  intro v w p q hp
  rw [reset_voice] at hp
  cases hp

theorem reset_ducksInRange : ducksInRange State.reset := by
  intro g
  rw [reset_duck]
  decide

theorem reset_busesInRange : busesInRange State.reset := by
  intro b
  rw [reset_bus]
  decide

/-- Settles O6: each property is read off the reset value of its block. -/
theorem resetHasEveryProperty : Obligations.ResetHasEveryProperty :=
  ⟨reset_mem_wf, reset_orderExact, reset_groupsExclusive, reset_ducksInRange, reset_busesInRange,
    by unfold queuesBounded; decide, by unfold countersBounded; decide,
    ⟨by decide, List.nodup_nil⟩, ⟨List.nodup_nil, List.nodup_nil⟩⟩

/-! ### The resets -/

/-- With no job waiting the arbiter has nothing to take. -/
theorem arbitrate_of_empty {s : State} (hr : s.port.refill = []) (hb : behindRefill s.port = []) : arbitrate s = s := by
  simp only [behindRefill, List.append_eq_nil_iff] at hb
  obtain ⟨⟨⟨⟨hv, hh⟩, hd⟩, hc⟩, hp⟩ := hb
  rcases s with ⟨_, _, _, _, _, _, _, _, ⟨_, _, _, _, _, _, _, _⟩⟩
  dsimp only at hr hv hh hd hc hp
  subst hr hv hh hd hc hp
  unfold arbitrate
  split <;> rfl

theorem arbitrate_doWarmReset (s : State) : arbitrate (doWarmReset s) = doWarmReset s := arbitrate_of_empty rfl rfl

theorem arbitrate_doColdReset (s : State) : arbitrate (doColdReset s) = doColdReset s := arbitrate_of_empty rfl rfl

/-- A write that failed in part leaves every address outside its range alone. -/
theorem read_writeSome_other {x : Nat} : ∀ (bs : List Byte) {m : List Host.Cell} {a : Nat} (mask : Nat),
    (x < a ∨ a + bs.length ≤ x) → Memory.read (Memory.writeSome m a bs mask) x = Memory.read m x
  | [], _, _, _, _ => rfl
  | b :: bs, m, a, mask, h => by
    simp only [List.length_cons] at h
    unfold Memory.writeSome
    rw [read_writeSome_other bs _ (by omega)]
    split
    · exact read_write_other b (by omega)
    · rfl

/-- The busy 0 writes of a start leave every address but those of the busy flags alone. -/
theorem read_clearSome_other {x base : Nat} (mask : Nat) : ∀ (l : List Nat) (m : List Host.Cell),
    (∀ i ∈ l, x ≠ base + 160 * i) →
    Memory.read (l.foldl (fun m i => if mask.testBit i then Memory.write m (base + 160 * i) 0 else m) m) x
      = Memory.read m x := by
  intro l
  induction l with
  | nil => intro m _; rfl
  | cons i l ih =>
    intro m h
    rw [List.foldl_cons, ih _ fun k hk => h k (List.mem_cons_of_mem _ hk)]
    split
    · exact read_write_other 0 (h i List.mem_cons_self)
    · rfl

/-- A job in flight at a cold reset touches show memory and the counter of free values only. -/
theorem abandonFlight_eq (s : State) :
    abandonFlight s = { s with mem := (abandonFlight s).mem, free := (abandonFlight s).free } := by
  unfold abandonFlight
  split
  · rfl
  · dsimp only
    split <;> rfl

/-- A cold reset leaves the reset state, but for show memory, the counter, and what the inputs were last seen at. -/
theorem doColdReset_eq (s : State) : doColdReset s = { State.reset with
    clock := { State.reset.clock with refSeen := s.clock.refSeen }
    trigger := { State.reset.trigger with
      lines := Vector.ofFn fun i : Fin 16 => { level := false, seen := s.trigger.lines[i].seen, count := 0, due := false }
      keys := Vector.ofFn fun i : Fin 8 => { level := false, seen := s.trigger.keys[i].seen, count := 0, due := false } }
    tally := { s.tally with latch := 0, enabled := false }
    mem := (abandonFlight s).mem, free := (abandonFlight s).free, pending := s.pending } := by
  unfold doColdReset
  rw [abandonFlight_eq]
  rfl

theorem abandonFlight_idle {s : State} (h : s.port.inFlight = none) : abandonFlight s = s := by
  unfold abandonFlight
  rw [h]

/-- A busy write and a TAKEN write in flight are written whole. -/
theorem abandonFlight_whole {s : State} {j : Job} (h : s.port.inFlight = some j)
    (hk : ∃ i, (∃ v, j.kind = .busyWrite i v) ∨ j.kind = .takenWrite i) :
    (abandonFlight s).mem = Memory.writeBytes s.mem j.address j.data := by
  unfold abandonFlight
  rw [h]
  obtain ⟨i, ⟨v, hk⟩ | hk⟩ := hk <;> simp only [hk]

theorem abandonFlight_busyClear {s : State} {j : Job} {k : Nat} (h : s.port.inFlight = some j)
    (hk : j.kind = .busyClear k) {a : Nat} (ha : ∀ i, i < k → a ≠ j.address + 160 * i) :
    Memory.read (abandonFlight s).mem a = Memory.read s.mem a := by
  unfold abandonFlight
  rw [h]
  simp only [hk]
  exact read_clearSome_other _ _ _ fun i hi => ha i (List.mem_range.mp hi)

theorem abandonFlight_other {s : State} {j : Job} (h : s.port.inFlight = some j) (hk : ∀ k, j.kind ≠ .busyClear k)
    {a : Nat} (ha : a < j.address ∨ j.address + j.data.length ≤ a) :
    Memory.read (abandonFlight s).mem a = Memory.read s.mem a := by
  unfold abandonFlight
  rw [h]
  dsimp only
  split
  · next k e => exact absurd e (hk k)
  · exact read_writeBytes_other _ ha
  · exact read_writeBytes_other _ ha
  · exact read_writeSome_other _ _ ha

/-- Settles O11: a reset leaves no job to take, so the arbiter changes nothing; what a cold reset makes of show memory is
the abandoned write's affair. -/
theorem resetsClear : Obligations.ResetsClear := by
  refine ⟨fun s => ?_, fun s => ⟨(abandonFlight s).mem, (abandonFlight s).free, ?_, fun h => ?_, fun j h => ⟨?_, ?_, ?_⟩⟩⟩
  · show Host.Outcome.next (arbitrate (doWarmReset s)) = _
    rw [arbitrate_doWarmReset]
    rfl
  · show Host.Outcome.next (arbitrate (doColdReset s)) = _
    rw [arbitrate_doColdReset, doColdReset_eq]
  · rw [abandonFlight_idle h]
    exact ⟨rfl, rfl⟩
  · exact abandonFlight_whole h
  · exact fun k hk _ a ha => abandonFlight_busyClear h hk ha
  · exact fun hk _ a ha => abandonFlight_other h hk ha

end Sys2Proof.Machine
end

section
/-! The register window (R35 to R37, R46): the two packed words bit by bit, and what each write does. -/

namespace Sys2Proof.Machine

/-! ### The control and status words -/

/-- Three bits put at bits 10:8 of a word whose other fields stand below bit 8 (R46). -/
def packed (f : BitVec 3) (low : Word) : Word := (f.setWidth 32 <<< 8) ||| low

theorem packed_toNat (f : BitVec 3) {low : Word} (h : low.toNat < 256) : (packed f low).toNat = 256 * f.toNat + low.toNat := by
  have hf := f.isLt
  have shifted : (f.setWidth 32 <<< 8).toNat = f.toNat <<< 8 := by
    rw [BitVec.toNat_shiftLeft, BitVec.toNat_setWidth, Nat.shiftLeft_eq]
    omega
  rw [packed, BitVec.toNat_or, shifted, ← Nat.shiftLeft_add_eq_or_of_lt (i := 8) (by omega), Nat.shiftLeft_eq]
  omega

theorem packed_high (f : BitVec 3) {low : Word} (h : low.toNat < 256) : BitVec.extractLsb' 8 3 (packed f low) = f := by
  have hf := f.isLt
  apply BitVec.eq_of_toNat_eq
  rw [BitVec.extractLsb'_toNat, packed_toNat f h, Nat.shiftRight_eq_div_pow]
  omega

/-- A bit of a packed word, by division. -/
theorem packed_getLsbD (f : BitVec 3) {low : Word} (h : low.toNat < 256) (i : Nat) :
    (packed f low).getLsbD i = decide ((256 * f.toNat + low.toNat) / 2 ^ i % 2 = 1) := by
  rw [BitVec.getLsbD, packed_toNat f h, Nat.testBit_eq_decide_div_mod_eq]

/-- The bits above the three are 0. -/
theorem packed_above (f : BitVec 3) {low : Word} (h : low.toNat < 256) {i : Nat} (hi : 11 ≤ i) :
    (packed f low).getLsbD i = false := by
  have hf := f.isLt
  have : 2 ^ 11 ≤ 2 ^ i := Nat.pow_le_pow_right (by decide) hi
  rw [packed_getLsbD f h, Nat.div_eq_of_lt (by omega)]
  rfl

/-- The low bits are those of the fields below bit 8. -/
theorem packed_below (f : BitVec 3) {low : Word} {i : Nat} (hi : i < 8) :
    (packed f low).getLsbD i = low.getLsbD i := by
  simp [packed, hi]

theorem control_eq (r : Registers) : r.control = packed r.enables (if r.run then 1 else 0) := rfl

theorem runBit_lt (b : Bool) : (if b then 1 else 0 : Word).toNat < 256 := by cases b <;> decide

theorem runBit_getLsbD (b : Bool) (i : Nat) : (if b then 1 else 0 : Word).getLsbD i = (b && decide (i = 0)) := by
  cases b <;> simp

theorem status_eq (r : Registers) :
    r.status = packed r.flags (BitVec.ofNat 32 (r.part.code + 16 * r.startFault.code)) := rfl

theorem part_code_le (p : PartState) : p.code ≤ 4 := by cases p <;> decide

theorem startFault_code_le (f : StartFault) : f.code ≤ 6 := by cases f <;> decide

/-- The fields below bit 8 of the status word. -/
theorem statusLow_toNat (r : Registers) :
    (BitVec.ofNat 32 (r.part.code + 16 * r.startFault.code)).toNat = r.part.code + 16 * r.startFault.code := by
  have := part_code_le r.part
  have := startFault_code_le r.startFault
  rw [BitVec.toNat_ofNat]
  omega

theorem statusLow_lt (r : Registers) : (BitVec.ofNat 32 (r.part.code + 16 * r.startFault.code)).toNat < 256 := by
  have := part_code_le r.part
  have := startFault_code_le r.startFault
  rw [statusLow_toNat]
  omega

/-- Every bit of the control word (R36, R46). -/
theorem control_layout (r : Registers) : r.control.getLsbD 0 = r.run ∧ BitVec.extractLsb' 8 3 r.control = r.enables
    ∧ ∀ i, i ≠ 0 → (i < 8 ∨ 11 ≤ i) → r.control.getLsbD i = false := by
  rw [control_eq]
  refine ⟨?_, packed_high _ (runBit_lt _), fun i h0 hi => ?_⟩
  · rw [packed_below _ (by decide), runBit_getLsbD]
    simp
  · rcases hi with hi | hi
    · rw [packed_below _ hi, runBit_getLsbD]
      simp [h0]
    · exact packed_above _ (runBit_lt _) hi

/-- Every bit of the status word (R36, R46). -/
theorem status_layout (r : Registers) : (BitVec.extractLsb' 0 3 r.status).toNat = r.part.code
    ∧ (BitVec.extractLsb' 4 4 r.status).toNat = r.startFault.code ∧ BitVec.extractLsb' 8 3 r.status = r.flags
    ∧ ∀ i, (i = 3 ∨ 11 ≤ i) → r.status.getLsbD i = false := by
  have hp := part_code_le r.part
  have hf := startFault_code_le r.startFault
  have low := statusLow_lt r
  rw [status_eq]
  refine ⟨?_, ?_, packed_high _ low, fun i hi => ?_⟩
  · rw [BitVec.extractLsb'_toNat, packed_toNat _ low, statusLow_toNat, Nat.shiftRight_eq_div_pow]
    omega
  · rw [BitVec.extractLsb'_toNat, packed_toNat _ low, statusLow_toNat, Nat.shiftRight_eq_div_pow]
    omega
  · rcases hi with rfl | hi
    · rw [packed_getLsbD _ low, statusLow_toNat, decide_eq_false_iff_not]
      omega
    · exact packed_above _ low hi

theorem irq_iff (r : Registers) :
    r.irq = true ↔ ∃ i : Fin 3, r.flags.getLsbD i = true ∧ r.enables.getLsbD i = true := by
  have all : ∀ f e : BitVec 3, ((f &&& e) != 0) = true ↔ ∃ i : Fin 3, f.getLsbD i = true ∧ e.getLsbD i = true := by decide
  exact all r.flags r.enables

/-! ### The writes -/

/-- The flags a write of the status word leaves (R36). -/
theorem clearedFlags_getLsbD (f : BitVec 3) (w : Word) (i : Fin 3) :
    (f &&& ~~~ BitVec.extractLsb' 8 3 w).getLsbD i = (f.getLsbD i && !w.getLsbD (8 + i.val)) := by
  simp

/-- The header base a write leaves (R35). -/
theorem headerBase_getLsbD (w : Word) (i : Fin 32) :
    (w &&& 0xFFFFFF00#32).getLsbD i = (w.getLsbD i && decide (8 ≤ i.val)) := by
  have mask : ∀ i : Fin 32, (0xFFFFFF00#32).getLsbD i = decide (8 ≤ i.val) := by decide
  rw [BitVec.getLsbD_and, mask]

/-- A control word with WARM clear (R36, R37). -/
theorem writeRegister_control {w : Word} (h : w.getLsbD 1 = false) (s : State) :
    writeRegister 8 w s = writeControl (w.getLsbD 0) false (BitVec.extractLsb' 8 3 w) s := by
  show writeControl _ (w.getLsbD 1) _ s = _
  rw [h]

theorem writeControl_same {run : Bool} {s : State} (h : run = s.regs.run) (e : BitVec 3) :
    writeControl run false e s = setEnables e s := by
  unfold writeControl writeRun
  exact if_pos h

/-- Settles O8: the two words are packed fields, and each write is one update of the registers, behind which only the
arbiter acts. -/
theorem registerWindow : Obligations.RegisterWindow := by
  refine ⟨fun r => ⟨rfl, rfl, ⟨_, rfl, control_layout r⟩, ⟨_, rfl, status_layout r⟩, irq_iff r⟩, fun s => ⟨?_, ?_, ?_, ?_,
    ?_, ?_, ?_, ?_⟩⟩
  · exact fun e => ⟨_, rfl, portBut_arbitrate _⟩
  · exact fun w => ⟨_, _, rfl, clearedFlags_getLsbD s.regs.flags w, portBut_arbitrate _⟩
  · exact fun w => ⟨_, rfl, portBut_arbitrate _⟩
  · exact fun w => ⟨_, _, rfl, headerBase_getLsbD w, portBut_arbitrate _⟩
  · intro w warm same
    refine ⟨_, rfl, ?_⟩
    rw [writeRegister_control warm, writeControl_same same]
    exact portBut_arbitrate _
  · intro w warm
    show answer (writeControl _ (w.getLsbD 1) _ s) = answer (doWarmReset s)
    rw [warm]
    rfl
  · intro w warm _
    show answer (writeRegister 8 w s) = _
    rw [writeRegister_control warm]
    cases w.getLsbD 0 <;> rfl
  · exact fun w => rfl

/-! ### RUN_SET -/

theorem writeControl_changed {run : Bool} {s : State} (h : s.regs.run = !run) (e : BitVec 3) :
    writeControl run false e s = if run then setRun (setEnables e s) else clearRun (setEnables e s) := by
  have differs : run ≠ (setEnables e s).regs.run := fun hr => by
    rw [show (setEnables e s).regs.run = s.regs.run from rfl, h] at hr
    cases run <;> cases hr
  unfold writeControl writeRun
  rw [if_neg Bool.false_ne_true, if_neg differs]

/-- RUN and the enables put, and nothing else. -/
def putRun (run : Bool) (e : BitVec 3) (s : State) : State := { s with regs := { s.regs with run := run, enables := e } }

theorem setEnables_eq_putRun {run : Bool} {s : State} (h : s.regs.run = run) (e : BitVec 3) :
    setEnables e s = putRun run e s := by
  subst h; rfl

/-- A control word with RUN set, in every case but that of a start. -/
theorem writeControl_set {s : State} (h : s.regs.part ≠ .stopped ∨ s.regs.run = true) (e : BitVec 3) :
    writeControl true false e s = putRun true e s := by
  cases hr : s.regs.run with
  | true => rw [writeControl_same hr.symm, setEnables_eq_putRun hr]
  | false =>
    rw [writeControl_changed hr, if_pos rfl]
    exact if_neg (h.resolve_right (by rw [hr]; decide))

/-- A control word with RUN set in STOPPED starts the part. -/
theorem writeControl_start {s : State} (hp : s.regs.part = .stopped) (hr : s.regs.run = false) (e : BitVec 3) :
    writeControl true false e s = enterStarting (putRun true e s) := by
  rw [writeControl_changed hr, if_pos rfl]
  exact if_pos hp

/-- A read of the header goes stale at no state. -/
theorem portPlus_header (a n : Nat) (s : State) :
    portPlus (readJob .header a n) s (arbitrate (place (readJob .header a n) s)) := portPlus_place _ s rfl rfl

/-- Settles O9, by whether the part is STOPPED with RUN 0. -/
theorem runSetStarts : Obligations.RunSetStarts := by
  refine fun s e => ⟨fun hp hr => ⟨_, rfl, ?_⟩, fun h => ⟨_, rfl, ?_⟩⟩
  · rw [writeControl_start hp hr]
    exact portPlus_header _ _ _
  · rw [writeControl_set h]
    exact portBut_arbitrate _

end Sys2Proof.Machine
end

section
/-! RUN_CLEAR (R37, R39): what entering STOPPING leaves of each block. -/

namespace Sys2Proof.Machine

/-! ### Entries into SOUNDING outside RUNNING -/

/-- Outside RUNNING no follow-on request is placed (R73). -/
theorem testFollow_of_not_running (v : Fin 24) {s : State} (h : isRunning s = false) : testFollow v s = s := by
  unfold testFollow followDue
  split
  · simp [h]
  · rfl

theorem isRunning_of_quiet {s t : State} (h : t.quiet = s.quiet) : isRunning t = isRunning s := by
  have part : t.regs.part = s.regs.part := congrArg Quiet.part h
  unfold isRunning
  rw [part]

theorem releaseOnly_startOrder (o : List (Fin 24)) (s : State) : releaseOnly s { s with startOrder := o } := rfl

/-- Outside RUNNING an entry into SOUNDING changes what a release can change, and nothing else. -/
theorem releaseOnly_completeEntry (v : Fin 24) {s : State} (h : isRunning s = false) : releaseOnly s (completeEntry v s) := by
  unfold completeEntry
  split
  · next p _ =>
    split
    · next l _ =>
      unfold entryEffects
      dsimp only
      rw [testFollow_of_not_running]
      · exact (releaseOnly_setVoice v _ s).trans ((releaseOnly_startOrder _ _).trans ((releaseOnly_kickOthers _ _ _).trans
          ((releaseOnly_keyDucks _ _ _).trans ((releaseOnly_emit _ _).trans (releaseOnly_emitLate _ _ _ _ _)))))
      · rw [isRunning_of_quiet (s := s), h]
        rw [quiet_emitLate, quiet_emit, quiet_keyDucks, quiet_kickOthers]
        rfl
    · rfl
  · rfl

theorem releaseOnly_completeEntries (p : Content → Bool) {s : State} (h : isRunning s = false) :
    releaseOnly s (completeEntries p s) := by
  have fold : ∀ (l : List (Fin 24)) (t : State), isRunning t = false →
      releaseOnly t (l.foldl (fun t v => if p (t.voice v).content then completeEntry v t else t) t) := by
    intro l
    induction l with
    | nil => intro t _; rfl
    | cons v l ih =>
      intro t ht
      rw [List.foldl_cons]
      split
      · exact (releaseOnly_completeEntry v ht).trans (ih _ ((isRunning_of_quiet (quiet_completeEntry v t)).trans ht))
      · exact ih t ht
  exact fold _ s h

theorem releaseOnly_releaseAll (p : Content → Bool) (r : EndReason) (f : Playing → Nat) (b : Bool) {s : State}
    (h : isRunning s = false) : releaseOnly s (releaseAll p r f b s) :=
  (releaseOnly_completeEntries p h).trans (releaseOnly_releaseAllNow p r f b _)

/-! ### The voices -/

/-- A cut leaves every voice silent within 96 samples (R94, R102). -/
theorem silentWithin_afterCut (c : Content) : (c.afterRelease .cut (fun _ => cutLength) true).silentWithin 96 := by
  have released (p : Playing) : (p.released cutLength .cut).silentWithin 96 := by
    simp [Playing.released, cutLength, Content.silentWithin, Fade.remaining]
  have shortened (p : Playing) : (p.shortened cutLength).silentWithin 96 := by
    unfold Playing.shortened
    split
    · simp [cutLength, Content.silentWithin, Fade.remaining]
    · next h => exact Nat.not_lt.mp h
  cases c with
  | sounding p => exact released p
  | releasing p => exact shortened p
  | handover p i l => exact shortened p
  | _ => exact trivial

theorem stopVoices_silent (s : State) (v : Fin 24) : ∀ c, ((stopVoices s).voice v).content = c → c.silentWithin 96 := by
  intro c hc
  unfold stopVoices releaseAll at hc
  rw [(releaseAllNow_content (fun _ => true) .cut (fun _ => cutLength) true _ (fun _ => ⟨_, rfl⟩) v).1 rfl] at hc
  generalize ((completeEntries (fun _ => true) s).voice v).content = d at hc
  subst hc
  exact silentWithin_afterCut d

/-! ### The slots -/

/-- Slots that are all given ABANDONED, one after another. -/
def abandonEach (l : List Nat) (s : State) : State := l.foldl (fun t i => giveResult i .abandoned [] t) s

theorem abandonEach_eq (l : List Nat) : ∀ s, abandonEach l s =
    { s with port := (abandonEach l s).port, slate := { s.slate with held := (abandonEach l s).slate.held } } := by
  induction l with
  | nil => intro s; rfl
  | cons i l ih =>
    intro s
    show abandonEach l (giveResult i .abandoned [] s) = { s with
      port := (abandonEach l (giveResult i .abandoned [] s)).port
      slate := { s.slate with held := (abandonEach l (giveResult i .abandoned [] s)).slate.held } }
    rw [ih, giveResult_eq]

/-- Each of the slots that waits for a result has ABANDONED. -/
theorem abandonEach_resultOf (l : List Nat) {i : Nat} (hi : i ∈ l) : ∀ {s : State}, awaiting i s →
    resultOf i (abandonEach l s) = some (.abandoned, []) := by
  have kept : ∀ (l : List Nat) (s : State), resultOf i s = some (.abandoned, []) →
      resultOf i (abandonEach l s) = some (.abandoned, []) := by
    intro l
    induction l with
    | nil => intro s h; exact h
    | cons k l ih => intro s h; exact ih _ (giveResult_resultOf_kept _ _ h)
  induction l with
  | nil => cases hi
  | cons k l ih =>
    intro s h
    by_cases e : i = k
    · subst e
      exact kept l _ (giveResult_resultOf _ _ h)
    · exact ih (List.mem_of_ne_of_mem e hi) (giveResult_awaiting_other _ _ e h)

/-! ### Entering STOPPING -/

/-- What a stop takes from the Trigger Unit, Run Control, the head cache and the Slate Unit (R39). -/
def stopUnits (s : State) : State := stopSlate (stopCache (stopSwitch (stopTrigger s)))

theorem stopUnits_eq (s : State) : stopUnits s = { s with
    trigger := { s.trigger with queue := [], queueTaken := false, holdLinks := Vector.replicate 8 none }
    run := { s.run with switch := (stopUnits s).run.switch, staging := (stopUnits s).run.staging }
    cache := (stopUnits s).cache, port := (stopUnits s).port
    slate := { s.slate with scan := none, scanWaiting := false, queue := [], mirrorWaiting := none } } := by
  unfold stopUnits stopSwitch
  split <;> rfl

/-- What comes before the voices are stopped (R39). -/
def stopIntakes (s : State) : State := stopSchedule (stopResolver (setPart .stopping s))

theorem enterStopping_eq (s : State) :
    enterStopping s = abandonEach (List.range 64) (stopUnits (stopVoices (stopIntakes s))) := rfl

theorem releaseOnly_stopIntakes (s : State) : releaseOnly (stopIntakes s) (stopVoices (stopIntakes s)) :=
  releaseOnly_releaseAll _ _ _ _ rfl

/-- The stop of the units and the results of the slots are a plain update of the state that the voices' stop leaves, but
for the port, the results and the head cache. -/
theorem abandonUnits_eq (l : List Nat) (u : State) : ∃ port held cache switch staging,
    abandonEach l (stopUnits u) = { u with
      trigger := { u.trigger with queue := [], queueTaken := false, holdLinks := Vector.replicate 8 none }
      run := { u.run with switch := switch, staging := staging }
      cache := cache, port := port
      slate := { u.slate with scan := none, scanWaiting := false, queue := [], mirrorWaiting := none, held := held } } :=
  ⟨(abandonEach l (stopUnits u)).port, (abandonEach l (stopUnits u)).slate.held, (stopUnits u).cache,
    (stopUnits u).run.switch, (stopUnits u).run.staging, (abandonEach_eq l _).trans (by rw [stopUnits_eq])⟩

/-- A slot that waits for its result has ABANDONED when STOPPING is entered (R39). -/
theorem enterStopping_resultOf {s : State} {i : Nat} (hi : i < 64) (h : awaiting i s) :
    resultOf i (enterStopping s) = some (.abandoned, []) := by
  have slate : (stopVoices (stopIntakes s)).slate = s.slate := (releaseOnly_stopIntakes s).slate
  have held : (stopUnits (stopVoices (stopIntakes s))).slate.held = s.slate.held := by rw [stopUnits_eq, slate]
  rw [enterStopping_eq]
  refine abandonEach_resultOf _ (List.mem_range.mpr hi) ?_
  unfold awaiting slotAt at *
  rw [held]
  exact h

/-- Every voice is silent within 96 samples and no work waits when STOPPING is entered (R39). -/
theorem enterStopping_silent (s : State) : silentWithin 96 (enterStopping s) := by
  have voices := stopVoices_silent (stopIntakes s)
  have stopped := releaseOnly_stopIntakes s
  rw [enterStopping_eq]
  generalize stopVoices (stopIntakes s) = u at voices stopped
  have schedule : u.schedule = Schedule.reset := stopped.schedule
  have resolver : u.resolver = { s.resolver with follows := [], lines := [], current := none } := stopped.resolver
  obtain ⟨port, held, cache, switch, staging, e⟩ := abandonUnits_eq (List.range 64) u
  rw [e]
  refine ⟨fun v => voices v _ rfl, congrArg Schedule.entries schedule, fun v => ?_, congrArg Resolver.follows resolver,
    congrArg Resolver.lines resolver, congrArg Resolver.current resolver, rfl, fun k => ?_, rfl, rfl, rfl⟩
  · show u.schedule.links[v] = none
    rw [schedule]
    simp [Schedule.reset]
  · simp

/-- A state whose voices differ in the pending refill only is silent as soon. -/
theorem portOnly.silentWithin {n : Nat} {s t : State} (h : portOnly s t) (hs : silentWithin n s) : silentWithin n t := by
  unfold Machine.silentWithin at *
  rw [h.schedule, h.resolver, h.trigger, h.slate]
  exact ⟨fun v => by rw [h.2.content]; exact hs.1 v, hs.2⟩

/-- What RUN_CLEAR is said to leave of a RUNNING state (R37, R39). -/
theorem enterStopping_leaves (s : State) : ∀ t, t = arbitrate (enterStopping s) →
    t.regs.part = .stopping ∧ t.regs.run = s.regs.run ∧ t.regs.enables = s.regs.enables
      ∧ t.regs.headerBase = s.regs.headerBase ∧ t.regs.startFault = s.regs.startFault
      ∧ silentWithin 96 t ∧ (∀ i, i < 64 → awaiting i s → resultOf i t = some (.abandoned, []))
      ∧ t.mem = s.mem ∧ t.clock = s.clock ∧ t.tally = s.tally ∧ t.resolver.vars = s.resolver.vars
      ∧ t.resolver.live = s.resolver.live ∧ t.trigger.rules = s.trigger.rules ∧ t.trigger.armed = s.trigger.armed
      ∧ t.trigger.groups = s.trigger.groups ∧ t.mix.buses = s.mix.buses ∧ t.run.hold = s.run.hold
      ∧ t.run.current = s.run.current ∧ t.slate.header = s.slate.header := by
  intro t ht
  have arbiter : portOnly (enterStopping s) t := ht ▸ portOnly_arbitrate (enterStopping s)
  have silent := arbiter.silentWithin (enterStopping_silent s)
  have results : ∀ i, i < 64 → awaiting i s → resultOf i t = some (.abandoned, []) :=
    fun i hi h => by rw [arbiter.resultOf]; exact enterStopping_resultOf hi h
  have quiet : (stopVoices (stopIntakes s)).quiet = (stopIntakes s).quiet := quiet_stopVoices _
  obtain ⟨port, held, cache, switch, staging, e⟩ := abandonUnits_eq (List.range 64) (stopVoices (stopIntakes s))
  rw [← enterStopping_eq] at e
  generalize stopVoices (stopIntakes s) = u at quiet e
  have regs : t.regs = u.regs := by rw [arbiter.regs, e]
  have mem : t.mem = u.mem := by rw [arbiter.mem, e]
  have clock : t.clock = u.clock := by rw [arbiter.clock, e]
  have tally : t.tally = u.tally := by rw [arbiter.tally, e]
  have resolver : t.resolver = u.resolver := by rw [arbiter.resolver, e]
  have rules : t.trigger.rules = u.trigger.rules := by rw [arbiter.trigger, e]
  have armed : t.trigger.armed = u.trigger.armed := by rw [arbiter.trigger, e]
  have groups : t.trigger.groups = u.trigger.groups := by rw [arbiter.trigger, e]
  have mix : t.mix = u.mix := by rw [arbiter.mix, e]
  have hold : t.run.hold = u.run.hold := by rw [arbiter.run, e]
  have current : t.run.current = u.run.current := by rw [arbiter.run, e]
  have header : t.slate.header = u.slate.header := by rw [arbiter.slate, e]
  rw [regs, mem, clock, tally, resolver, rules, armed, groups, mix, hold, current, header]
  exact ⟨congrArg Quiet.part quiet, congrArg Quiet.runBit quiet, congrArg Quiet.enables quiet,
    congrArg Quiet.headerBase quiet, congrArg Quiet.startFault quiet, silent, results, congrArg Quiet.mem quiet,
    congrArg Quiet.clock quiet, congrArg Quiet.tally quiet, congrArg Quiet.vars quiet, congrArg Quiet.live quiet,
    congrArg Quiet.rules quiet, congrArg Quiet.armed quiet, congrArg Quiet.groups quiet, congrArg Quiet.buses quiet,
    congrArg (fun q => q.run.hold) quiet, congrArg (fun q => q.run.current) quiet, congrArg Quiet.header quiet⟩

/-! ### The command -/

/-- RUN cleared, with the enables put (R37). -/
theorem clearRun_setEnables (e : BitVec 3) (s : State) : clearRun (setEnables e s) =
    match s.regs.part with
    | .running => enterStopping (putRun false e s)
    | .failed => setPart .stopped (putRun false e s)
    | _ => putRun false e s := rfl

/-- A control word with RUN clear that changes RUN of a RUNNING part. -/
theorem writeControl_stop {s : State} (hp : s.regs.part = .running) (hr : s.regs.run = true) (e : BitVec 3) :
    writeControl false false e s = enterStopping (putRun false e s) := by
  rw [writeControl_changed hr, if_neg Bool.false_ne_true, clearRun_setEnables, hp]

theorem writeControl_leaveFailed {s : State} (hp : s.regs.part = .failed) (hr : s.regs.run = true) (e : BitVec 3) :
    writeControl false false e s = setPart .stopped (putRun false e s) := by
  rw [writeControl_changed hr, if_neg Bool.false_ne_true, clearRun_setEnables, hp]

/-- In every other case a control word with RUN clear puts RUN and the enables. -/
theorem writeControl_clear {s : State} (hp : s.regs.part ≠ .running) (h : s.regs.part ≠ .failed ∨ s.regs.run = false)
    (e : BitVec 3) : writeControl false false e s = putRun false e s := by
  cases hr : s.regs.run with
  | false => rw [writeControl_same hr.symm, setEnables_eq_putRun hr]
  | true =>
    rw [writeControl_changed hr, if_neg Bool.false_ne_true, clearRun_setEnables]
    have hf : s.regs.part ≠ .failed := h.resolve_right (by rw [hr]; decide)
    split
    · next hp' => exact absurd hp' hp
    · next hf' => exact absurd hf' hf
    · rfl

/-- Settles O10, by the part state that the write finds. -/
theorem runClearStops : Obligations.RunClearStops := by
  refine fun s e => ⟨fun hp hr => ⟨_, rfl, ?_⟩, fun hp hr => ⟨_, rfl, ?_⟩, fun hp h => ⟨_, rfl, ?_⟩⟩
  · rw [writeControl_stop hp hr]
    exact enterStopping_leaves (putRun false e s) _ rfl
  · rw [writeControl_leaveFailed hp hr]
    exact portBut_arbitrate _
  · rw [writeControl_clear hp h]
    exact portBut_arbitrate _

end Sys2Proof.Machine
end

section
/-! Requests that cause no report: FIRE, PRIME and PROBE, GO, ARM RULES, DISARM RULES and REOPEN, SCENE, the LINES
requests and the sensed levels. -/

namespace Sys2Proof.Machine

/-! ### A request that places a job -/

/-- A request whose owner places a job and gives no result yet: the slot goes on waiting. -/
theorem handOn_places {α : Type} {pick : Request → Option α} {act : Taken → α → State → State} {s : State} {tk : Taken}
    {rest : List Taken} {q : Request} {a : α} (h : headRequest s = some (tk, rest, q)) (hp : pick q = some a) {k : Job}
    {u : State} (ha : act tk a (popHead s) = place k u) (hu : u.slate = (popHead s).slate)
    (hr : refillStale u k = false) (hh : headStale u k = false) :
    slatePlus tk.slot k { u with slate := s.slate } (handOn pick act s)
      ∧ (tk.slot ∉ rest.map Taken.slot → slotAt tk.slot (handOn pick act s) = slotAt tk.slot s) := by
  have queue : u.slate.queue = rest := by
    rw [hu]
    show s.slate.queue.tail = rest
    rw [headRequest_queue h]
    rfl
  have slot : ∀ k, slotAt k u = slotAt k s := by
    intro k
    unfold slotAt
    rw [hu]
    rfl
  rw [handOn_eq h hp, ha]
  refine ⟨⟨settled_slateOnly _ rfl (by rw [place_slate, hu]; rfl) (by rw [place_slate, hu]; rfl)
    (fun j _ => slot j), settled_goesOn (u := { u with slate := s.slate }) ?_ (fun _ => rfl) fun _ => .inr, ?_⟩, fun hn => ?_⟩
  · exact (portGoesOn_of_port (t := u) rfl).trans (fun _ => rfl) (portGoesOn_place k u (.inl rfl))
  · refine atPort_arbitrate (atPort_settleQueue _ (atPort_place_self k u)) ?_ ?_
    · rw [refillStale_alike (voicesAlike_of_voices (settleQueue_voices _ (place k u)))]
      exact hr
    · rw [headStale_alike (voicesAlike_of_voices (settleQueue_voices _ (place k u)))]
      exact hh
  · rw [(portOnly_arbitrate _).slotAt, settleQueue_slotAt _ _ _ (by rw [place_slate, queue]; exact hn)]
    exact slot tk.slot

/-- A request tested for a voice number. -/
theorem withVoice_of_val (t : Taken) (v : Fin 24) (act : Fin 24 → State → State) (s : State) :
    withVoice t v.val act s = act v s := dif_pos v.isLt

theorem withVoice_badArg (t : Taken) {n : Nat} (h : 24 ≤ n) (act : Fin 24 → State → State) (s : State) :
    withVoice t n act s = giveResult t.slot .badArg [] s := dif_neg (Nat.not_lt.mpr h)

/-! ### FIRE, PRIME and PROBE -/

theorem setResolution_none_of_free {s : State} (h : s.resolver.current = none) : setResolution none s = s := by
  unfold setResolution
  rw [← h]

theorem slateTurn_free {s : State} (h : slateTurn s = true) : s.resolver.current = none := by
  unfold slateTurn resolverFree at h
  simp only [Bool.and_eq_true, Option.isNone_iff_eq_none] at h
  exact h.1.1.2

/-- A null selector asserts no level (R1). -/
theorem asserted_of_null {x : Selector} (h : x.sheet = 0) : x.asserted = 0 := by
  simp [Selector.asserted, Selector.isNull, h]

theorem asserted_of_sheet {x : Selector} (h : x.sheet ≠ 0) : x.asserted = x.level.toNat := by
  have sheet : ¬ x.sheet = 0#6 := h
  simp [Selector.asserted, Selector.isNull, sheet]

section
variable {t : Taken} {purpose : Purpose} {x : Selector} {o : Int} {s : State}

/-- A slate resolution of a null selector ends at once (R12). -/
theorem takeSlate_null (h : x.sheet = 0) : takeSlate t purpose x o s =
    giveResult t.slot .nullRef (probeForm 0 0 0 0 (slotLevel t.bytes) 0 0) (setResolution none s) := by
  have null : (beginResolution .slate t.slot (slotTag t.bytes) purpose x (slotLevel t.bytes) o none).current.isNull = true := by
    simp [beginResolution, Selector.isNull, h]
  unfold takeSlate beginPass
  rw [if_pos null]
  unfold endResolution
  simp [beginResolution, probeDetail, probeForm, sheetKindCode, sheetRightsCode, cueKindCode, asserted_of_null h]

/-- A slate resolution of a sheet beyond the directory ends at once (R12). -/
theorem takeSlate_limit (h : x.sheet ≠ 0) (hd : (header s).directoryCount ≤ x.sheet.toNat) :
    takeSlate t purpose x o s =
      giveResult t.slot .limit (probeForm 0 0 0 0 (max (slotLevel t.bytes) x.level.toNat) 0 0) (setResolution none s) := by
  have null : (beginResolution .slate t.slot (slotTag t.bytes) purpose x (slotLevel t.bytes) o none).current.isNull = false := by
    have sheet : ¬ x.sheet = 0#6 := h
    simp [beginResolution, Selector.isNull, sheet]
  unfold takeSlate beginPass
  rw [null, if_neg Bool.false_ne_true]
  refine (if_pos hd).trans ?_
  unfold endResolution
  simp [beginResolution, probeDetail, probeForm, sheetKindCode, sheetRightsCode, cueKindCode, asserted_of_sheet h]

/-- Else the descriptor read is placed (R12). -/
theorem takeSlate_reads (h : x.sheet ≠ 0) (hd : x.sheet.toNat < (header s).directoryCount) :
    takeSlate t purpose x o s =
      place (readJob (.descriptor t.slot) ((header s).directory + 8 * x.sheet.toNat) 8) (setResolution (some
        { source := .slate, origin := t.slot, tag := slotTag t.bytes, purpose := purpose, entry := x, current := x
          direct := true, level := max (slotLevel t.bytes) x.level.toNat, offset := o, hops := 0, lastDescriptor := none
          lastCue := none, clipLength := 0, phase := .readingDescriptor, leader := none }) s) := by
  have null : (beginResolution .slate t.slot (slotTag t.bytes) purpose x (slotLevel t.bytes) o none).current.isNull = false := by
    have sheet : ¬ x.sheet = 0#6 := h
    simp [beginResolution, Selector.isNull, sheet]
  unfold takeSlate beginPass
  rw [null, if_neg Bool.false_ne_true]
  refine (if_neg (Nat.not_le.mpr hd)).trans ?_
  simp [beginResolution, asserted_of_sheet h]

end

/-- A FIRE, PRIME or PROBE at the head, whose command is `handOn` of `takeSlate` when the resolver's turn has come. -/
theorem slateTaken {α : Type} {pick : Request → Option α} {act : Taken → α → State → State} {c : Instr} {s : State}
    {tk : Taken} {rest : List Taken} {q : Request} {a : α} {x : Selector} {o : Int} {purpose : Purpose}
    (hc : exec c s = .next (if slateTurn s then handOn pick act s else s))
    (ha : ∀ u, act tk a u = takeSlate tk purpose x (clampOffset o) u) (hp : pick q = some a)
    (h : headRequest s = some (tk, rest, q)) :
    (slateTurn s = true →
      (x.sheet ≠ 0 → x.sheet.toNat < (header s).directoryCount → ∃ t, exec c s = .next t
        ∧ slatePlus tk.slot (readJob (.descriptor tk.slot) ((header s).directory + 8 * x.sheet.toNat) 8)
          { s with resolver := { s.resolver with
            current := some
              { source := .slate, origin := tk.slot, tag := slotTag tk.bytes, purpose := purpose, entry := x, current := x
                direct := true, level := max (slotLevel tk.bytes) x.level.toNat, offset := max (-64) (min 16 o), hops := 0
                lastDescriptor := none, lastCue := none, clipLength := 0, phase := .readingDescriptor, leader := none } } } t)
      ∧ (x.sheet = 0 → awaiting tk.slot s →
          Answers c s tk.slot .nullRef (probeForm 0 0 0 0 (slotLevel tk.bytes) 0 0) s)
      ∧ (x.sheet ≠ 0 → (header s).directoryCount ≤ x.sheet.toNat → awaiting tk.slot s →
          Answers c s tk.slot .limit (probeForm 0 0 0 0 (max (slotLevel tk.bytes) x.level.toNat) 0 0) s))
    ∧ (slateTurn s = false → exec c s = .next s) := by
  refine ⟨fun turn => ?_, fun turn => by rw [hc, turn]; rfl⟩
  rw [turn, if_pos rfl] at hc
  have free : setResolution none (popHead s) = popHead s := setResolution_none_of_free (s := popHead s) (slateTurn_free turn)
  refine ⟨fun hx hd => ⟨_, hc, ?_⟩, fun hx hw => ⟨_, hc, ?_⟩, fun hx hd hw => ⟨_, hc, ?_⟩⟩
  · exact (handOn_places h hp ((ha _).trans (takeSlate_reads hx hd)) rfl rfl rfl).1
  · exact handOn_gives (u := popHead s) h hp hw ((ha _).trans ((takeSlate_null hx).trans (congrArg _ free))) rfl
  · exact handOn_gives (u := popHead s) h hp hw ((ha _).trans ((takeSlate_limit (s := popHead s) hx hd).trans (congrArg _ free))) rfl

/-- Settles O45, one command after the other. -/
theorem resolutionsBegin : Obligations.ResolutionsBegin := by
  rintro s tk rest q x o purpose c h (⟨rfl, ⟨start, rfl, rfl⟩⟩ | ⟨rfl, rfl, rfl⟩ | ⟨rfl, rfl, rfl, rfl⟩)
  · exact slateTaken (pick := Request.asFire) rfl (fun _ => rfl) rfl h
  · exact slateTaken (pick := Request.asPrime) rfl (fun _ => rfl) rfl h
  · exact slateTaken (pick := Request.asProbe) rfl (fun _ => rfl) rfl h

/-! ### GO -/

section
variable {t : Taken} {v : Fin 24} {s : State}

theorem goVoice_held {frame : Bool} (h : s.run.hold ≠ .none) :
    goVoice t frame v s = giveResult t.slot .held (goDetail v s) s := by
  unfold goVoice
  exact if_pos h

theorem goVoice_armed {frame : Bool} {i : Incoming} (h : s.run.hold = .none) (hc : (s.voice v).content = .armed i) :
    goVoice t frame v s = giveResult t.slot .ok (goDetail v s)
      (if frame then arm v (i.go frame) s else enterSounding v (i.go frame) true none s) := by
  unfold goVoice
  simp only [h, hc, ne_eq, not_true_eq_false, if_false]

theorem goVoice_priming {frame : Bool} {i : Incoming} (h : s.run.hold = .none) (hc : (s.voice v).content = .priming i) :
    goVoice t frame v s = giveResult t.slot .ok (goDetail v s) (setContent v (.priming (i.go frame)) s) := by
  unfold goVoice
  simp only [h, hc, ne_eq, not_true_eq_false, if_false]

theorem goVoice_badState {frame : Bool} (h : s.run.hold = .none) (ha : ∀ i, (s.voice v).content ≠ .armed i)
    (hp : ∀ i, (s.voice v).content ≠ .priming i) :
    goVoice t frame v s = giveResult t.slot .badState (goDetail v s) s := by
  unfold goVoice
  simp only [h, ne_eq, not_true_eq_false, if_false]

end

/-- Settles O46: the hold is tested, then the state of the voice. -/
theorem goStarts : Obligations.GoStarts := by
  intro s tk rest n frame h hw
  refine ⟨fun hn => ⟨_, rfl, handOn_gives (pick := Request.asGo) (u := popHead s) h rfl hw (withVoice_badArg tk hn _ _) rfl⟩,
    ?_⟩
  rintro v d rfl rfl
  have gives : ∀ {r : ResultCode} {u : State}, goVoice tk frame v (popHead s) = giveResult tk.slot r (goDetail v s) u →
      u.slate = (popHead s).slate → Answers .go s tk.slot r (goDetail v s) { u with slate := s.slate } := fun ha hu =>
    ⟨_, rfl, handOn_gives (pick := Request.asGo) h rfl hw ((withVoice_of_val tk v _ _).trans ha) hu⟩
  refine ⟨fun hh => gives (u := popHead s) (goVoice_held hh) rfl, fun hh => ⟨fun i hi hf => ?_, fun i hi hf => ?_,
    fun i hi => ?_, fun ha hp => gives (u := popHead s) (goVoice_badState hh ha hp) rfl⟩⟩
  · subst hf
    exact gives (goVoice_armed (s := popHead s) hh hi) rfl
  · subst hf
    exact gives (goVoice_armed (s := popHead s) hh hi) rfl
  · exact gives (goVoice_priming (s := popHead s) hh hi) rfl

end Sys2Proof.Machine
end

section
/-! More requests that cause no report: ARM RULES, DISARM RULES and REOPEN, SCENE, LINES WRITE and LINES MODIFY. -/

namespace Sys2Proof.Machine

/-! ### ARM RULES, DISARM RULES and REOPEN -/

/-- The flags of the rules the store holds are the bits below its count. -/
theorem ruleFlags_getLsbD (s : State) (i : Fin 64) :
    (ruleFlags s).getLsbD i = decide (i.val < s.trigger.rules.length) := by
  unfold ruleFlags
  rw [BitVec.getLsbD_ofNat, Nat.testBit_two_pow_sub_one]
  simp

/-- The armed flags and those shown in the detail, of a request that puts the flags `armed`. -/
theorem armResult_answers {c : Instr} {s : State} {tk : Taken} (armed : BitVec 64)
    (h : ∃ t, exec c s = .next t ∧ resultOf tk.slot t = some (.ok, toBytes 8 (armed &&& ruleFlags s).toNat)
      ∧ slateBut tk.slot { s with trigger := { s.trigger with armed := armed } } t) :
    ∃ shown : BitVec 64,
      (∀ i : Fin 64, shown.getLsbD i = (armed.getLsbD i && decide (i.val < s.trigger.rules.length)))
      ∧ Answers c s tk.slot .ok (toBytes 8 shown.toNat) { s with trigger := { s.trigger with armed := armed } } := by
  refine ⟨armed &&& ruleFlags s, fun i => ?_, h⟩
  rw [BitVec.getLsbD_and, ruleFlags_getLsbD]

theorem getLsbD_armed (s : State) (mask : BitVec 64) (i : Fin 64) :
    (s.trigger.armed ||| (mask &&& ruleFlags s)).getLsbD i =
      if mask.getLsbD i = true ∧ i.val < s.trigger.rules.length then true else s.trigger.armed.getLsbD i := by
  rw [BitVec.getLsbD_or, BitVec.getLsbD_and, ruleFlags_getLsbD]
  by_cases hm : mask.getLsbD i = true <;> by_cases hl : i.val < s.trigger.rules.length <;>
    simp only [hm, hl] <;> simp

theorem getLsbD_disarmed (s : State) (mask : BitVec 64) (i : Fin 64) :
    (s.trigger.armed &&& ~~~ (mask &&& ruleFlags s)).getLsbD i =
      if mask.getLsbD i = true ∧ i.val < s.trigger.rules.length then false else s.trigger.armed.getLsbD i := by
  rw [BitVec.getLsbD_and, BitVec.getLsbD_not, BitVec.getLsbD_and, ruleFlags_getLsbD]
  by_cases hm : mask.getLsbD i = true <;> by_cases hl : i.val < s.trigger.rules.length <;>
    simp only [hm, hl] <;> simp

theorem closedMask_getLsbD (mask : BitVec 8) (s : State) (g : Fin 8) :
    (closedMask mask s).getLsbD g = (mask.getLsbD g && (s.trigger.groups[g]).isSome) := by
  unfold closedMask
  rw [BitVec.getLsbD_and]
  simp

/-- The digits of a number written out in base 16, lowest first. -/
theorem digit_foldr {α : Type} {f : α → Nat} (hf : ∀ a, f a < 16) : ∀ (l : List α) (k : Nat) (a : α), l[k]? = some a →
    (l.foldr (fun a n => 16 * n + f a) 0) / 16 ^ k % 16 = f a
  | [], _, _, h => by cases h
  | b :: l, 0, a, h => by
    cases h
    have := hf b
    rw [List.foldr_cons, pow_zero, Nat.div_one]
    omega
  | b :: l, k + 1, a, h => by
    have rest := digit_foldr hf l k a h
    have := hf b
    rw [List.foldr_cons, Nat.pow_succ', ← Nat.div_div_eq_div_mul, show ∀ x, (16 * x + f b) / 16 = x by omega]
    exact rest

theorem winnerLines_digit (mask : BitVec 8) (s : State) (g : Fin 8) :
    winnerLines mask s / 16 ^ g.val % 16 = match s.trigger.groups[g] with
      | some w => if mask.getLsbD g then w.line.val else 0
      | none => 0 := by
  refine digit_foldr (f := fun g : Fin 8 => match s.trigger.groups[g] with
    | some w => if mask.getLsbD g.val then w.line.val else 0
    | none => 0) (fun g => ?_) (List.finRange 8) g.val g ?_
  · split
    · split <;> omega
    · omega
  · simp

/-- Settles O53: the masks bit by bit, the winner lines digit by digit. -/
theorem armAndReopen : Obligations.ArmAndReopen := by
  intro s tk rest hw
  refine ⟨?_, fun mask h => ⟨closedMask mask s, winnerLines mask s, (reopenGroups mask s).trigger.groups, fun g => ?_,
    closedMask_getLsbD mask s, winnerLines_digit mask s, _, rfl,
    handOn_gives (pick := Request.asReopen) h rfl hw (u := reopenGroups mask (popHead s)) rfl rfl⟩⟩
  · rintro mask c set (⟨rfl, rfl, h⟩ | ⟨rfl, rfl, h⟩)
    · exact ⟨_, (armResult_answers (s.trigger.armed ||| (mask &&& ruleFlags s)) ⟨_, rfl,
        handOn_gives (pick := Request.asArmRules) h rfl hw (u := setTrigger _ (popHead s)) rfl rfl⟩).imp
        fun _ ⟨shown, answers⟩ => ⟨getLsbD_armed s mask, shown, answers⟩⟩
    · exact ⟨_, (armResult_answers (s.trigger.armed &&& ~~~ (mask &&& ruleFlags s)) ⟨_, rfl,
        handOn_gives (pick := Request.asDisarmRules) h rfl hw (u := setTrigger _ (popHead s)) rfl rfl⟩).imp
        fun _ ⟨shown, answers⟩ => ⟨getLsbD_disarmed s mask, shown, answers⟩⟩
  · simp [reopenGroups, setTrigger]

/-! ### SCENE -/

section
variable {t : Taken} {i : Nat} {s : State}

theorem requestScene_busy (h : s.run.switch ≠ none) : requestScene t i s = giveResult t.slot .busy [] s :=
  if_pos (Option.isSome_iff_ne_none.mpr h)

theorem requestScene_limit (h : s.run.switch = none) (hi : (header s).sceneCount ≤ i) :
    requestScene t i s = giveResult t.slot .limit [] s := by
  unfold requestScene
  rw [h, Option.isSome_none, if_neg Bool.false_ne_true, if_pos hi]

theorem requestScene_reads (h : s.run.switch = none) (hi : i < (header s).sceneCount) :
    requestScene t i s = beginSwitch { target := i, previous := s.run.current, slot := some t.slot, tag := slotTag t.bytes
                                       phase := .loading, rules := 0 } s := by
  unfold requestScene
  rw [h, Option.isSome_none, if_neg Bool.false_ne_true, if_neg (Nat.not_le.mpr hi)]

end

/-- A request that only places a read leaves its slot waiting, where no other request of the slot is queued. -/
theorem awaiting_of_slotAt {i : Nat} {s t : State} (h : slotAt i t = slotAt i s) (hw : awaiting i s) : awaiting i t := by
  unfold awaiting
  rw [h]
  exact hw

/-- Settles O57: the two refusals, then the read of the scene record. -/
theorem sceneJudged : Obligations.SceneJudged := by
  intro s tk rest i h hw
  have hand : ∀ {r : ResultCode}, requestScene tk i (popHead s) = giveResult tk.slot r [] (popHead s) →
      Answers .scene s tk.slot r [] s := fun ha =>
    ⟨_, rfl, handOn_gives (pick := Request.asScene) (u := popHead s) h rfl hw ha rfl⟩
  refine ⟨fun hs => hand (requestScene_busy hs), fun hs hi => hand (requestScene_limit hs hi), fun hs hi => ?_⟩
  obtain ⟨plus, slot⟩ := handOn_places (pick := Request.asScene) h rfl (requestScene_reads hs hi) rfl rfl rfl
  exact ⟨_, rfl, fun hn => awaiting_of_slotAt (slot hn) hw, plus⟩

/-! ### LINES WRITE and LINES MODIFY -/

theorem mem_voices {x : Voice} {s : State} : x ∈ s.voices.toList ↔ ∃ v, s.voice v = x := by
  rw [Vector.mem_toList_iff, Vector.mem_iff_getElem]
  exact ⟨fun ⟨i, h, e⟩ => ⟨⟨i, h⟩, e⟩, fun ⟨v, e⟩ => ⟨v.val, v.isLt, e⟩⟩

/-- A bit of the lines that a list of voices demands. -/
theorem getLsbD_foldl_demand (i : Nat) (l : List Voice) : ∀ m : BitVec 16,
    (l.foldl (fun m x => m ||| tallyDemand x) m).getLsbD i = (m.getLsbD i || l.any fun x => (tallyDemand x).getLsbD i) := by
  induction l with
  | nil => intro m; simp
  | cons x l ih => intro m; rw [List.foldl_cons, ih, BitVec.getLsbD_or, List.any_cons, Bool.or_assoc]

theorem getLsbD_tallyDemand (i : Fin 16) (x : Voice) :
    (tallyDemand x).getLsbD i = true ↔ ∃ p, x.content = .sounding p ∧ p.entry = none ∧ p.sound.tally = some i := by
  unfold tallyDemand
  cases hx : x.content with
  | sounding p =>
    cases he : p.entry with
    | some e => simp [he]
    | none =>
      cases ht : p.sound.tally with
      | none => simp [he, ht]
      | some n =>
        simp [he, ht]
        omega
  | idle => simp
  | priming q => simp
  | armed q => simp
  | releasing q => simp
  | handover p q b => simp

theorem getLsbD_tallyDemands (i : Fin 16) (s : State) : (tallyDemands s).getLsbD i = true ↔
    ∃ v p, (s.voice v).content = .sounding p ∧ p.entry = none ∧ p.sound.tally = some i := by
  unfold tallyDemands
  rw [getLsbD_foldl_demand, show (0 : BitVec 16).getLsbD i = false from BitVec.getLsbD_zero, Bool.false_or,
    List.any_eq_true]
  constructor
  · rintro ⟨x, hx, bit⟩
    obtain ⟨v, rfl⟩ := mem_voices.mp hx
    exact ⟨v, (getLsbD_tallyDemand i _).mp bit⟩
  · rintro ⟨v, p, demands⟩
    exact ⟨s.voice v, mem_voices.mpr ⟨v, rfl⟩, (getLsbD_tallyDemand i _).mpr ⟨p, demands⟩⟩

/-- Settles O58: the masks bit by bit, the sensed levels from the demands of the voices. -/
theorem linesResults : Obligations.LinesResults := by
  refine ⟨fun s tk rest mask values h hw => ⟨_, fun i => ?_, _, rfl,
      handOn_gives (pick := Request.asLinesWrite) h rfl hw (u := { popHead s with tally := _ }) rfl rfl⟩, fun s i => ?_,
    fun s tk rest set clear h hw => ⟨_, fun i => ?_, _, rfl,
      handOn_gives (pick := Request.asLinesModify) h rfl hw (u := { popHead s with tally := _ }) rfl rfl⟩⟩
  · show ((s.tally.latch &&& ~~~ mask) ||| (values &&& mask)).getLsbD i = _
    by_cases hm : mask.getLsbD i = true <;> simp only [BitVec.getLsbD_or, BitVec.getLsbD_and, BitVec.getLsbD_not, hm] <;> simp
  · unfold sensed tallyDriven
    rw [BitVec.getLsbD_or]
    cases he : s.tally.enabled with
    | false => simp
    | true =>
      rw [if_pos rfl, BitVec.getLsbD_or, Bool.or_eq_true, Bool.or_eq_true, getLsbD_tallyDemands]
      simp only [true_and]
  · show ((sensed s ||| set) &&& ~~~ clear).getLsbD i = _
    simp only [BitVec.getLsbD_or, BitVec.getLsbD_and, BitVec.getLsbD_not, i.isLt, decide_true, Bool.true_and]
    rw [Bool.or_comm, Bool.and_comm]

end Sys2Proof.Machine
end

section
/-! PIN and UNPIN (R148, R149): their judgements, from the entry of the head cache with the clip address. -/

namespace Sys2Proof.Machine

/-! ### The entry with an address -/

theorem cacheEntry_of_mem {s : State} (hs : cacheSound s) {x : CacheEntry} (hx : x ∈ s.cache) :
    cacheEntry x.address s = some x := by
  unfold cacheEntry
  cases found : s.cache.find? fun e => e.address == x.address with
  | none => exact absurd (List.find?_eq_none.mp found x hx) (by simp)
  | some y =>
    have same : y.address = x.address := by simpa using List.find?_some found
    rw [List.inj_on_of_nodup_map hs.2 (List.mem_of_find?_eq_some found) hx same]

theorem cacheEntry_of_absent {a : Word} {s : State} (h : ∀ x ∈ s.cache, x.address ≠ a) : cacheEntry a s = none :=
  List.find?_eq_none.mpr fun x hx => by simpa using h x hx

/-! ### PIN -/

section
variable {t : Taken} {a : Word} {f : ClipFormat} {s : State} {x : CacheEntry}

theorem requestPin_badArg (h : a.toNat % 4 ≠ 0) : requestPin t (a, f) s = giveResult t.slot .badArg [] s := if_pos h

theorem requestPin_present (h : a.toNat % 4 = 0) (hx : cacheEntry a s = some x) : requestPin t (a, f) s =
    if x.state.dropping then giveResult t.slot .busy [] s
    else giveResult t.slot .already ([0] ++ toBytes 1 x.format.code ++ toBytes 1 x.state.code) s := by
  unfold requestPin
  rw [if_neg (by simpa using h)]
  simp only [hx]

theorem requestPin_absent (h : a.toNat % 4 = 0) (hx : cacheEntry a s = none) : requestPin t (a, f) s =
    if 16 ≤ s.cache.length then giveResult t.slot .cacheFull (toBytes 1 16) s else placePin t a f s := by
  unfold requestPin
  rw [if_neg (by simpa using h)]
  simp only [hx]

/-- The answers of PIN, from what its owner does. -/
theorem pin_answers {tk : Taken} {rest : List Taken} {r : ResultCode} {d : List Byte}
    (h : headRequest s = some (tk, rest, .pin a f)) (hw : awaiting tk.slot s)
    (ha : requestPin tk (a, f) (popHead s) = giveResult tk.slot r d (popHead s)) : Answers .pin s tk.slot r d s :=
  ⟨_, rfl, handOn_gives (pick := Request.asPin) (u := popHead s) h rfl hw ha rfl⟩

/-! ### UNPIN -/

theorem requestUnpin_absent (hx : cacheEntry a s = none) : requestUnpin t (a, f) s = giveResult t.slot .badArg [] s := by
  unfold requestUnpin
  simp only [hx]

theorem requestUnpin_present {fs : List Frame} (hx : cacheEntry a s = some x) (hs : x.state = .present fs) :
    requestUnpin t (a, f) s = giveResult t.slot .ok [0, 0, 1] (dropEntry x.address s) := by
  unfold requestUnpin
  simp only [hx, hs]
  rfl

theorem requestUnpin_dropping {o : Nat} (hx : cacheEntry a s = some x) (hs : x.state = .pending o true) :
    requestUnpin t (a, f) s = giveResult t.slot .already [] s := by
  unfold requestUnpin
  simp only [hx, hs]
  rfl

/-- UNPIN of an entry whose job is in flight: it goes when the job ends (R149). -/
theorem requestUnpin_inFlight {o : Nat} (hx : cacheEntry a s = some x) (hs : x.state = .pending o false)
    (hj : pinInFlight o s = true) :
    requestUnpin t (a, f) s = giveResult t.slot .ok [0, 0, 0] (setEntry x.address (.pending o true) s) := by
  unfold requestUnpin
  simp only [hx, hs]
  rw [if_neg Bool.false_ne_true, unpinPending, if_pos hj, hs]
  rfl

/-- Remove the queued PIN job of a slot. -/
def unqueuePin (o : Nat) (s : State) : State :=
  { s with port := { s.port with pin := s.port.pin.filter fun j => j.kind != .pin o } }

/-- UNPIN of an entry whose job is queued: job and entry go, and the PIN's slot is ABANDONED (R149). -/
theorem requestUnpin_queued {o : Nat} (hx : cacheEntry a s = some x) (hs : x.state = .pending o false)
    (hj : pinInFlight o s = false) : requestUnpin t (a, f) s =
      giveResult t.slot .ok [0, 0, 0] (giveResult o .abandoned [] (dropEntry x.address (unqueuePin o s))) := by
  unfold requestUnpin
  simp only [hx, hs]
  rw [if_neg Bool.false_ne_true, unpinPending, hj, if_neg Bool.false_ne_true, hs]
  rfl

/-- The answers of UNPIN, from what its owner does. -/
theorem unpin_answers {tk : Taken} {rest : List Taken} {r : ResultCode} {d : List Byte} {u : State}
    (h : headRequest s = some (tk, rest, .unpin a f)) (hw : awaiting tk.slot s)
    (ha : requestUnpin tk (a, f) (popHead s) = giveResult tk.slot r d u) (hu : u.slate = (popHead s).slate) :
    Answers .unpin s tk.slot r d { u with slate := s.slate } :=
  ⟨_, rfl, handOn_gives (pick := Request.asUnpin) h rfl hw ha hu⟩

end

theorem slateOnly.cache {i : Nat} {u t : State} (h : slateOnly i u t) : t.cache = u.cache := by
  have frame := congrArg State.cache h.1
  exact frame

/-- The entries after one has been marked: that one marked, the others as they were. -/
theorem setEntry_cache {s : State} (hs : cacheSound s) {x : CacheEntry} (hx : x ∈ s.cache) (c : CacheState) :
    { x with state := c } ∈ (setEntry x.address c s).cache
      ∧ (∀ y ∈ s.cache, y ≠ x → y ∈ (setEntry x.address c s).cache)
      ∧ (setEntry x.address c s).cache.length = s.cache.length := by
  refine ⟨List.mem_map.mpr ⟨x, hx, if_pos rfl⟩, fun y hy hne => List.mem_map.mpr ⟨y, hy, if_neg fun same => hne ?_⟩,
    List.length_map _⟩
  exact List.inj_on_of_nodup_map hs.2 hy hx same

/-- No PIN job of a slot is left that is removed from the queue: the jobs placed since are completion writes. -/
theorem pin_gone {o : Nat} {s t : State} (h : portGoesOn (fun j => j.kind.completes) (unqueuePin o s) t) :
    ∀ j ∈ t.port.pin, j.kind ≠ .pin o := by
  obtain ⟨-, -, -, -, queues⟩ := h
  obtain ⟨added, completes, sub⟩ := queues .pin
  intro j hj hk
  have kept : j ∈ (t.port.queue .pin).filter fun j => !j.kind.replaceable :=
    List.mem_filter.mpr ⟨hj, by rw [hk]; rfl⟩
  rcases List.mem_append.mp (sub.mem kept) with old | new
  · have := (List.mem_filter.mp (List.mem_filter.mp old).1).2
    simp [hk] at this
  · have completed : j.kind.completes := completes j new
    rw [hk] at completed
    exact completed

/-- UNPIN of an entry whose job is queued: what is left of the port's PIN queue, the two slots and the rest. -/
theorem unpin_queued {s : State} {tk : Taken} {rest : List Taken} {a : Word} {f : ClipFormat} {x : CacheEntry} {o : Nat}
    (h : headRequest s = some (tk, rest, .unpin a f)) (hw : awaiting tk.slot s) (hx : cacheEntry a s = some x)
    (ha : x.address = a) (hs : x.state = .pending o false) (hj : pinInFlight o s = false) (ho : o ≠ tk.slot) :
    ∃ t, exec .unpin s = .next t
      ∧ resultOf tk.slot t = some (.ok, [0, 0, 0]) ∧ (awaiting o s → resultOf o t = some (.abandoned, []))
      ∧ t.cache = s.cache.filter (fun y => y.address != a) ∧ (∀ j ∈ t.port.pin, j.kind ≠ .pin o)
      ∧ { t with port := s.port, voices := s.voices, slate := s.slate, cache := s.cache } = s ∧ voicesAlike s t := by
  have acts := requestUnpin_queued (t := tk) (f := f) (s := popHead s) hx hs hj
  rw [ha] at acts
  refine ⟨_, rfl, ?_⟩
  rw [handOn_eq (pick := Request.asUnpin) h rfl, acts]
  generalize hb : dropEntry a (unqueuePin o (popHead s)) = b
  generalize hu : giveResult o .abandoned [] b = u
  generalize hv : giveResult tk.slot .ok [0, 0, 0] u = v
  have slots : ∀ k, slotAt k b = slotAt k s := fun k => by rw [← hb]; rfl
  have pure : { b with port := s.port, slate := s.slate, cache := s.cache } = s := by rw [← hb]; rfl
  have hbv : b.voices = s.voices := by rw [← hb]; rfl
  have huv : u.voices = b.voices := by rw [← hu, giveResult_voices]
  have hvv : v.voices = u.voices := by rw [← hv, giveResult_voices]
  have hqv := settleQueue_voices v.slate.queue v
  have port := portOnly_arbitrate (settleQueue v.slate.queue v)
  refine ⟨?_, fun wo => ?_, ?_, ?_, ?_, ?_⟩
  · rw [port.resultOf]
    refine settleQueue_resultOf _ _ _ _ ?_
    rw [← hv, ← hu]
    exact giveResult_resultOf _ _ (giveResult_awaiting_other _ _ ho.symm (awaiting_of_slotAt (slots _) hw))
  · rw [port.resultOf]
    refine settleQueue_resultOf _ _ _ _ ?_
    rw [← hv, ← hu]
    exact giveResult_resultOf_kept _ _ (giveResult_resultOf _ _ (awaiting_of_slotAt (slots _) wo))
  · rw [port.cache, settleQueue_cache, ← hv, giveResult_cache, ← hu, giveResult_cache, ← hb]
    rfl
  · refine pin_gone (s := popHead s) (settled_goesOn ?_ ?_ fun _ => id)
    · refine (portGoesOn_of_port (t := b) (by rw [← hb]; rfl)).trans (voicesAlike_of_voices hbv) ?_
      rw [← hv, ← hu]
      exact (portGoesOn_giveResult _ _ _ _ fun _ => id).trans (voicesAlike_of_voices (giveResult_voices _ _ _ _))
        (portGoesOn_giveResult _ _ _ _ fun _ => id)
    · exact voicesAlike_of_voices (hvv.trans (huv.trans hbv))
  · let frame : State → State := fun x =>
      { x with port := s.port, voices := s.voices, slate := s.slate, cache := s.cache }
    calc frame (arbitrate (settleQueue v.slate.queue v)) = frame (settleQueue v.slate.queue v) := by
          have := congrArg frame port.1; exact this
      _ = frame v := by have := congrArg frame (settleQueue_eq v.slate.queue v); exact this
      _ = frame u := by have := congrArg frame (giveResult_eq tk.slot .ok [0, 0, 0] u); rw [hv] at this; exact this
      _ = frame b := by have := congrArg frame (giveResult_eq o .abandoned [] b); rw [hu] at this; exact this
      _ = s := by have := congrArg frame pure; exact this
  · exact (voicesAlike_of_voices (hqv.trans (hvv.trans (huv.trans hbv)))).trans port.2

/-- Settles O54: the entry with the address decides. -/
theorem pinAndUnpinJudged : Obligations.PinAndUnpinJudged := by
  intro s tk rest a f hw hs
  refine ⟨fun h => ⟨fun odd => pin_answers h hw (requestPin_badArg odd), fun even x hx ha => ?_, fun even none => ?_⟩,
    fun h => ⟨fun none => ?_, fun x hx ha => ?_⟩⟩
  · have found := requestPin_present (t := tk) (f := f) (s := popHead s) even (ha ▸ cacheEntry_of_mem hs hx)
    refine ⟨fun o state => ?_, fun o state => ?_, fun fs state => ?_⟩ <;> rw [state] at found
    · exact pin_answers h hw found
    · exact pin_answers h hw found
    · exact pin_answers h hw found
  · have absent := requestPin_absent (t := tk) (f := f) (s := popHead s) even (cacheEntry_of_absent none)
    refine ⟨fun full => pin_answers h hw (absent.trans (if_pos full.ge)), fun room => ?_⟩
    obtain ⟨plus, slot⟩ := handOn_places (pick := Request.asPin) (act := requestPin) h rfl
      (absent.trans (if_neg (Nat.not_le.mpr room))) rfl rfl rfl
    exact ⟨_, rfl, fun hn => awaiting_of_slotAt (slot hn) hw, plus⟩
  · exact unpin_answers (u := popHead s) h hw (requestUnpin_absent (s := popHead s) (cacheEntry_of_absent none)) rfl
  · have found : cacheEntry a (popHead s) = some x := ha ▸ cacheEntry_of_mem hs hx
    subst ha
    refine ⟨fun fs state => ?_, fun o state => ?_, fun o state flight => ?_, fun o state queued other => ?_⟩
    · exact unpin_answers h hw (u := dropEntry _ (popHead s)) (requestUnpin_present found state) rfl
    · exact unpin_answers (u := popHead s) h hw (requestUnpin_dropping found state) rfl
    · obtain ⟨t, e, result, but⟩ := unpin_answers h hw (u := setEntry _ _ (popHead s))
        (requestUnpin_inFlight found state flight) rfl
      have cache : t.cache = (setEntry x.address (.pending o true) s).cache := but.1.cache
      obtain ⟨marked, others, count⟩ := setEntry_cache hs hx (.pending o true)
      refine ⟨t, e, result, ?_, ?_, ?_, ?_⟩
      · rw [cache]; exact marked
      · rw [cache]; exact others
      · rw [cache]; exact count
      · rw [cache]; exact but
    · exact unpin_queued h hw found rfl state queued other

end Sys2Proof.Machine
end

section
/-! SUPPORT. Reports at the port (R179, R180): how the Report Unit and Fault Capture leave the port, and that a report record
once placed stays there, behind the jobs placed before it. -/

namespace Sys2Proof.Machine

/-! ### Only the writes of the Report Unit and of Fault Capture are placed -/

theorem portGoesOn_of_frame {new : Job → Prop} {s t u : State} (h : portGoesOn new s t) (hp : u.port = t.port) :
    portGoesOn new s u := by
  unfold portGoesOn atPort at h ⊢
  rw [hp]
  exact h

/-- The HOUSEKEEPING queue is replaced by one that differs in replaceable writes only. -/
theorem portGoesOn_setHouse {new : Job → Prop} (s : State) (l : List Job)
    (hk : ∀ j ∈ s.port.house, j ∈ l ∨ j.kind.replaceable = true ∧ ∃ k, new k ∧ k.kind = j.kind)
    (hl : ∀ j ∈ l, j ∈ s.port.house ∨ new j)
    (hf : l.filter (fun j => !j.kind.replaceable) = s.port.house.filter fun j => !j.kind.replaceable) :
    portGoesOn new s { s with port := { s.port with house := l } } := by
  refine ⟨rfl, fun _ => id, fun j hj => ?_, fun j hj => ?_, fun c => ⟨[], by simp, ?_⟩⟩
  · rcases hj with h | h | h | h | h
    · exact .inl (.inl h)
    · exact .inl (.inr (.inl h))
    · exact .inl (.inr (.inr (.inl h)))
    · exact (hk j h).imp (fun m => .inr (.inr (.inr (.inl m)))) fun m => .inr (.inr m)
    · exact .inl (.inr (.inr (.inr (.inr h))))
  · rcases hj with h | h | h | h | h
    · exact .inl (.inl h)
    · exact .inl (.inr (.inl h))
    · exact .inl (.inr (.inr (.inl h)))
    · exact (hl j h).imp_left fun m => .inr (.inr (.inr (.inl m)))
    · exact .inl (.inr (.inr (.inr (.inr h))))
  · rw [List.append_nil]
    cases c with
    | house => exact hf ▸ List.Sublist.refl _
    | refill => exact .refl _
    | resolver => exact .refl _
    | head => exact .refl _
    | scene => exact .refl _
    | pin => exact .refl _

/-- The waiting fault record write is replaced, every other job keeps its place. -/
theorem replaceFaultWrite_spec {w : Job} (hw : w.kind = .faultRecord) (l : List Job) :
    (∀ j ∈ l, j ∈ replaceFaultWrite w l ∨ j.kind = .faultRecord)
      ∧ (∀ j ∈ replaceFaultWrite w l, j ∈ l ∨ j = w)
      ∧ (replaceFaultWrite w l).filter (fun j => !j.kind.replaceable) = l.filter fun j => !j.kind.replaceable := by
  induction l with
  | nil => exact ⟨fun _ h => .inl h, fun _ h => .inl h, rfl⟩
  | cons a l ih =>
    obtain ⟨kept, come, same⟩ := ih
    unfold replaceFaultWrite
    by_cases ha : a.kind = .faultRecord
    · rw [if_pos ha]
      refine ⟨fun j hj => ?_, fun j hj => ?_, ?_⟩
      · rcases List.mem_cons.mp hj with rfl | hj
        · exact .inr ha
        · exact .inl (List.mem_cons_of_mem _ hj)
      · rcases List.mem_cons.mp hj with rfl | hj
        · exact .inr rfl
        · exact .inl (List.mem_cons_of_mem _ hj)
      · rw [List.filter_cons, List.filter_cons, ha, hw]
        rfl
    · rw [if_neg ha]
      refine ⟨fun j hj => ?_, fun j hj => ?_, ?_⟩
      · rcases List.mem_cons.mp hj with rfl | hj
        · exact .inl List.mem_cons_self
        · exact (kept j hj).imp_left (List.mem_cons_of_mem _)
      · rcases List.mem_cons.mp hj with rfl | hj
        · exact .inl List.mem_cons_self
        · exact (come j hj).imp_left (List.mem_cons_of_mem _)
      · rw [List.filter_cons, List.filter_cons, same]

/-- The write of the fault capture record as it is (R184). -/
def faultJob (s : State) : Job := writeJob .faultRecord ((header s).base + 128) s.fault.bytes

theorem portGoesOn_placeFaultRecord {new : Job → Prop} {s : State} (write : new (faultJob s)) :
    portGoesOn new s (placeFaultRecord s) := by
  unfold placeFaultRecord
  split
  · dsimp only
    split
    · obtain ⟨kept, come, same⟩ := replaceFaultWrite_spec (w := faultJob s) rfl s.port.house
      exact portGoesOn_setHouse s _ (fun j hj => (kept j hj).imp_right fun hk => ⟨by rw [hk]; rfl, _, write, hk.symm⟩)
        (fun j hj => (come j hj).imp_right fun e => by rw [e]; exact write) same
    · exact portGoesOn_place _ s write
  · exact portGoesOn_of_port rfl

/-- The written-to update, with the index as it is (R179). -/
def writtenJob (s : State) : Job := writeJob .writtenTo ((header s).base + 32) (toBytes 2 s.reports.writtenTo)

theorem portGoesOn_placeWrittenTo {new : Job → Prop} {s : State} (write : new (writtenJob s)) :
    portGoesOn new s (placeWrittenTo s) := by
  refine portGoesOn.trans (portGoesOn_setHouse s (s.port.house.filter fun j => j.kind != .writtenTo) (fun j hj => ?_)
    (fun j hj => .inl (List.mem_of_mem_filter hj)) ?_) (fun _ => rfl) (portGoesOn_place _ _ write)
  · by_cases h : j.kind = .writtenTo
    · exact .inr ⟨by rw [h]; rfl, _, write, h.symm⟩
    · exact .inl (List.mem_filter.mpr ⟨hj, by simpa using h⟩)
  · rw [List.filter_filter]
    refine List.filter_congr fun j _ => ?_
    cases j.kind <;> rfl

theorem portGoesOn_writeReport {new : Job → Prop} {r : Report} {s : State} (record : new (recordJob s.reports.writtenTo r s))
    (write : ∀ w : Job, w.kind = .writtenTo → new w) : portGoesOn new s (writeReport r s) :=
  (portGoesOn_place _ s record).trans (fun _ => rfl)
    ((portGoesOn_of_port rfl).trans (fun _ => rfl) (portGoesOn_placeWrittenTo (write _ rfl)))

section
variable {new : Job → Prop} (hn : ∀ j : Job, j.kind.reports → new j)
include hn

theorem portGoesOn_capture (a : FaultSource) (k : FaultKind) (x d : Word) (s : State) :
    portGoesOn new s (capture a k x d s) := by
  unfold capture
  split
  · exact (portGoesOn_of_port rfl).trans (fun _ => rfl) (portGoesOn_placeFaultRecord (hn _ trivial))
  · split
    · exact (portGoesOn_of_port rfl).trans (fun _ => rfl) (portGoesOn_placeFaultRecord (hn _ trivial))
    · exact portGoesOn_of_port rfl

theorem portGoesOn_captureJob (k : FaultKind) (j : Job) (s : State) : portGoesOn new s (captureJob k j s) :=
  (portGoesOn_of_port (t := nextFree s) rfl).trans (fun _ => rfl) (portGoesOn_capture hn _ _ _ _ _)

theorem portGoesOn_emit (r : Report) (s : State) : portGoesOn new s (emit r s) := by
  unfold emit
  repeat' split
  · exact portGoesOn_of_port rfl
  · exact portGoesOn_writeReport (hn _ trivial) fun w e => hn w (by rw [e]; trivial)
  · exact portGoesOn_of_port rfl
  · exact portGoesOn_of_port rfl
  · exact (portGoesOn_of_port rfl).trans (fun _ => rfl) (portGoesOn_capture hn _ _ _ _ _)
  · exact portGoesOn_writeReport (hn _ trivial) fun w e => hn w (by rw [e]; trivial)
  · exact portGoesOn_of_port rfl

end

/-! ### Only reports arise -/

theorem reportBut.voicesAlike {s t : State} (h : reportBut s t) : voicesAlike s t := h.1.2

theorem reportBut.trans {s t u : State} (h : reportBut s t) (h' : reportBut t u) : reportBut s u := by
  refine ⟨⟨?_, h.voicesAlike.trans h'.voicesAlike⟩, h.2.trans h.voicesAlike h'.2⟩
  have first := congrArg (fun x => withReports { x with port := s.port, voices := s.voices } u) h.1.1
  have second := congrArg (fun x : State => { x with port := s.port, voices := s.voices }) h'.1.1
  exact second.trans first

theorem reportBut_of_portBut {s t : State} (h : portBut s t) : reportBut s t := by
  have same : withReports s t = s := by
    unfold withReports
    rw [h.1.reports, h.1.fault, h.1.regs]
  refine ⟨?_, h.2.mono fun _ => False.elim⟩
  rw [same]
  exact h.1

theorem reportBut_arbitrate (s : State) : reportBut s (arbitrate s) := reportBut_of_portBut (portBut_arbitrate s)

theorem reportBut_emit (r : Report) (s : State) : reportBut s (emit r s) := by
  refine ⟨⟨?_, voicesAlike_of_voices (emit_voices r s)⟩, portGoesOn_emit (fun _ => id) r s⟩
  have frame := congrArg (fun x : State => { x with port := s.port, voices := s.voices }) (emit_eq r s)
  exact frame

/-- A report, and the arbiter behind it. -/
theorem reportBut_emitted (r : Report) (s : State) : reportBut s (arbitrate (emit r s)) :=
  (reportBut_emit r s).trans (reportBut_arbitrate _)

end Sys2Proof.Machine
end

section
/-! SUPPORT. Records and completion writes at the port (R44, R139, R179): the order in which HOUSEKEEPING jobs are placed is
kept, so that a report's record stands before the completion write of a result returned behind it. -/

namespace Sys2Proof.Machine

/-! ### The HOUSEKEEPING jobs that nothing removes -/

/-- A HOUSEKEEPING job that no newer one replaces. -/
def Job.stays (j : Job) : Bool := j.kind.cls == .house && !j.kind.replaceable

/-- The HOUSEKEEPING jobs that stay until they end, in their order: the one in flight, then those that wait. -/
def line (s : State) : List Job := (s.port.inFlight.toList ++ s.port.house).filter Job.stays

theorem atPort_of_line {j : Job} {s : State} (h : j ∈ line s) : atPort j s := by
  rcases List.mem_append.mp (List.mem_of_mem_filter h) with h | h
  · exact .inl (Option.mem_toList.mp h)
  · exact .inr (.inr (.inr (.inl h)))

theorem line_of_port {s t : State} (h : t.port = s.port) : line t = line s := by
  unfold line
  rw [h]

theorem line_place (k : Job) (s : State) : line (place k s) = line s ++ [k].filter Job.stays := by
  unfold line place Port.put
  split
  · next idle =>
    simp only [Port.idle, Bool.and_eq_true, Option.isNone_iff_eq_none, List.isEmpty_iff] at idle
    obtain ⟨⟨⟨⟨⟨⟨flight, -⟩, -⟩, house⟩, -⟩, -⟩, -⟩ := idle
    simp [flight, house]
  · unfold Port.enqueue
    cases h : k.kind.cls with
    | house => simp
    | refill => simp [Job.stays, h]
    | resolver => simp [Job.stays, h]
    | head => simp [Job.stays, h]
    | scene => simp [Job.stays, h]
    | pin => simp [Job.stays, h]

theorem line_place_stays {k : Job} (h : k.stays = true) (s : State) : line (place k s) = line s ++ [k] := by
  rw [line_place, List.filter_cons, h]
  rfl

theorem line_placeFaultRecord (s : State) : line (placeFaultRecord s) = line s := by
  unfold placeFaultRecord
  split
  · dsimp only
    split
    · have same := (replaceFaultWrite_spec (w := writeJob .faultRecord ((header s).base + 128) s.fault.bytes) rfl
        s.port.house).2.2
      have stays : ∀ l : List Job, l.filter Job.stays = (l.filter fun j => !j.kind.replaceable).filter fun j =>
          j.kind.cls == .house := fun l => by rw [List.filter_filter]; rfl
      unfold line
      dsimp only
      rw [List.filter_append, List.filter_append, stays s.port.house, ← same, ← stays]
    · exact (line_place _ s).trans (List.append_nil _)
  · rfl

theorem line_capture (a : FaultSource) (k : FaultKind) (x d : Word) (s : State) : line (capture a k x d s) = line s := by
  unfold capture
  split
  · exact line_placeFaultRecord _
  · split
    · exact line_placeFaultRecord _
    · rfl

theorem line_captureJob (k : FaultKind) (j : Job) (s : State) : line (captureJob k j s) = line s := line_capture _ _ _ _ _

theorem line_placeWrittenTo (s : State) : line (placeWrittenTo s) = line s := by
  refine (line_place _ _).trans ((List.append_nil _).trans ?_)
  unfold line
  dsimp only
  rw [List.filter_append, List.filter_append, List.filter_filter]
  congr 1
  refine List.filter_congr fun j _ => ?_
  unfold Job.stays
  cases j.kind <;> rfl

theorem line_writeReport (r : Report) (s : State) : line (writeReport r s) = line s ++ [recordJob s.reports.writtenTo r s] :=
  (line_placeWrittenTo _).trans (line_place_stays (k := recordJob s.reports.writtenTo r s) rfl s)

/-! ### The line is kept -/

/-- No job of the line goes or changes its place. -/
def keepsLine (s t : State) : Prop := (line s).Sublist (line t)

theorem keepsLine_refl (s : State) : keepsLine s s := .refl _

theorem keepsLine.trans {s t u : State} (h : keepsLine s t) (h' : keepsLine t u) : keepsLine s u := List.Sublist.trans h h'

theorem keepsLine_of_eq {s t : State} (h : line t = line s) : keepsLine s t := by
  unfold keepsLine
  rw [h]

theorem keepsLine_of_port {s t : State} (h : t.port = s.port) : keepsLine s t := keepsLine_of_eq (line_of_port h)

/-- The line through an update that leaves the port alone, before an operation that keeps the line. -/
theorem keepsLine.after {s s' t : State} (h : keepsLine s' t) (hp : s'.port = s.port) : keepsLine s t :=
  (keepsLine_of_port hp).trans h

/-- The line through an update that leaves the port alone, behind an operation that keeps the line. -/
theorem keepsLine.before {s t t' : State} (h : keepsLine s t) (hp : t'.port = t.port) : keepsLine s t' :=
  h.trans (keepsLine_of_port hp)

theorem keepsLine_foldl {α : Type} (f : State → α → State) (h : ∀ t a, keepsLine t (f t a)) (l : List α) :
    ∀ s, keepsLine s (l.foldl f s) := by
  induction l with
  | nil => intro s; exact keepsLine_refl s
  | cons a l ih => intro s; exact (h s a).trans (ih _)

theorem keepsLine_place (k : Job) (s : State) : keepsLine s (place k s) := by
  unfold keepsLine
  rw [line_place]
  exact List.sublist_append_left _ _

theorem keepsLine_writeReport (r : Report) (s : State) : keepsLine s (writeReport r s) := by
  unfold keepsLine
  rw [line_writeReport]
  exact List.sublist_append_left _ _

theorem keepsLine_emit (r : Report) (s : State) : keepsLine s (emit r s) := by
  unfold emit
  repeat' split
  · exact keepsLine_refl s
  · exact keepsLine_writeReport r s
  · exact keepsLine_of_port rfl
  · exact keepsLine_of_port rfl
  · exact keepsLine_of_eq (line_capture _ _ _ _ _)
  · exact keepsLine_writeReport r s
  · exact keepsLine_of_port rfl

theorem keepsLine_placeCompletion (h : Held) (s : State) : keepsLine s (placeCompletion h s) := by
  unfold placeCompletion
  split
  · exact keepsLine_place _ s
  · exact keepsLine_refl s

theorem keepsLine_giveResult (i : Nat) (r : ResultCode) (d : List Byte) (s : State) : keepsLine s (giveResult i r d s) := by
  unfold giveResult
  dsimp only
  repeat' split
  · exact keepsLine_refl s
  · exact keepsLine_refl s
  · exact (keepsLine_placeCompletion _ _).after rfl
  · exact keepsLine_of_port rfl

theorem keepsLine_settleQueue (l : List Taken) : ∀ s, keepsLine s (settleQueue l s) := by
  induction l with
  | nil => intro s; exact keepsLine_of_port rfl
  | cons t l ih =>
    intro s
    unfold settleQueue
    split
    · exact keepsLine_of_port rfl
    · exact (keepsLine_giveResult _ _ _ _).trans (ih _)

/-- The arbiter at the REFILL queue touches no other part of the port. -/
theorem takeRefill_port (n : Nat) : ∀ s, (takeRefill n s).2.port = { s.port with refill := (takeRefill n s).2.port.refill } := by
  have drop : ∀ j s, (dropRefill j s).port = { s.port with refill := (dropRefill j s).port.refill } := fun j s => by
    unfold dropRefill
    dsimp only
    split <;> rfl
  induction n with
  | zero => intro s; rfl
  | succ n ih =>
    intro s
    unfold takeRefill
    split
    · rfl
    · split
      · rw [ih, drop]
      · rfl

theorem keepsLine_takeNext {s : State} (h : s.port.inFlight = none) : keepsLine s (takeNext s) := by
  have port := takeRefill_port s.port.refill.length s
  have start : line s = s.port.house.filter Job.stays := by unfold line; rw [h]; rfl
  have launched : ∀ (j : Job) (t : State), t.port.house = s.port.house → keepsLine s (launch j t) := fun j t ht => by
    unfold keepsLine
    rw [start]
    unfold line launch
    rw [ht]
    exact (List.sublist_append_right _ _).filter _
  unfold takeNext
  split
  · next e =>
    rw [e] at port
    exact launched _ _ (by rw [port])
  · next t e =>
    rw [e] at port
    have house : t.port.house = s.port.house := by dsimp only at port; rw [port]
    dsimp only
    split
    · exact launched _ _ house
    · split
      · next j r hj =>
        unfold keepsLine
        rw [start, ← house, hj]
        exact .refl _
      · next none_ =>
        repeat' split
        · exact launched _ _ house
        · exact launched _ _ house
        · exact launched _ _ house
        · unfold keepsLine
          rw [start, ← house, none_]
          exact List.nil_sublist _

theorem keepsLine_arbitrate (s : State) : keepsLine s (arbitrate s) := by
  unfold arbitrate
  split
  · exact keepsLine_refl s
  · next h => exact keepsLine_takeNext (by simpa using h)

/-- The end of a request: the queue is settled and the arbiter acts. -/
theorem keepsLine_settled (s : State) : keepsLine s (arbitrate (settleQueue s.slate.queue s)) :=
  (keepsLine_settleQueue _ s).trans (keepsLine_arbitrate _)

theorem atPort_of_keepsLine {j : Job} {s t : State} (h : j ∈ line s) (k : keepsLine s t) : atPort j t :=
  atPort_of_line (k.subset h)

/-! ### The first report -/

/-- Nothing is reported, and what a report's record is made of stays. -/
structure Silent (s t : State) : Prop where
  header : t.slate.header = s.slate.header
  part : t.regs.part = s.regs.part
  reports : t.reports = s.reports
  line : keepsLine s t

theorem Silent.refl (s : State) : Silent s s := ⟨rfl, rfl, rfl, keepsLine_refl s⟩

theorem Silent.trans {s t u : State} (h : Silent s t) (h' : Silent t u) : Silent s u :=
  ⟨h'.header.trans h.header, h'.part.trans h.part, h'.reports.trans h.reports, h.line.trans h'.line⟩

theorem isActive_of_part {s t : State} (h : t.regs.part = s.regs.part) : isActive t = isActive s := by
  unfold isActive
  rw [h]

theorem header_of_slate {s t : State} (h : t.slate.header = s.slate.header) : header t = header s := by
  unfold Sys2Proof.Machine.header
  rw [h]

theorem freeRoom_of {s t : State} (h : t.slate.header = s.slate.header) (hr : t.reports = s.reports) :
    freeRoom t = freeRoom s := by
  unfold freeRoom
  rw [header_of_slate h, hr]

theorem recordJob_of {s t : State} (h : t.slate.header = s.slate.header) (n : Nat) (r : Report) :
    recordJob n r t = recordJob n r s := by
  unfold recordJob
  rw [header_of_slate h]

theorem Silent.hasRoom {s t : State} (h : Silent s t) {r : Report} (room : hasRoom r s) : hasRoom r t := by
  unfold Sys2Proof.Machine.hasRoom at room ⊢
  rw [isActive_of_part h.part, freeRoom_of h.header h.reports, header_of_slate h.header, h.reports]
  exact room

theorem emit_of_hasRoom {r : Report} {s : State} (h : hasRoom r s) : emit r s = writeReport r s := by
  obtain ⟨active, empty, free, room⟩ := h
  unfold emit
  rw [active, empty]
  simp only [Bool.not_true, Bool.false_eq_true, if_false, List.isEmpty_nil, if_true, Bool.true_and, free]
  rcases room with e | e
  · simp only [e, if_true]
  · simp only [e, decide_true, if_true, ite_self]

/-- The record of the report `r`, the first from `s` on, stands in the line when there is room for it. -/
def recorded (r : Report) (s t : State) : Prop := hasRoom r s → recordJob s.reports.writtenTo r s ∈ line t

/-- The first report from `s` on, handed on when nothing but silent operations came before it. -/
theorem recorded_emit {r : Report} {s t : State} (h : Silent s t) : recorded r s (emit r t) := fun room => by
  rw [emit_of_hasRoom (h.hasRoom room), line_writeReport, h.reports, recordJob_of h.header]
  exact List.mem_append_right _ (List.mem_singleton_self _)

theorem recorded.keeps {r : Report} {s t u : State} (h : recorded r s t) (k : keepsLine t u) : recorded r s u :=
  fun room => k.subset (h room)

theorem recorded.first {r : Report} {s t : State} (h : recorded r s t) : firstReport r s t :=
  fun room => atPort_of_line (h room)

/-- A report, the first thing of an event. -/
theorem firstReport_emitted (r : Report) (s : State) : firstReport r s (arbitrate (emit r s)) :=
  ((recorded_emit (Silent.refl s)).keeps (keepsLine_arbitrate _)).first

/-! ### Reports in their order -/

/-- The essential reports `rs` are handed on in this order from `s` to `t`, and no other: their records stand in the line when
there is room for all. -/
structure Told (rs : List Report) (s t : State) : Prop where
  header : t.slate.header = s.slate.header
  part : t.regs.part = s.regs.part
  returnedTo : t.reports.returnedTo = s.reports.returnedTo
  line : keepsLine s t
  essential : ∀ r ∈ rs, r.kind.essential = true
  told : isActive s = true → s.reports.holdList = [] → s.reports.writtenTo < (Machine.header s).reportCount →
    rs.length ≤ freeRoom s →
      t.reports.holdList = [] ∧ t.reports.writtenTo = (s.reports.writtenTo + rs.length) % (Machine.header s).reportCount
      ∧ ∀ (k : Nat) (r : Report), rs[k]? = some r →
        recordJob ((s.reports.writtenTo + k) % (Machine.header s).reportCount) r s ∈ Machine.line t

theorem Told.of_silent {s t : State} (h : Silent s t) : Told [] s t :=
  ⟨h.header, h.part, by rw [h.reports], h.line, by simp, fun _ hold small _ =>
    ⟨by rw [h.reports]; exact hold, by rw [h.reports]; exact (Nat.mod_eq_of_lt small).symm, by simp⟩⟩

/-- The free room of the strip shrinks by 1 with each record. -/
theorem freeRoom_advanced {r c w n : Nat} (hn : n ≤ (((r : Int) - w - 1) % (c : Int)).toNat) (hc : 0 < c) :
    (((r : Int) - ((w + n) % c : Nat) - 1) % (c : Int)).toNat = (((r : Int) - w - 1) % (c : Int)).toNat - n := by
  have pos : (0 : Int) < c := by exact_mod_cast hc
  have low := Int.emod_nonneg ((r : Int) - w - 1) pos.ne'
  have high := Int.emod_lt_of_pos ((r : Int) - w - 1) pos
  have same : ((r : Int) - ((w + n) % c : Nat) - 1) % (c : Int) = (((r : Int) - w - 1) % (c : Int) - n) % (c : Int) := by
    push_cast
    rw [Int.emod_sub_emod, show (r : Int) - ((w + n) % c : Int) - 1 = (r - 1) - (w + n) % c by ring, Int.sub_emod_emod]
    congr 1
    ring
  rw [same, Int.emod_eq_of_lt (by omega) (by omega)]
  omega

theorem writeReport_reports (r : Report) (s : State) : (writeReport r s).reports =
    { s.reports with writtenTo := (s.reports.writtenTo + 1) % (header s).reportCount } := rfl

theorem Told.emit {r : Report} (s : State) (he : r.kind.essential = true) : Told [r] s (Machine.emit r s) := by
  refine ⟨congrArg SlateUnit.header (emit_slate r s), emit_part r s, congrArg Quiet.returnedTo (quiet_emit r s),
    keepsLine_emit r s, by simpa using he, fun active hold small room => ?_⟩
  have fits : hasRoom r s := ⟨active, hold, room, .inl he⟩
  rw [emit_of_hasRoom fits, writeReport_reports, line_writeReport]
  refine ⟨hold, rfl, fun k x hx => ?_⟩
  cases k with
  | zero =>
    cases hx
    rw [Nat.add_zero, Nat.mod_eq_of_lt small]
    exact List.mem_append_right _ (List.mem_singleton_self _)
  | succ k => cases hx

theorem Told.trans {rs rs' : List Report} {s t u : State} (h : Told rs s t) (h' : Told rs' t u) : Told (rs ++ rs') s u := by
  refine ⟨h'.header.trans h.header, h'.part.trans h.part, h'.returnedTo.trans h.returnedTo, h.line.trans h'.line,
    fun r hr => (List.mem_append.mp hr).elim (h.essential r) (h'.essential r), fun active hold small room => ?_⟩
  rw [List.length_append] at room ⊢
  obtain ⟨hold₁, written₁, records₁⟩ := h.told active hold small (by omega)
  have count : (Machine.header t).reportCount = (Machine.header s).reportCount := by rw [header_of_slate h.header]
  have pos : 0 < (Machine.header s).reportCount := by omega
  have room₁ : freeRoom t = freeRoom s - rs.length := by
    unfold freeRoom
    rw [count, written₁, h.returnedTo]
    exact freeRoom_advanced (by unfold freeRoom at room; omega) pos
  obtain ⟨hold₂, written₂, records₂⟩ := h'.told (by rw [isActive_of_part h.part]; exact active) hold₁
    (by rw [written₁, count]; exact Nat.mod_lt _ pos) (by omega)
  rw [count, written₁] at records₂ written₂
  refine ⟨hold₂, ?_, fun k r hr => ?_⟩
  · rw [written₂, Nat.mod_add_mod, Nat.add_assoc]
  · rw [List.getElem?_append] at hr
    split at hr
    · exact h'.line.subset (records₁ k r hr)
    · next far =>
      have := records₂ (k - rs.length) r hr
      rw [Nat.mod_add_mod, recordJob_of h.header, show s.reports.writtenTo + rs.length + (k - rs.length) =
        s.reports.writtenTo + k by omega] at this
      exact this

theorem Told.silent {rs : List Report} {s t u : State} (h : Told rs s t) (k : Silent t u) : Told rs s u := by
  have both := h.trans (.of_silent k)
  rwa [List.append_nil] at both

theorem Told.inOrder {rs : List Report} {s t u : State} (h : Told rs s t) (k : keepsLine t u) : reportsInOrder rs s u := by
  intro active hold small room k' n r hr hn
  refine ⟨h.essential r (List.mem_of_getElem? hr), ?_⟩
  rw [hn]
  exact atPort_of_keepsLine ((h.told active hold small room).2.2 k' r hr) k

end Sys2Proof.Machine
end

section
/-! Requests with one report or one write before their result: SET RATE (R32) and ACK FAULT (R184). -/

namespace Sys2Proof.Machine

/-! ### A result behind a report -/

/-- The result of a slot whose TAKEN write is done: its completion write joins the line. -/
theorem line_giveResult {i : Nat} {r : ResultCode} {d : List Byte} {s : State} {h : Held} (hs : slotAt i s = some h)
    (hr : h.result = none) (hw : h.written = true) : line (giveResult i r d s) =
      line s ++ [writeJob (.completionWrite i) ((header s).slate + 32 * i) (completionBytes h.taken.bytes r d)] := by
  have slot : h.taken.slot = i := by simpa using List.find?_some hs
  unfold slotAt at hs
  unfold giveResult
  simp only [hs, hr, Option.isSome_none, Bool.false_eq_true, if_false, hw, if_true]
  unfold placeCompletion
  dsimp only
  rw [slot]
  exact line_place_stays rfl _

/-- The record of a report that stands in the line when a result is given stands before the slot's completion write. -/
theorem recorded.beforeResult {i : Nat} {code : ResultCode} {d : List Byte} {r : Report} {s w t : State}
    (h : recorded r s w) (hs : slotAt i w = slotAt i s) (hh : w.slate.header = s.slate.header) (ha : awaiting i s)
    (hk : keepsLine (giveResult i code d w) t) : reportsBeforeResult i code d r s t := by
  intro x hx written room
  obtain ⟨y, hy, none_⟩ := ha
  cases hx.symm.trans hy
  have both : [recordJob s.reports.writtenTo r s, writeJob (.completionWrite i) ((header s).slate + 32 * i)
      (completionBytes x.taken.bytes code d)].Sublist (t.port.inFlight.toList ++ t.port.house) := by
    refine List.Sublist.trans ?_ (List.Sublist.trans hk List.filter_sublist)
    rw [line_giveResult (hs.trans hx) none_ written, header_of_slate hh]
    exact (List.singleton_sublist.mpr (h room)).append_right _
  obtain ⟨front, back, e, first, rest⟩ := List.cons_sublist_iff.mp both
  obtain ⟨a, b, ea⟩ := List.append_of_mem first
  obtain ⟨c, e', ec⟩ := List.append_of_mem (List.singleton_sublist.mp rest)
  exact ⟨a, b ++ c, e', by rw [e, ea, ec]; simp⟩

/-- A request whose owner hands on one report and gives its result at once. -/
theorem handOn_reports {α : Type} {pick : Request → Option α} {act : Taken → α → State → State} {s : State} {tk : Taken}
    {rest : List Taken} {q : Request} {a : α} (h : headRequest s = some (tk, rest, q)) (hp : pick q = some a)
    (hw : awaiting tk.slot s) {r : ResultCode} {d : List Byte} {x : Report} {u : State}
    (ha : act tk a (popHead s) = giveResult tk.slot r d (emit x u)) (hu : u.slate = (popHead s).slate)
    (hreg : u.regs.part = s.regs.part) (hrep : u.reports = s.reports) (hport : u.port = s.port) :
    resultOf tk.slot (handOn pick act s) = some (r, d)
      ∧ reportingBut tk.slot { u with slate := s.slate } (handOn pick act s) ∧ firstReport x s (handOn pick act s)
      ∧ reportsBeforeResult tk.slot r d x s (handOn pick act s) := by
  have slots : ∀ k, slotAt k (emit x u) = slotAt k s := fun k => by
    unfold slotAt
    rw [emit_slate, hu]
    rfl
  have hd : (emit x u).slate.header = s.slate.header := by
    rw [emit_slate, hu]
    rfl
  have silent : Silent s u := ⟨by rw [hu]; rfl, hreg, hrep, keepsLine_of_port hport⟩
  have told : recorded x s (emit x u) := recorded_emit silent
  rw [handOn_eq h hp, ha]
  refine ⟨?_, ⟨?_, ?_⟩, ?_, ?_⟩
  · rw [(portOnly_arbitrate _).resultOf]
    exact settleQueue_resultOf _ _ _ _ (giveResult_resultOf _ _ (awaiting_of_slotAt (slots _) hw))
  · have frame : withReports { u with slate := s.slate }
        (arbitrate (settleQueue (giveResult tk.slot r d (emit x u)).slate.queue (giveResult tk.slot r d (emit x u)))) =
          { emit x u with port := u.port, slate := s.slate } := by
      have port := portOnly_arbitrate
        (settleQueue (giveResult tk.slot r d (emit x u)).slate.queue (giveResult tk.slot r d (emit x u)))
      unfold withReports
      rw [port.reports, port.fault, port.regs, settleQueue_reports, settleQueue_fault, settleQueue_regs,
        giveResult_reports, giveResult_fault, giveResult_regs]
      have := congrArg (fun y : State => { y with port := u.port, slate := s.slate }) (emit_eq x u)
      exact this.symm
    rw [frame]
    refine settled_slateOnly _ ?_ ?_ ?_ ?_
    · rw [giveResult_eq]
    · rw [giveResult_eq]; dsimp only; rw [emit_slate, hu]; rfl
    · rw [giveResult_eq]; dsimp only; rw [emit_slate, hu]; rfl
    · intro k hk; rw [giveResult_slotAt_other _ _ _ hk, slots]; rfl
  · refine settled_goesOn (portGoesOn.trans (t := emit x u) ?_ (voicesAlike_of_voices (emit_voices x u))
      (portGoesOn_giveResult _ _ _ _ fun _ => .inl)) ?_ fun _ => .inl
    · exact (portGoesOn_of_port (t := u) rfl).trans (fun _ => rfl) (portGoesOn_emit (fun _ => .inr) x u)
    · exact voicesAlike_of_voices ((giveResult_voices _ _ _ _).trans (emit_voices x u))
  · exact (told.keeps ((keepsLine_giveResult _ _ _ _).trans (keepsLine_settled _))).first
  · exact told.beforeResult (slots _) hd hw (keepsLine_settled _)

/-! ### SET RATE -/

theorem rateFree_iff (s : State) :
    rateFree s = true ↔ (∀ v, (s.voice v).content = .idle) ∧ s.schedule.entries = [] := by
  unfold rateFree
  rw [Bool.and_eq_true, List.all_eq_true, List.isEmpty_iff]
  refine and_congr_left fun _ => ⟨fun h v => ?_, fun h x hx => ?_⟩
  · have idle := h _ (mem_voices.mpr ⟨v, rfl⟩)
    cases hc : (s.voice v).content with
    | idle => rfl
    | priming i => rw [hc] at idle; cases idle
    | armed i => rw [hc] at idle; cases idle
    | sounding p => rw [hc] at idle; cases idle
    | releasing p => rw [hc] at idle; cases idle
    | handover p i b => rw [hc] at idle; cases idle
  · obtain ⟨v, rfl⟩ := mem_voices.mp hx
    rw [h v]
    rfl

section
variable {t : Taken} {code : Fin 7} {s : State}

theorem requestSetRate_busy (h : rateFree s = false) : requestSetRate t code.val s = giveResult t.slot .busy [] s := by
  unfold requestSetRate
  rw [dif_pos code.isLt, h]
  rfl

theorem requestSetRate_ok (h : rateFree s = true) : requestSetRate t code.val s =
    giveResult t.slot .ok (toBytes 1 s.clock.rate.val ++ toBytes 1 s.clock.lock.code) (changeRate code s) := by
  unfold requestSetRate
  rw [dif_pos code.isLt, h]
  rfl

/-- The Frame Clock with a new rate in force at this sample. -/
def Clock.rated (c : Clock) (code : Fin 7) : Clock :=
  { c with
    rate := code, epoch := c.showTime, k := 0, lock := .seeking, stray := 0, missing := 0
    held := false, lastHeld := false, lastOpen := false }

theorem changeRate_seeking (h : s.clock.lock = .seeking) : changeRate code s = { s with clock := s.clock.rated code } := by
  unfold changeRate
  refine (if_pos h).trans ?_
  unfold Clock.rated
  rw [← h]
  rfl

theorem changeRate_locked (h : s.clock.lock ≠ .seeking) (hr : isRunning s = true) : changeRate code s =
    emit (aboutNone .refState Selector.null (toBytes 1 s.clock.lock.code ++ [0, 5]) s)
      { s with clock := s.clock.rated code } := by
  unfold changeRate
  refine (if_neg h).trans ?_
  unfold changeLock
  exact if_pos hr

end

/-- Settles O59: the voices and the schedule are tested, then the lock state decides whether a report arises. -/
theorem setRateJudged : Obligations.SetRateJudged := by
  intro s tk rest code h hw
  refine ⟨fun busy => ⟨_, rfl, handOn_gives (pick := Request.asSetRate) (u := popHead s) h rfl hw
    (requestSetRate_busy (s := popHead s) ?_) rfl⟩, ?_⟩
  · rw [Bool.eq_false_iff]
    intro free
    obtain ⟨idle, none_⟩ := (rateFree_iff s).mp free
    rcases busy with ⟨v, hv⟩ | entries
    · exact hv (idle v)
    · exact entries none_
  · rintro idle none_ u d rfl rfl
    have ok := requestSetRate_ok (t := tk) (code := code) (s := popHead s) ((rateFree_iff _).mpr ⟨idle, none_⟩)
    refine ⟨fun seeking => ⟨_, rfl, ?_⟩, fun locked => ⟨_, rfl, ?_⟩⟩
    · rw [changeRate_seeking (s := popHead s) seeking] at ok
      exact handOn_gives (pick := Request.asSetRate) h rfl hw ok rfl
    · rw [changeRate_locked (s := popHead s) locked (show isRunning s = true from headRequest_running h)] at ok
      exact handOn_reports (pick := Request.asSetRate) h rfl hw ok rfl rfl rfl rfl

/-! ### ACK FAULT -/

/-- A request whose owner places one job and gives its result at once. -/
theorem handOn_places_gives {α : Type} {pick : Request → Option α} {act : Taken → α → State → State} {s : State}
    {tk : Taken} {rest : List Taken} {q : Request} {a : α} (h : headRequest s = some (tk, rest, q)) (hp : pick q = some a)
    (hw : awaiting tk.slot s) {r : ResultCode} {d : List Byte} {k : Job} {u w : State}
    (ha : act tk a (popHead s) = giveResult tk.slot r d w) (hu : u.slate = (popHead s).slate)
    (hwu : w = { u with port := w.port }) (hgo : portGoesOn (fun j => j = k) u w) (hk : atPort k w)
    (hr : refillStale u k = false) (hh : headStale u k = false) :
    resultOf tk.slot (handOn pick act s) = some (r, d) ∧ slatePlus tk.slot k { u with slate := s.slate } (handOn pick act s) := by
  have slate : w.slate = (popHead s).slate := (congrArg State.slate hwu).trans hu
  have voices : w.voices = u.voices := by have same := congrArg State.voices hwu; exact same
  have alike := voicesAlike_of_voices voices
  have slots : ∀ k, slotAt k w = slotAt k s := fun k => by unfold slotAt; rw [slate]; rfl
  rw [handOn_eq h hp, ha]
  refine ⟨?_, settled_slateOnly _ ?_ ?_ ?_ ?_, ?_, ?_⟩
  · rw [(portOnly_arbitrate _).resultOf]
    exact settleQueue_resultOf _ _ _ _ (giveResult_resultOf _ _ (awaiting_of_slotAt (slots _) hw))
  · have frame := congrArg (fun y : State => { y with port := u.port, slate := s.slate }) (giveResult_eq tk.slot r d w)
    have same := congrArg (fun y : State => { y with port := u.port, slate := s.slate }) hwu
    exact frame.trans same
  · rw [giveResult_eq]; dsimp only; rw [slate]; rfl
  · rw [giveResult_eq]; dsimp only; rw [slate]; rfl
  · intro k hk; rw [giveResult_slotAt_other _ _ _ hk, slots]; rfl
  · refine settled_goesOn (portGoesOn.trans (t := w) ?_ alike (portGoesOn_giveResult _ _ _ _ fun _ => .inr)) ?_ fun _ => .inr
    · exact (portGoesOn_of_port (t := u) rfl).trans (fun _ => rfl) (hgo.mono fun _ => .inl)
    · exact voicesAlike_of_voices ((giveResult_voices _ _ _ _).trans voices)
  · have all : voicesAlike u (settleQueue (giveResult tk.slot r d w).slate.queue (giveResult tk.slot r d w)) :=
      voicesAlike_of_voices ((settleQueue_voices _ _).trans ((giveResult_voices _ _ _ _).trans voices))
    refine atPort_arbitrate (atPort_settleQueue _ (atPort_giveResult _ _ _ hk)) ?_ ?_
    · rw [refillStale_alike all]; exact hr
    · rw [headStale_alike all]; exact hh

/-- The new fault record write takes the place of one that waits. -/
theorem mem_replaceFaultWrite (w : Job) : ∀ l : List Job, l.any (fun j => j.kind == .faultRecord) = true →
    w ∈ replaceFaultWrite w l
  | [], h => by cases h
  | a :: l, h => by
    unfold replaceFaultWrite
    split
    · exact List.mem_cons_self
    · next ha =>
      have other : (a.kind == .faultRecord) = false := by simpa using ha
      rw [List.any_cons, other, Bool.false_or] at h
      exact List.mem_cons_of_mem _ (mem_replaceFaultWrite w l h)

theorem atPort_placeFaultRecord {s : State} (h : isActive s = true) : atPort (faultJob s) (placeFaultRecord s) := by
  unfold placeFaultRecord
  rw [if_pos h]
  dsimp only
  split
  · next waits => exact .inr (.inr (.inr (.inl (mem_replaceFaultWrite _ _ waits))))
  · exact atPort_place_self _ s

theorem isActive_of_running {s : State} (h : isRunning s = true) : isActive s = true := by
  unfold isActive
  unfold isRunning at h
  rw [h]
  rfl

/-- Settles O60: the record is cleared, its write placed, and the detail taken from what it was. -/
theorem ackFaultClears : Obligations.AckFaultClears := by
  intro s tk rest h hw
  obtain ⟨result, plus⟩ := handOn_places_gives (pick := Request.asAckFault) (act := requestAckFault) (a := ()) h rfl hw
    (u := { popHead s with fault := FaultCapture.reset }) (k := faultJob { popHead s with fault := FaultCapture.reset })
    rfl rfl (placeFaultRecord_eq _) (portGoesOn_placeFaultRecord rfl)
    (atPort_placeFaultRecord (isActive_of_running (show isRunning s = true from headRequest_running h))) rfl rfl
  refine ⟨_, rfl, fun r hr => ?_, fun hr => ⟨_, result, ?_⟩, plus⟩
  · rw [result]
    show some (ResultCode.ok, ackDetail s.fault) = _
    unfold ackDetail FaultCapture.bytes
    rw [hr]
    rfl
  · show (ackDetail s.fault).head? = _
    unfold ackDetail FaultCapture.bytes
    rw [hr]
    rfl

end Sys2Proof.Machine
end

section
/-! The arbiter of the port (R139): what it takes, class by class, and of the REFILL jobs the one that comes first. -/

namespace Sys2Proof.Machine

/-! ### The first REFILL job -/

theorem firstRefill_le (s : State) : ∀ (l : List Job) (b : Job), firstRefill s l = some b →
    ∀ j ∈ l, refillKey s b ≤ refillKey s j
  | [], _, h => by cases h
  | a :: l, b, h => by
    unfold firstRefill at h
    intro j hj
    cases hl : firstRefill s l with
    | none =>
      rw [hl] at h
      cases h
      have empty : l = [] := by
        cases l with
        | nil => rfl
        | cons x l =>
          unfold firstRefill at hl
          split at hl
          · cases hl
          · split at hl <;> cases hl
      rw [empty] at hj
      rw [List.mem_singleton.mp hj]
    | some c =>
      have least := firstRefill_le s l c hl
      rw [hl] at h
      dsimp only at h
      split at h <;> cases h
      · next less =>
        rcases List.mem_cons.mp hj with rfl | hj
        · exact less.le
        · exact least j hj
      · next less =>
        rcases List.mem_cons.mp hj with rfl | hj
        · exact le_rfl
        · exact (Nat.not_lt.mp less).trans (least j hj)

theorem firstRefill_isSome (s : State) {l : List Job} {j : Job} (h : j ∈ l) : ∃ b, firstRefill s l = some b := by
  cases l with
  | nil => cases h
  | cons a l =>
    unfold firstRefill
    split
    · exact ⟨_, rfl⟩
    · split <;> exact ⟨_, rfl⟩

theorem dropRefill_refill (j : Job) (s : State) : (dropRefill j s).port.refill = s.port.refill.erase j := by
  unfold dropRefill
  dsimp only
  split <;> rfl

/-- The arbiter at the REFILL queue passes over the stale jobs and takes the least of the others. -/
theorem takeRefill_takes (n : Nat) : ∀ (s : State) (j : Job), s.port.refill.length ≤ n → j ∈ s.port.refill →
    refillStale s j = false → ∃ b t, takeRefill n s = (some b, t) ∧ b ∈ s.port.refill ∧ refillStale s b = false
      ∧ refillKey s b ≤ refillKey s j := by
  induction n with
  | zero =>
    intro s j hn hj _
    rw [List.length_eq_zero_iff.mp (Nat.le_zero.mp hn)] at hj
    cases hj
  | succ n ih =>
    intro s j hn hj fresh
    obtain ⟨b, hb⟩ := firstRefill_isSome s hj
    have hm := firstRefill_mem s hb
    unfold takeRefill
    simp only [hb]
    by_cases stale : refillStale s b = true
    · rw [if_pos stale]
      have alike := (portOnly_dropRefill b s).2
      have other : j ≠ b := fun e => by
        rw [e, stale] at fresh
        cases fresh
      obtain ⟨c, t, taken, mem, fresh', le⟩ := ih (dropRefill b s) j
        (by rw [dropRefill_refill, List.length_erase_of_mem hm]; omega)
        (by rw [dropRefill_refill]; exact (List.mem_erase_of_ne other).mpr hj) (by rw [refillStale_alike alike]; exact fresh)
      rw [refillStale_alike alike] at fresh'
      rw [refillKey_alike alike, refillKey_alike alike] at le
      rw [dropRefill_refill] at mem
      exact ⟨c, t, taken, List.mem_of_mem_erase mem, fresh', le⟩
    · rw [if_neg stale]
      exact ⟨b, _, rfl, hm, Bool.eq_false_iff.mpr stale, firstRefill_le s _ b hb j hj⟩

/-! ### The classes in their order -/

theorem idle_of_empty {p : Port} (h : p.inFlight = none) (hq : ∀ c, p.queue c = []) : p.idle = true := by
  unfold Port.idle
  rw [h, show p.refill = [] from hq .refill, show p.resolver = [] from hq .resolver, show p.house = [] from hq .house,
    show p.head = [] from hq .head, show p.scene = [] from hq .scene, show p.pin = [] from hq .pin]
  rfl

/-- With no REFILL job, the arbiter comes to the other classes as the state stands. -/
theorem arbitrate_of_no_refill {s : State} (h : s.port.inFlight = none) (hr : s.port.refill = []) :
    arbitrate s = takeNext s ∧ takeRefill s.port.refill.length s = (none, s) := by
  unfold arbitrate
  rw [h, hr]
  exact ⟨rfl, rfl⟩

/-- Settles O40: the classes one after another, and the least of the REFILL jobs. -/
theorem arbiterOrder : Obligations.ArbiterOrder := by
  intro s
  refine ⟨fun j h hq => ?_, fun h => ?_, fun h hr => ?_, fun h j hj fresh => ?_⟩
  · unfold place Port.put
    rw [if_pos (idle_of_empty h hq)]
  · unfold arbitrate
    rw [if_pos (Option.isSome_iff_ne_none.mpr h)]
  · obtain ⟨next, none_⟩ := arbitrate_of_no_refill h hr
    rw [next]
    unfold takeNext
    rw [none_]
    dsimp only
    refine ⟨fun j q hq => by rw [hq]; rfl, fun hq => ?_⟩
    rw [hq]
    refine ⟨fun j q hq => by rw [hq]; rfl, fun hq => ?_⟩
    rw [hq]
    refine ⟨fun j q hq hs => by rw [hq, List.dropWhile_cons, hs]; rfl, fun hq => ?_⟩
    rw [hq]
    rw [List.dropWhile_nil]
    dsimp only
    refine ⟨fun j q hq => by rw [hq]; rfl, fun j q hq hq' => by rw [hq, hq']; rfl⟩
  · obtain ⟨b, t, taken, mem, fresh', le⟩ := takeRefill_takes _ s j le_rfl hj fresh
    refine ⟨b, ?_, mem, fresh', le⟩
    unfold arbitrate
    rw [h]
    unfold takeNext
    simp only [Option.isSome_none, Bool.false_eq_true, if_false, taken]
    rfl

end Sys2Proof.Machine
end

section
/-! The Report Unit's table (R180), duck steps (R157) and follow-on requests (R73). -/

namespace Sys2Proof.Machine

/-! ### What a report does -/

section
variable {r : Report} {s : State}

theorem emit_of_inactive (h : isActive s = false) : emit r s = s := by
  unfold emit
  rw [h]
  rfl

/-- A report that is not essential finds no room (R180). -/
theorem emit_dropped (h : isActive s = true) (hr : r.kind.essential = false)
    (hn : s.reports.holdList ≠ [] ∨ freeRoom s ≤ (header s).reserve) :
    emit r s = { s with reports := { s.reports with drops := min 65535 (s.reports.drops + 1) } } := by
  have full : (s.reports.holdList.isEmpty && decide ((header s).reserve < freeRoom s)) = false := by
    rcases hn with e | e
    · rw [List.isEmpty_eq_false_iff.mpr e, Bool.false_and]
    · rw [decide_eq_false (Nat.not_lt.mpr e), Bool.and_false]
  unfold emit
  simp only [h, hr, full, Bool.not_true, Bool.false_eq_true, if_false, saturate]

/-- An essential report finds the strip full (R180). -/
theorem emit_held_first (h : isActive s = true) (hr : r.kind.essential = true) (he : s.reports.holdList = [])
    (hf : freeRoom s = 0) : emit r s = { s with reports := { s.reports with holdList := [r] } } := by
  unfold emit
  simp only [h, hr, he, hf, Bool.not_true, Bool.false_eq_true, if_false, if_true, List.isEmpty_nil, Nat.lt_irrefl]

/-- An essential report finds others waiting (R180). -/
theorem emit_held (h : isActive s = true) (hr : r.kind.essential = true) (he : s.reports.holdList ≠ [])
    (hl : s.reports.holdList.length < 16) : emit r s = { s with reports := { s.reports with
      holdList := s.reports.holdList ++ [r]
      backPressure := s.reports.backPressure || s.reports.holdList.length + 1 == 16 } } := by
  unfold emit
  simp only [h, hr, List.isEmpty_eq_false_iff.mpr he, hl, Bool.not_true, Bool.false_eq_true, if_false, if_true]

/-- An essential report finds the hold list full (R180). -/
theorem emit_lost (h : isActive s = true) (hr : r.kind.essential = true) (hl : 16 ≤ s.reports.holdList.length) :
    emit r s = capture .report .reportOverflow 0 (BitVec.ofNat 32 r.kind.code)
      { s with reports := { s.reports with lost := min 255 (s.reports.lost + 1) } } := by
  have waits : s.reports.holdList ≠ [] := fun e => by
    rw [e] at hl
    exact absurd hl (by decide)
  unfold emit
  simp only [h, hr, List.isEmpty_eq_false_iff.mpr waits, Nat.not_lt.mpr hl, Bool.not_true, Bool.false_eq_true, if_false,
    if_true, saturate]

theorem writeReport_eq (r : Report) (s : State) : writeReport r s = { s with
    port := (writeReport r s).port
    reports := { s.reports with writtenTo := (s.reports.writtenTo + 1) % (header s).reportCount } } := rfl

theorem atPort_writeReport (r : Report) (s : State) :
    atPort (recordJob s.reports.writtenTo r s) (writeReport r s)
      ∧ atPort (writeJob .writtenTo ((header s).base + 32)
          (toBytes 2 ((s.reports.writtenTo + 1) % (header s).reportCount))) (writeReport r s) := by
  refine ⟨atPort_of_line ?_, atPort_place_self _ _⟩
  rw [line_writeReport]
  exact List.mem_append_right _ (List.mem_singleton_self _)

/-- A fault that finds no record is captured, with the FAULT flag (R183). -/
theorem capture_first {a : FaultSource} {k : FaultKind} {x d : Word} (h : s.fault.record = none) :
    (capture a k x d s).fault.record = some { source := a, kind := k, address := x, detail := d }
      ∧ (capture a k x d s).regs.flags = s.regs.flags ||| 4#3 := by
  unfold capture
  rw [h]
  dsimp only
  rw [placeFaultRecord_fault, placeFaultRecord_regs]
  exact ⟨rfl, rfl⟩

end

/-- Settles O37, row by row. -/
theorem reportTable : Obligations.ReportTable := by
  intro r s
  refine ⟨emit_of_inactive, fun active hold room => ?_, emit_dropped, emit_held_first,
    fun active ess one less => ?_, fun active ess full => ?_⟩
  · have fits : hasRoom r s := by
      rcases room with ⟨ess, free⟩ | ⟨-, free⟩
      · exact ⟨active, hold, free, .inl ess⟩
      · exact ⟨active, hold, by omega, .inr free⟩
    obtain ⟨record, written⟩ := atPort_writeReport r s
    rw [emit_of_hasRoom fits]
    exact ⟨rfl, record, written, portGoesOn_writeReport (.inl rfl) fun w => .inr, rfl⟩
  · have waits : s.reports.holdList ≠ [] := fun e => by rw [e] at one; exact absurd one (by decide)
    rw [emit_held active ess waits less]
    refine ⟨rfl, ?_, rfl⟩
    show (s.reports.backPressure || (s.reports.holdList.length + 1 == 16)) = _
    congr 1
    rw [Bool.eq_iff_iff]
    simp
  · rw [emit_lost active ess full]
    exact ⟨capture_reports _ _ _ _ _, fun free => capture_first (s := { s with reports := _ }) free⟩

/-! ### Duck steps -/

theorem duckStep_due {g : Fin 4} {s : State} (h : s.mix.ducks[g].due = true) :
    duckStep g s = setDuck g s.mix.ducks[g].step s := if_pos h

theorem duckStep_waits {g : Fin 4} {s : State} (h : s.mix.ducks[g].due = false) : duckStep g s = s :=
  if_neg (Bool.eq_false_iff.mp h)

/-- Settles O44. -/
theorem duckStepMoves : Obligations.DuckStepMoves := by
  rintro g s d target rfl rfl
  refine ⟨fun due => ⟨_, rfl, ?_⟩, fun waits => ⟨_, rfl, ?_⟩⟩
  · rw [duckStep_due due]
    exact portBut_arbitrate _
  · rw [duckStep_waits waits]
    exact portBut_arbitrate s

/-! ### Follow-on requests -/

theorem placeFollow_new {f : FollowOn} : ∀ {l : List FollowOn}, (∀ g ∈ l, g.leader ≠ f.leader) → placeFollow f l = l ++ [f]
  | [], _ => rfl
  | g :: l, h => by
    unfold placeFollow
    rw [if_neg (h g List.mem_cons_self), placeFollow_new fun x hx => h x (List.mem_cons_of_mem _ hx)]
    rfl

theorem placeFollow_replaces {f old : FollowOn} {behind : List FollowOn} (ho : old.leader = f.leader) :
    ∀ {before : List FollowOn}, (∀ g ∈ before, g.leader ≠ f.leader) →
      placeFollow f (before ++ old :: behind) = before ++ f :: behind
  | [], _ => if_pos ho
  | g :: before, h => by
    rw [List.cons_append]
    unfold placeFollow
    rw [if_neg (h g List.mem_cons_self), placeFollow_replaces ho fun x hx => h x (List.mem_cons_of_mem _ hx)]
    rfl

theorem Selector.isNull_iff (x : Selector) : x.isNull = true ↔ x.sheet = 0 := by
  unfold Selector.isNull
  exact beq_iff_eq

theorem followDue_iff (s : State) (p : Playing) : followDue s p = true ↔
    isRunning s = true ∧ p.entry = none ∧ p.sound.follow.sheet ≠ 0 ∧ p.loopActive = false ∧ p.followPlaced = false
      ∧ p.sound.length - p.position ≤ 9600 := by
  unfold followDue
  rw [Bool.and_eq_true, Bool.and_eq_true, Bool.and_eq_true, Bool.and_eq_true, Bool.and_eq_true, Bool.not_eq_true',
    Bool.not_eq_true', Bool.not_eq_true', Option.isNone_iff_eq_none, decide_eq_true_iff, ← Bool.not_eq_true,
    Selector.isNull_iff]
  unfold Playing.remaining Config.followLead
  tauto

/-- The follow-on request of a cue (R73). -/
def followOn (v : Fin 24) (p : Playing) (s : State) : FollowOn :=
  { leader := v, claim := p.claim.number, selector := p.sound.follow, level := p.claim.req.cue.level
    stop := firstSample p s + BitVec.ofNat 40 (p.sound.length - p.position) }

theorem testFollow_due {v : Fin 24} {s : State} {p : Playing} (hp : (s.voice v).content = .sounding p)
    (due : followDue s p = true) : testFollow v s = { setContent v (.sounding { p with followPlaced := true }) s with
      resolver := { s.resolver with follows := placeFollow (followOn v p s) s.resolver.follows } } := by
  unfold testFollow
  simp only [hp]
  exact if_pos due

theorem testFollow_waits {v : Fin 24} {s : State} {p : Playing} (hp : (s.voice v).content = .sounding p)
    (due : followDue s p = false) : testFollow v s = s := by
  unfold testFollow
  simp only [hp]
  exact if_neg (Bool.eq_false_iff.mp due)

/-- Settles O42: the conditions of R73, and the place of the request. -/
theorem followOnRequestPlaced : Obligations.FollowOnRequestPlaced := by
  intro v s p hp
  refine ⟨fun running sheet loop placed entry near => ?_, fun none_ => ⟨_, rfl, ?_⟩⟩
  · have due := (followDue_iff s p).mpr ⟨running, entry, sheet, loop, placed, near⟩
    refine ⟨_, followOn v p s, placeFollow (followOn v p s) s.resolver.follows, rfl, rfl, fun other =>
      placeFollow_new other, fun before old behind h ho other => ?_, ?_⟩
    · rw [h]
      exact placeFollow_replaces ho other
    · rw [followRequest, testFollow_due hp due]
      exact portBut_arbitrate _
  · have waits : followDue s p = false := by
      rw [Bool.eq_false_iff]
      intro due
      obtain ⟨running, entry, sheet, loop, placed, near⟩ := (followDue_iff s p).mp due
      rcases none_ with h | h | h | h | h | h
      · rw [h] at running; cases running
      · exact sheet h
      · rw [h] at loop; cases loop
      · rw [h] at placed; cases placed
      · exact h entry
      · omega
    rw [followRequest, testFollow_waits hp waits]
    exact portBut_arbitrate s

end Sys2Proof.Machine
end

section
/-! The ends of the jobs of the Report Unit, Fault Capture and the mirror (R45, R179, R181, R182, R184). -/

namespace Sys2Proof.Machine

/-! ### The end of a job -/

/-- The job in flight ends without error: the port frees, and its owner acts (R138). -/
theorem jobDone_well {is : JobKind → Bool} {e : JobEnd} {act : Job → Bool → State → State} {s : State} {j : Job}
    (h : endsWell j e s) (hk : is j.kind = true) : jobDone is e act s = arbitrate (act j false (atEnd j e s)) := by
  obtain ⟨flight, kept, good, inside⟩ := h
  unfold jobDone atEnd
  simp only [flight, hk, kept, good, inside, if_true, Bool.or_false, Bool.false_eq_true, if_false]

/-- The job in flight ends with a memory error (R138). -/
theorem jobDone_bad {is : JobKind → Bool} {e : JobEnd} {act : Job → Bool → State → State} {s : State} {j : Job}
    (h : endsBadly j e s) (hk : is j.kind = true) : jobDone is e act s = arbitrate (act j true (atFault j e s)) := by
  obtain ⟨flight, kept, bad⟩ := h
  have bad : (e.error || j.outOfRange) = true := by rw [Bool.or_eq_true]; exact bad
  unfold jobDone atFault
  simp only [flight, hk, kept, bad, if_true, Bool.false_eq_true, if_false]

theorem isKind {is : JobKind → Bool} {k k' : JobKind} (h : k = k') (hk : is k' = true) : is k = true := by
  rw [h]
  exact hk

/-! ### The drain of the hold list -/

/-- What the drain of the hold list `l` from `s` leaves, `k` of its reports written. -/
structure Drained (l : List Report) (s t : State) (k : Nat) : Prop where
  reports : t.reports = { s.reports with
    writtenTo := (s.reports.writtenTo + k) % (Machine.header s).reportCount, holdList := l.drop k }
  frame : t = { s with port := t.port, reports := t.reports }
  goesOn : portGoesOn (fun x => x.kind.reports) s t
  line : keepsLine s t
  records : ∀ i r, i < k → l[i]? = some r →
    recordJob ((s.reports.writtenTo + i) % (Machine.header s).reportCount) r s ∈ Machine.line t
  written : 0 < k → atPort (writeJob .writtenTo ((Machine.header s).base + 32)
    (toBytes 2 ((s.reports.writtenTo + k) % (Machine.header s).reportCount))) t
  idle : k = 0 → t.port = s.port

/-- No report is written. -/
theorem Drained.none {s : State} (l : List Report) (small : s.reports.writtenTo < (Machine.header s).reportCount) :
    Drained l s { s with reports := { s.reports with holdList := l } } 0 := by
  refine ⟨?_, rfl, portGoesOn_of_port rfl, keepsLine_of_port rfl, fun _ _ h => absurd h (Nat.not_lt_zero _),
    fun h => absurd h (Nat.lt_irrefl _), fun _ => rfl⟩
  rw [Nat.add_zero, Nat.mod_eq_of_lt small]
  rfl

/-- One report is written, and the drain goes on. -/
theorem Drained.cons {r : Report} {l : List Report} {s u t : State} {k : Nat}
    (small : s.reports.writtenTo < (Machine.header s).reportCount) (hu : u = { s with port := u.port, reports := { s.reports with
      writtenTo := (s.reports.writtenTo + 1) % (Machine.header s).reportCount } })
    (go : portGoesOn (fun x => x.kind.reports) s u)
    (hl : Machine.line u = Machine.line s ++ [recordJob s.reports.writtenTo r s])
    (update : atPort (writtenJob u) u) (rest : Drained l u t k) : Drained (r :: l) s t (k + 1) := by
  have ur : u.reports = { s.reports with writtenTo := (s.reports.writtenTo + 1) % (Machine.header s).reportCount } := by
    have := congrArg State.reports hu; exact this
  have uv : voicesAlike s u := voicesAlike_of_voices (by have := congrArg State.voices hu; exact this)
  have uh : u.slate.header = s.slate.header := by have := congrArg (fun x : State => x.slate.header) hu; exact this
  have index : ∀ i, (u.reports.writtenTo + i) % (Machine.header s).reportCount =
      (s.reports.writtenTo + (i + 1)) % (Machine.header s).reportCount := fun i => by
    rw [ur, Nat.mod_add_mod, Nat.add_assoc, Nat.add_comm 1 i]
  obtain ⟨reports, frame, goesOn, line, records, written, idle⟩ := rest
  rw [header_of_slate uh] at reports records written
  refine ⟨?_, ?_, go.trans uv goesOn, ?_, fun i x hi hx => ?_, fun _ => ?_, fun h => nomatch h⟩
  · rw [reports, index k, ur]
    rfl
  · have both := congrArg (fun x : State => { x with port := t.port, reports := t.reports }) hu
    exact frame.trans both
  · exact (keepsLine.trans (t := u) (by unfold keepsLine; rw [hl]; exact List.sublist_append_left _ _) line)
  · cases i with
    | zero =>
      cases hx
      rw [Nat.add_zero, Nat.mod_eq_of_lt small]
      exact line.subset (by rw [hl]; exact List.mem_append_right _ (List.mem_singleton_self _))
    | succ i =>
      have placed := records i x (by omega) hx
      rw [index i, recordJob_of uh] at placed
      exact placed
  · rw [← index k]
    rcases Nat.eq_zero_or_pos k with rfl | some_
    · have same := idle rfl
      have bounded : u.reports.writtenTo < (Machine.header s).reportCount := by
        rw [ur]
        exact Nat.mod_lt _ (by omega)
      have index_ : (u.reports.writtenTo + 0) % (Machine.header s).reportCount = u.reports.writtenTo :=
        Nat.mod_eq_of_lt bounded
      unfold writtenJob at update
      rw [header_of_slate uh] at update
      rw [index_]
      unfold atPort at update ⊢
      rw [same]
      exact update
    · exact written some_

/-- The drain writes from the head of the list while there is room (R181). -/
theorem drained (l : List Report) : ∀ s : State, s.reports.writtenTo < (header s).reportCount →
    Drained l s (drainHoldList l s) (min l.length (freeRoom s)) := by
  induction l with
  | nil =>
    intro s small
    rw [List.length_nil, Nat.zero_min]
    exact .none [] small
  | cons r l ih =>
    intro s small
    have pos : 0 < (header s).reportCount := by omega
    unfold drainHoldList
    split
    · next room =>
      have rest := ih (writeReport r s) (Nat.mod_lt _ pos)
      rw [show freeRoom (writeReport r s) = freeRoom s - 1 from freeRoom_advanced (n := 1) room pos] at rest
      have count : min (r :: l).length (freeRoom s) = min l.length (freeRoom s - 1) + 1 := by
        rw [List.length_cons]
        omega
      rw [count]
      exact .cons small (writeReport_eq r s) (portGoesOn_writeReport trivial fun w e => by rw [e]; trivial)
        (line_writeReport r s) (atPort_writeReport r s).2 rest
    · next full =>
      rw [Nat.eq_zero_of_not_pos full, Nat.min_zero]
      exact .none (r :: l) small

/-! ### The obligation -/

/-- Back-pressure is cleared once fewer than 16 reports wait (R181). -/
def judgePressure (s : State) : State :=
  { s with reports := { s.reports with
      backPressure := s.reports.backPressure && decide (16 ≤ s.reports.holdList.length) } }

/-- The returned-to read has ended without error: its index judged, the hold list drained (R181). -/
theorem returnedToRead_spec {s u : State} {n k : Nat}
    (small : s.reports.writtenTo < (header s).reportCount)
    (hu : u = { s with reports := { s.reports with
      returnedTo := if n < (header s).reportCount then n else s.reports.returnedTo } })
    (hk : k = min s.reports.holdList.length (freeRoom u)) :
    (returnedToRead n s).reports = { u.reports with
        writtenTo := (s.reports.writtenTo + k) % (header s).reportCount
        holdList := s.reports.holdList.drop k
        backPressure := s.reports.backPressure && decide (16 ≤ s.reports.holdList.length - k) }
      ∧ returnedToRead n s = { s with port := (returnedToRead n s).port, reports := (returnedToRead n s).reports }
      ∧ portGoesOn (fun x => x.kind.reports) s (returnedToRead n s)
      ∧ (∀ i r, i < k → s.reports.holdList[i]? = some r →
          recordJob ((s.reports.writtenTo + i) % (header s).reportCount) r s ∈ line (returnedToRead n s))
      ∧ (0 < k → atPort (writeJob .writtenTo ((header s).base + 32)
          (toBytes 2 ((s.reports.writtenTo + k) % (header s).reportCount))) (returnedToRead n s)) := by
  have start : (if n < (header s).reportCount then { s with reports := { s.reports with returnedTo := n } } else s) = u := by
    rw [hu]
    split <;> rfl
  have hold : u.reports.holdList = s.reports.holdList := by rw [hu]
  have same : header u = header s := by rw [hu]; rfl
  have index : u.reports.writtenTo = s.reports.writtenTo := by rw [hu]
  have pressure : u.reports.backPressure = s.reports.backPressure := by rw [hu]
  have room := drained u.reports.holdList u (by rw [index, same]; exact small)
  rw [hold, ← hk] at room
  have whole : returnedToRead n s = judgePressure (drainHoldList u.reports.holdList u) := by
    unfold returnedToRead
    rw [start]
    rfl
  rw [whole, hold]
  generalize drainHoldList s.reports.holdList u = d at room
  obtain ⟨reports, frame, goesOn, line, records, written, -⟩ := room
  rw [same, index] at reports records written
  refine ⟨?_, ?_, ?_, fun i r hi hr => ?_, written⟩
  · unfold judgePressure
    rw [reports]
    dsimp only
    rw [pressure, List.length_drop]
  · have first := congrArg (fun x : State => judgePressure { x with port := d.port, reports := d.reports }) hu
    exact (congrArg judgePressure frame).trans first
  · have alike : voicesAlike s u := voicesAlike_of_voices (by rw [hu])
    exact portGoesOn_of_frame (t := d) ((portGoesOn_of_port (by rw [hu])).trans alike goesOn) rfl
  · have placed := records i r hi hr
    rw [recordJob_of (s := s) (by rw [hu])] at placed
    exact placed

/-- Settles O38: the drain, then the jobs that only free the port or place one write. -/
theorem reportJobsEnd : Obligations.ReportJobsEnd := by
  refine ⟨fun e s j h hj _ small n k u hn hu hk => ?_, fun e s j h => ⟨fun hj => ?_, fun n hj => ?_, fun hj => ?_,
    fun hj => ⟨fun none_ => ?_, fun data some_ => ?_⟩⟩⟩
  · have done := jobDone_well (act := returnedToDone) h (isKind (is := JobKind.isReturnedToReadDone) hj rfl)
    obtain ⟨reports, frame, goesOn, records, written⟩ := returnedToRead_spec (s := atEnd j e s) small hu hk
    refine ⟨_, congrArg Host.Outcome.next done, ?_⟩
    have act : returnedToDone j false (atEnd j e s) = returnedToRead n (atEnd j e s) := by rw [hn]; rfl
    rw [act]
    generalize returnedToRead n (atEnd j e s) = t at reports frame goesOn records written
    have port := portOnly_arbitrate t
    have alike : voicesAlike (atEnd j e s) t := voicesAlike_of_voices (by have := congrArg State.voices frame; exact this)
    refine ⟨port.reports.trans reports, ?_, alike.trans port.2, goesOn.trans alike (portGoesOn_arbitrate t),
      fun i r hi hr => atPort_of_keepsLine (records i r hi hr) (keepsLine_arbitrate t), fun hk => ?_, ?_⟩
    · have a := congrArg (fun x : State => { x with port := s.port, voices := s.voices, reports := s.reports, mem := s.mem })
        port.1
      have b := congrArg (fun x : State => { x with port := s.port, voices := s.voices, reports := s.reports, mem := s.mem })
        frame
      exact a.trans b
    · exact atPort_arbitrate (written hk) rfl rfl
    · rw [port.mem]
      have := congrArg State.mem frame
      exact this
  · refine ⟨_, s.regs.flags ||| flagReport,
      congrArg Host.Outcome.next (jobDone_well (act := writtenToDone) h (isKind (is := JobKind.isWrittenToWriteDone) hj rfl)),
      fun b => ?_, portBut_arbitrate (setFlags flagReport (atEnd j e s))⟩
    rw [BitVec.getLsbD_or]
    congr 1
    fin_cases b <;> rfl
  · exact ⟨_, congrArg Host.Outcome.next (jobDone_well (act := plainWriteDone) h
      (isKind (is := JobKind.isReportRecordWriteDone) hj rfl)), portBut_arbitrate _⟩
  · exact ⟨_, congrArg Host.Outcome.next (jobDone_well (act := plainWriteDone) h
      (isKind (is := JobKind.isFaultRecordWriteDone) hj rfl)), portBut_arbitrate _⟩
  · have act : mirrorWriteDone j false (atEnd j e s) = atEnd j e s := by
      unfold mirrorWriteDone atEnd
      simp only [none_, Bool.false_eq_true, if_false]
    refine ⟨_, congrArg Host.Outcome.next (jobDone_well (act := mirrorWriteDone) h
      (isKind (is := JobKind.isMirrorWriteDone) hj rfl)), ?_⟩
    rw [act]
    exact portBut_arbitrate _
  · have act : mirrorWriteDone j false (atEnd j e s) = placeMirror data
        { atEnd j e s with slate := { s.slate with mirrorWaiting := none } } := by
      unfold mirrorWriteDone atEnd
      simp only [some_, Bool.false_eq_true, if_false]
    refine ⟨_, congrArg Host.Outcome.next (jobDone_well (act := mirrorWriteDone) h
      (isKind (is := JobKind.isMirrorWriteDone) hj rfl)), ?_⟩
    rw [act]
    exact portPlus_place _ _ rfl rfl

end Sys2Proof.Machine
end

section
/-! The slate scan and the writes of the slots (R42 to R44). -/

namespace Sys2Proof.Machine

/-! ### The scan -/

/-- The read of slot `i`. -/
def slotRead (i : Nat) (s : State) : Job := readJob (.slateRead i) ((header s).slate + 32 * i) 32

/-- The scan has gone on from `s`, or has ended, to `t`: no slot is touched, and only slot reads are placed. -/
structure Scanned (s t : State) : Prop where
  held : t.slate.held = s.slate.held
  queue : t.slate.queue = s.slate.queue
  frame : t = { s with port := t.port, slate := { s.slate with scan := t.slate.scan, scanWaiting := t.slate.scanWaiting } }
  goesOn : portGoesOn (fun k => ∃ n, k.kind = .slateRead n) s t
  line : keepsLine s t

theorem scanFrom_scanned (i : Nat) (s : State) : Scanned s (scanFrom i s) ∧ (scanFrom i s).slate.scan = some i
    ∧ (scanFrom i s).slate.scanWaiting = s.slate.scanWaiting ∧ slotRead i s ∈ line (scanFrom i s) :=
  ⟨⟨rfl, rfl, rfl, (portGoesOn_of_port (t := setScan (some i) s) rfl).trans (fun _ => rfl)
      (portGoesOn_place _ _ ⟨i, rfl⟩), (keepsLine_place _ (setScan (some i) s)).after rfl⟩, rfl, rfl, by
    unfold scanFrom
    rw [line_place_stays rfl]
    exact List.mem_append_right _ (List.mem_singleton_self _)⟩

/-- The scan ends; one that waits starts (R42). -/
theorem endScan_scanned (s : State) : Scanned s (endScan s) ∧ (s.slate.scanWaiting = false → (endScan s).slate.scan = none)
    ∧ (s.slate.scanWaiting = true → (endScan s).slate.scan = some 0 ∧ (endScan s).slate.scanWaiting = false
      ∧ slotRead 0 s ∈ line (endScan s)) := by
  unfold endScan
  split
  · next waits =>
    obtain ⟨scanned, scan, waiting, read⟩ := scanFrom_scanned 0 { s with slate := { s.slate with scanWaiting := false } }
    refine ⟨⟨scanned.held, scanned.queue, scanned.frame, (portGoesOn_of_port rfl).trans (fun _ => rfl) scanned.goesOn,
      scanned.line.after rfl⟩, fun h => ?_, fun _ => ⟨scan, waiting, read⟩⟩
    rw [h] at waits
    cases waits
  · next waits =>
    exact ⟨⟨rfl, rfl, rfl, portGoesOn_of_port rfl, keepsLine_of_port rfl⟩, fun _ => rfl, fun h => absurd h waits⟩

/-- The scan goes on behind slot `i`, or ends behind the last. -/
theorem scanNext_scanned (i : Nat) (s : State) : Scanned s (scanNext i s)
    ∧ (i + 1 < (header s).slotCount → (scanNext i s).slate.scan = some (i + 1)
      ∧ (scanNext i s).slate.scanWaiting = s.slate.scanWaiting ∧ slotRead (i + 1) s ∈ line (scanNext i s))
    ∧ ((header s).slotCount ≤ i + 1 → (s.slate.scanWaiting = false → (scanNext i s).slate.scan = none)
      ∧ (s.slate.scanWaiting = true → (scanNext i s).slate.scan = some 0 ∧ (scanNext i s).slate.scanWaiting = false
        ∧ slotRead 0 s ∈ line (scanNext i s))) := by
  unfold scanNext
  split
  · next more =>
    obtain ⟨scanned, scan, waiting, read⟩ := scanFrom_scanned (i + 1) s
    exact ⟨scanned, fun _ => ⟨scan, waiting, read⟩, fun last => absurd more (Nat.not_lt.mpr last)⟩
  · next last =>
    obtain ⟨scanned, none_, some_⟩ := endScan_scanned s
    exact ⟨scanned, fun more => absurd more last, fun _ => ⟨none_, some_⟩⟩

theorem isHeld_iff (i : Nat) (s : State) : isHeld i s = true ↔ ∃ h ∈ s.slate.held, h.taken.slot = i := by
  unfold isHeld
  rw [List.any_eq_true]
  simp only [beq_iff_eq]

/-- The frame of a scan and of the arbiter behind it. -/
theorem Scanned.arbitrated {s t : State} (h : Scanned s t) :
    (arbitrate t).slate = t.slate ∧ voicesAlike s (arbitrate t)
      ∧ arbitrate t = { s with port := (arbitrate t).port, voices := (arbitrate t).voices, slate := t.slate }
      ∧ portGoesOn (fun k => ∃ n, k.kind = .slateRead n) s (arbitrate t) := by
  have port := portOnly_arbitrate t
  have alike : voicesAlike s t := voicesAlike_of_voices (by have := congrArg State.voices h.frame; exact this)
  refine ⟨port.slate, alike.trans port.2, ?_, h.goesOn.trans alike (portGoesOn_arbitrate t)⟩
  have a := congrArg (fun x : State => { x with port := (arbitrate t).port, voices := (arbitrate t).voices }) port.1
  have b := congrArg (fun x : State => { x with
    port := (arbitrate t).port, voices := (arbitrate t).voices, slate := t.slate }) h.frame
  exact a.trans b

/-- A job of the line is at the port when the arbiter has acted. -/
theorem atPort_arbitrated {k : Job} {t : State} (h : k ∈ line t) : atPort k (arbitrate t) :=
  atPort_of_keepsLine h (keepsLine_arbitrate t)

theorem takeSlot_line (i : Nat) (bs : List Byte) (s : State) :
    writeJob (.takenWrite i) ((header s).slate + 32 * i) [2, 0] ∈ line (takeSlot i bs s) := by
  unfold takeSlot
  dsimp only
  rw [line_place_stays rfl]
  exact List.mem_append_right _ (List.mem_singleton_self _)

section
variable {i : Nat} {bs : List Byte} {s : State}

theorem slateRead_pressed (h : s.reports.backPressure = true) : slateRead i bs s = endScan s := if_pos h

theorem slateRead_taken (h : s.reports.backPressure = false) (hp : field bs 0 2 = 1)
    (hh : ∀ h ∈ s.slate.held, h.taken.slot ≠ i) : slateRead i bs s = scanNext i (takeSlot i bs s) := by
  have free : isHeld i s = false := by
    rw [Bool.eq_false_iff, Ne, isHeld_iff]
    rintro ⟨x, hx, e⟩
    exact hh x hx e
  have posted : isPosted bs = true := by
    unfold isPosted
    rw [hp]
    rfl
  unfold slateRead
  rw [h, if_neg Bool.false_ne_true, posted, free]
  rfl

theorem slateRead_passed (h : s.reports.backPressure = false)
    (hp : field bs 0 2 ≠ 1 ∨ ∃ h ∈ s.slate.held, h.taken.slot = i) : slateRead i bs s = scanNext i s := by
  have passed : (isPosted bs && !isHeld i s) = false := by
    rcases hp with e | e
    · rw [show isPosted bs = false from beq_eq_false_iff_ne.mpr e, Bool.false_and]
    · rw [(isHeld_iff i s).mpr e, Bool.not_true, Bool.and_false]
  unfold slateRead
  rw [h, if_neg Bool.false_ne_true, passed]
  rfl

end

/-- The end of a slot read without error, from the state `s` in which the Slate Unit acts. -/
theorem slateRead_ends (i : Nat) (bs : List Byte) (s : State) (t : State) (ht : t = arbitrate (slateRead i bs s)) :
    (s.reports.backPressure = false → field bs 0 2 = 1 → (∀ h ∈ s.slate.held, h.taken.slot ≠ i) →
        t.slate.held = s.slate.held ++ [{ taken := { slot := i, bytes := bs }, written := false, result := none, detail := [] }]
        ∧ atPort (writeJob (.takenWrite i) ((header s).slate + 32 * i) [2, 0]) t)
      ∧ ((s.reports.backPressure = true ∨ field bs 0 2 ≠ 1 ∨ ∃ h ∈ s.slate.held, h.taken.slot = i) →
          t.slate.held = s.slate.held ∧ portGoesOn (fun k => ∃ n, k.kind = .slateRead n) s t)
      ∧ (s.reports.backPressure = false → i + 1 < (header s).slotCount → t.slate.scan = some (i + 1)
          ∧ atPort (slotRead (i + 1) s) t ∧ t.slate.scanWaiting = s.slate.scanWaiting)
      ∧ (s.reports.backPressure = true ∨ (header s).slotCount ≤ i + 1 →
          (s.slate.scanWaiting = false → t.slate.scan = none)
          ∧ (s.slate.scanWaiting = true → t.slate.scan = some 0 ∧ t.slate.scanWaiting = false ∧ atPort (slotRead 0 s) t))
      ∧ t = { s with port := t.port, voices := t.voices, slate := t.slate } ∧ voicesAlike s t := by
  by_cases press : s.reports.backPressure = true
  · rw [slateRead_pressed press] at ht
    obtain ⟨scanned, none_, some_⟩ := endScan_scanned s
    obtain ⟨slate, alike, frame, goesOn⟩ := scanned.arbitrated
    rw [← ht] at slate alike frame goesOn
    refine ⟨fun h => ?_, fun _ => ⟨by rw [slate, scanned.held], goesOn⟩, fun h => ?_, fun _ => ⟨fun h => ?_, fun h => ?_⟩,
      ?_, alike⟩
    · rw [press] at h; cases h
    · rw [press] at h; cases h
    · rw [slate, none_ h]
    · obtain ⟨scan, waiting, read⟩ := some_ h
      exact ⟨by rw [slate, scan], by rw [slate, waiting], ht ▸ atPort_arbitrated read⟩
    · rw [slate]; exact frame
  · have press : s.reports.backPressure = false := Bool.eq_false_iff.mpr press
    by_cases taken : field bs 0 2 = 1 ∧ ∀ h ∈ s.slate.held, h.taken.slot ≠ i
    · obtain ⟨posted, free⟩ := taken
      rw [slateRead_taken press posted free] at ht
      obtain ⟨scanned, more, last⟩ := scanNext_scanned i (takeSlot i bs s)
      obtain ⟨slate, alike, frame, -⟩ := scanned.arbitrated
      rw [← ht] at slate alike frame
      refine ⟨fun _ _ _ => ⟨by rw [slate, scanned.held]; rfl, ?_⟩, fun h => ?_, fun _ h => ?_, fun h => ?_, ?_, alike⟩
      · rw [ht]
        exact atPort_of_keepsLine (takeSlot_line i bs s) (scanned.line.trans (keepsLine_arbitrate _))
      · rcases h with h | h | ⟨x, hx, e⟩
        · rw [press] at h; cases h
        · exact absurd posted h
        · exact absurd e (free x hx)
      · obtain ⟨scan, waiting, read⟩ := more h
        exact ⟨by rw [slate, scan], ht ▸ atPort_arbitrated read, by rw [slate, waiting]; rfl⟩
      · rcases h with h | h
        · rw [press] at h; cases h
        · obtain ⟨none_, some_⟩ := last h
          refine ⟨fun h => by rw [slate, none_ h], fun h => ?_⟩
          obtain ⟨scan, waiting, read⟩ := some_ h
          exact ⟨by rw [slate, scan], by rw [slate, waiting], ht ▸ atPort_arbitrated read⟩
      · rw [slate]; exact frame
    · have passed : field bs 0 2 ≠ 1 ∨ ∃ h ∈ s.slate.held, h.taken.slot = i := by
        by_contra none_
        push Not at none_
        exact taken none_
      rw [slateRead_passed press passed] at ht
      obtain ⟨scanned, more, last⟩ := scanNext_scanned i s
      obtain ⟨slate, alike, frame, goesOn⟩ := scanned.arbitrated
      rw [← ht] at slate alike frame goesOn
      refine ⟨fun _ h1 h2 => absurd ⟨h1, h2⟩ taken, fun _ => ⟨by rw [slate, scanned.held], goesOn⟩, fun _ h => ?_,
        fun h => ?_, ?_, alike⟩
      · obtain ⟨scan, waiting, read⟩ := more h
        exact ⟨by rw [slate, scan], ht ▸ atPort_arbitrated read, by rw [slate, waiting]⟩
      · rcases h with h | h
        · rw [press] at h; cases h
        · obtain ⟨none_, some_⟩ := last h
          refine ⟨fun h => by rw [slate, none_ h], fun h => ?_⟩
          obtain ⟨scan, waiting, read⟩ := some_ h
          exact ⟨by rw [slate, scan], by rw [slate, waiting], ht ▸ atPort_arbitrated read⟩
      · rw [slate]; exact frame

/-! ### Fault Capture -/

theorem addressWord_inside {a : Nat} (h : a < 2 ^ 32) (s : State) : addressWord s a = BitVec.ofNat 32 a := if_pos h

/-- A failed job that finds no record is captured with its address (R183). -/
theorem captureJob_first {k : FaultKind} {j : Job} {s : State} (h : s.fault.record = none) (ha : j.address < 2 ^ 32) :
    (captureJob k j s).fault.record = some
      { source := (j.kind.faultSource s).1, kind := k, address := BitVec.ofNat 32 j.address
        detail := (j.kind.faultSource s).2 } := by
  unfold captureJob
  rw [(capture_first (s := nextFree s) h).1, addressWord_inside ha]

/-- Settles O24. -/
theorem slateReadTakesSlot : Obligations.SlateReadTakesSlot := by
  refine ⟨fun e s j i h hj scan => ⟨_, congrArg Host.Outcome.next (jobDone_well (act := slateReadDone) h
      (isKind (is := JobKind.isSlateReadDone) hj rfl)), ?_⟩,
    fun e s j i h hj scan => ⟨_, congrArg Host.Outcome.next (jobDone_bad (act := slateReadDone) h
      (isKind (is := JobKind.isSlateReadDone) hj rfl)), ?_⟩⟩
  · have act : slateReadDone j false (atEnd j e s) = slateRead i (delivered j e s) (atEnd j e s) := by
      unfold slateReadDone
      rw [hj]
      exact if_pos scan
    obtain ⟨taken, passed, more, last, frame, alike⟩ := slateRead_ends i (delivered j e s) (atEnd j e s) _ rfl
    rw [act]
    generalize arbitrate (slateRead i (delivered j e s) (atEnd j e s)) = t at taken passed more last frame alike
    refine ⟨taken, passed, more, last, ?_, alike, ?_⟩
    · have same := congrArg (fun x : State => { x with
        port := s.port, voices := s.voices, slate := s.slate, mem := s.mem }) frame
      exact same
    · have same := congrArg State.mem frame
      exact same
  · have act : slateReadDone j true (atFault j e s) = scanNext i (captureJob .read j (atFault j e s)) := by
      unfold slateReadDone
      rw [hj]
      refine if_pos ?_
      rw [if_pos rfl, captureJob_slate]
      exact scan
    rw [act]
    generalize hu : captureJob .read j (atFault j e s) = u
    have slate : u.slate = s.slate := by rw [← hu, captureJob_slate]; rfl
    have same : header u = header s := header_of_slate (by rw [slate])
    obtain ⟨scanned, more, last⟩ := scanNext_scanned i u
    obtain ⟨kept, alike, frame, -⟩ := scanned.arbitrated
    rw [same, slate] at more last
    unfold slotRead at more last
    rw [same] at more last
    have frame := frame
    generalize ht : arbitrate (scanNext i u) = t at kept alike frame
    refine ⟨by rw [kept, scanned.held, slate], by rw [kept, scanned.queue, slate], fun free inside => ?_, fun h => ?_,
      fun h => ?_, ?_, ?_, ?_, ?_⟩
    · have fault : t.fault = u.fault := by have := congrArg State.fault frame; exact this
      rw [fault, ← hu, captureJob_first (s := atFault j e s) free inside, hj]
      rfl
    · obtain ⟨scan, waiting, read⟩ := more h
      exact ⟨by rw [kept, scan], by rw [kept, waiting], ht ▸ atPort_arbitrated read⟩
    · obtain ⟨none_, some_⟩ := last h
      refine ⟨fun h => by rw [kept, none_ h], fun h => ?_⟩
      obtain ⟨scan, waiting, read⟩ := some_ h
      exact ⟨by rw [kept, scan], by rw [kept, waiting], ht ▸ atPort_arbitrated read⟩
    · refine voicesAlike.trans (t := u) (voicesAlike_of_voices ?_) alike
      rw [← hu, captureJob_voices]
      rfl
    · have mem : t.mem = u.mem := by have := congrArg State.mem frame; exact this
      rw [mem, ← hu, captureJob_mem]
    · have regs : t.regs = u.regs := by have := congrArg State.regs frame; exact this
      rw [regs, ← hu, captureJob_part]
      rfl
    · have reports : t.reports = u.reports := by have := congrArg State.reports frame; exact this
      rw [reports, ← hu, captureJob_reports]
      rfl

end Sys2Proof.Machine
end

section
/-! The ends of TAKEN and completion writes (R42 to R44). -/

namespace Sys2Proof.Machine

/-! ### The mark of a TAKEN write that is done -/

theorem find_markWritten (i k : Nat) (l : List Held) : (markWritten i l).find? (fun h => h.taken.slot == k) =
    if k = i then (l.find? fun h => h.taken.slot == k).map fun h => { h with written := true }
    else l.find? fun h => h.taken.slot == k := by
  induction l with
  | nil => simp [markWritten]
  | cons h l ih =>
    unfold markWritten
    by_cases hi : h.taken.slot = i
    · rw [if_pos hi, List.find?_cons, List.find?_cons]
      by_cases hk : k = i
      · simp [hi, hk]
      · have other : (h.taken.slot == k) = false := by simpa [hi] using Ne.symm hk
        simp [hk, other]
    · rw [if_neg hi, List.find?_cons, List.find?_cons, ih]
      by_cases hk : k = i
      · have other : (h.taken.slot == k) = false := beq_eq_false_iff_ne.mpr (hk ▸ hi)
        simp only [if_pos hk, other]
      · simp only [if_neg hk]

/-- The state in which the TAKEN write of slot `i` is done. -/
def taken (i : Nat) (s : State) : State := { s with slate := { s.slate with held := markWritten i s.slate.held } }

theorem taken_slotAt (i k : Nat) (s : State) :
    slotAt k (taken i s) = if k = i then (slotAt k s).map fun h => { h with written := true } else slotAt k s :=
  find_markWritten i k s.slate.held

theorem takenWritten_queues {i : Nat} {s : State} {h : Held} (hs : slotAt i s = some h) (hr : h.result = none)
    (hrun : isRunning s = true) : takenWritten i s = settleQueue (s.slate.queue ++ [h.taken]) (taken i s) := by
  unfold slotAt at hs
  unfold takenWritten
  simp only [hs, hr]
  exact if_pos hrun

/-- The head of the queue decodes: nothing is settled (R43). -/
theorem settleQueue_decoded {l : List Taken} (h : ∀ x ∈ l, ∃ q, decodeRequest x.bytes = .ok q) (s : State) :
    settleQueue l s = { s with slate := { s.slate with queue := l } } := by
  cases l with
  | nil => rfl
  | cons t l =>
    obtain ⟨q, hq⟩ := h t List.mem_cons_self
    unfold settleQueue
    simp only [hq]

theorem slotAt_slot {i : Nat} {s : State} {h : Held} (hs : slotAt i s = some h) : h.taken.slot = i := by
  simpa using List.find?_some hs

/-- A taken request that can be decoded joins the tail of the intake queue. -/
theorem takenWritten_ok {i : Nat} {s t : State} {h : Held} (hs : slotAt i s = some h) (hr : h.result = none)
    (hrun : isRunning s = true) {r : Request} (hd : decodeRequest h.taken.bytes = .ok r)
    (hq : ∀ x ∈ s.slate.queue, ∃ q, decodeRequest x.bytes = .ok q) (ht : t = arbitrate (takenWritten i s)) :
    t.slate.queue = s.slate.queue ++ [h.taken] ∧ slotAt i t = some { h with written := true } ∧ slateBut i s t := by
  have all : ∀ x ∈ s.slate.queue ++ [h.taken], ∃ q, decodeRequest x.bytes = .ok q := fun x hx => by
    rcases List.mem_append.mp hx with hx | hx
    · exact hq x hx
    · rw [List.mem_singleton.mp hx]
      exact ⟨r, hd⟩
  rw [takenWritten_queues hs hr hrun, settleQueue_decoded all] at ht
  generalize hw : ({ taken i s with slate := { (taken i s).slate with queue := s.slate.queue ++ [h.taken] } } : State) = w
    at ht
  have slots : ∀ k, slotAt k w = slotAt k (taken i s) := fun k => by rw [← hw]; rfl
  have port := portOnly_arbitrate w
  rw [← ht] at port
  refine ⟨by rw [port.slate, ← hw], ?_, ⟨?_, ?_, ?_, fun k hk _ => ?_⟩, ?_⟩
  · rw [port.slotAt, slots, taken_slotAt, if_pos rfl, hs]
    rfl
  · have a := congrArg (fun x : State => { x with port := s.port, voices := s.voices, slate := s.slate }) port.1
    have b := congrArg (fun x : State => { x with port := s.port, voices := s.voices, slate := s.slate }) hw
    exact a.trans b.symm
  · exact (voicesAlike_of_voices (by rw [← hw]; rfl)).trans port.2
  · rw [port.slate, ← hw]
    rfl
  · rw [port.slotAt, slots, taken_slotAt, if_neg hk]
  · rw [ht]
    exact (portGoesOn_of_port (t := w) (by rw [← hw]; rfl)).trans (voicesAlike_of_voices (by rw [← hw]; rfl))
      (portGoesOn_arbitrate w)

/-- A taken request that cannot be decoded completes its slot at once. -/
theorem takenWritten_error {i : Nat} {s t : State} {h : Held} (hs : slotAt i s = some h) (hr : h.result = none)
    (hrun : isRunning s = true) {c : ResultCode} (hd : decodeRequest h.taken.bytes = .error c)
    (hq : s.slate.queue = []) (ht : t = arbitrate (takenWritten i s)) :
    t.slate.queue = [] ∧ resultOf i t = some (c, [])
      ∧ atPort (writeJob (.completionWrite i) ((header s).slate + 32 * i) (completionBytes h.taken.bytes c [])) t
      ∧ slateBut i s t := by
  have slot := slotAt_slot hs
  have marked : slotAt i (taken i s) = some { h with written := true } := by
    rw [taken_slotAt, if_pos rfl, hs]
    rfl
  have waits : awaiting i (taken i s) := ⟨_, marked, hr⟩
  have whole : takenWritten i s = settleQueue [] (giveResult i c [] (taken i s)) := by
    rw [takenWritten_queues hs hr hrun, hq, List.nil_append]
    unfold settleQueue
    simp only [hd, slot]
    rfl
  rw [whole] at ht
  have line := line_giveResult (r := c) (d := []) marked hr rfl
  generalize hu : giveResult i c [] (taken i s) = u at ht line
  have uv : u.voices = s.voices := by rw [← hu, giveResult_voices]; rfl
  have port := portOnly_arbitrate (settleQueue [] u)
  rw [← ht] at port
  refine ⟨by rw [port.slate]; rfl, ?_, ?_, ⟨?_, ?_, ?_, fun k hk _ => ?_⟩, ?_⟩
  · rw [port.resultOf]
    refine settleQueue_resultOf i [] u _ ?_
    rw [← hu]
    exact giveResult_resultOf c [] waits
  · rw [ht]
    refine atPort_of_keepsLine (s := u) ?_ ((keepsLine_settleQueue [] u).trans (keepsLine_arbitrate _))
    rw [line]
    exact List.mem_append_right _ (List.mem_singleton_self _)
  · have a := congrArg (fun x : State => { x with port := s.port, voices := s.voices, slate := s.slate }) port.1
    have b := congrArg (fun x : State => { x with port := s.port, voices := s.voices, slate := s.slate })
      (giveResult_eq i c [] (taken i s))
    rw [hu] at b
    exact a.trans b
  · exact (voicesAlike_of_voices uv).trans port.2
  · have slate := congrArg (fun x : State => { x.slate with held := s.slate.held, queue := s.slate.queue })
      (giveResult_eq i c [] (taken i s))
    rw [hu] at slate
    rw [port.slate]
    exact slate
  · rw [port.slotAt, settleQueue_slotAt k [] u (by simp), ← hu, giveResult_slotAt_other _ _ _ hk, taken_slotAt, if_neg hk]
  · rw [ht]
    refine (portGoesOn.trans (t := u) ?_ (voicesAlike_of_voices uv) (portGoesOn_of_port (t := settleQueue [] u) rfl)).trans
      (voicesAlike_of_voices uv) (portGoesOn_arbitrate _)
    rw [← hu]
    exact (portGoesOn_of_port (t := taken i s) rfl).trans (fun _ => rfl) (portGoesOn_giveResult _ _ _ _ fun _ => id)

/-! ### The end of a completion write -/

theorem slotAt_freed (i k : Nat) (s : State) (x : Registers) :
    slotAt k { s with regs := x, slate := { s.slate with held := s.slate.held.filter fun h => h.taken.slot != i } } =
      if k = i then none else slotAt k s := by
  unfold slotAt
  dsimp only
  rw [List.find?_filter]
  by_cases hk : k = i
  · rw [if_pos hk, List.find?_eq_none]
    intro h _
    simp [hk]
  · rw [if_neg hk]
    congr 1
    funext h
    by_cases e : h.taken.slot = k
    · simp [e, hk]
    · simp [e]

/-- Settles O25. -/
theorem slotWritesEnd : Obligations.SlotWritesEnd := by
  refine ⟨fun e s j i h well hj hrun hs hr => ?_, fun e s j i well hj => ?_⟩
  · have done := jobDone_well (act := takenWriteDone) well (isKind (is := JobKind.isTakenWriteDone) hj rfl)
    have act : takenWriteDone j false (atEnd j e s) = takenWritten i (atEnd j e s) := by
      unfold takenWriteDone
      rw [hj]
      rfl
    rw [act] at done
    exact ⟨fun r hd hq => ⟨_, congrArg Host.Outcome.next done, takenWritten_ok (s := atEnd j e s) hs hr hrun hd hq rfl⟩,
      fun c hd hq => ⟨_, congrArg Host.Outcome.next done, takenWritten_error (s := atEnd j e s) hs hr hrun hd hq rfl⟩⟩
  · have done := jobDone_well (act := completionWriteDone) well (isKind (is := JobKind.isCompletionWriteDone) hj rfl)
    have act : completionWriteDone j false (atEnd j e s) = { atEnd j e s with
        regs := { s.regs with flags := s.regs.flags ||| flagSlate }
        slate := { s.slate with held := s.slate.held.filter fun h => h.taken.slot != i } } := by
      unfold completionWriteDone
      rw [hj]
      rfl
    rw [act] at done
    generalize hw : ({ atEnd j e s with
        regs := { s.regs with flags := s.regs.flags ||| flagSlate }
        slate := { s.slate with held := s.slate.held.filter fun h => h.taken.slot != i } } : State) = w at done
    have port := portOnly_arbitrate w
    have slots : ∀ k, slotAt k w = if k = i then none else slotAt k s := fun k => by
      rw [← hw]
      exact slotAt_freed i k (atEnd j e s) _
    refine ⟨_, s.regs.flags ||| flagSlate, congrArg Host.Outcome.next done, ?_, fun k hk => ?_, fun b => ?_, ?_⟩
    · rw [port.slotAt, slots, if_pos rfl]
    · rw [port.slotAt, slots, if_neg hk]
    · rw [BitVec.getLsbD_or]
      congr 1
      fin_cases b <;> rfl
    · have same : { atEnd j e s with
          regs := { s.regs with flags := s.regs.flags ||| flagSlate }
          slate := { s.slate with held := (arbitrate w).slate.held } } = w := by
        rw [port.slate, ← hw]
      rw [same]
      exact portBut_arbitrate w

end Sys2Proof.Machine
end

section
/-! A start that fails, and the busy writes of a switch (R38, R174). -/

namespace Sys2Proof.Machine

/-! ### A start that fails -/

/-- A start has failed with code `f` from `u`, and the arbiter has acted: `t` is `u` but for the part state, the switch and
the hold list. -/
structure StartFailed (f : StartFault) (u t : State) : Prop where
  part : t.regs.part = .failed
  code : t.regs.startFault = f
  run : t.run = { u.run with switch := none, staging := none }
  voices : voicesAlike u t
  mem : t.mem = u.mem
  clock : t.clock = u.clock
  slate : t.slate = u.slate
  fault : t.fault = u.fault
  trigger : t.trigger = u.trigger
  resolver : t.resolver = u.resolver
  mix : t.mix = u.mix

theorem startFailed (f : StartFault) (u : State) : StartFailed f u (arbitrate (failStart f u)) := by
  have port := portOnly_arbitrate (failStart f u)
  exact ⟨by rw [port.regs]; rfl, by rw [port.regs]; rfl, by rw [port.run]; rfl,
    (voicesAlike_of_voices rfl).trans port.2, by rw [port.mem]; rfl, by rw [port.clock]; rfl, by rw [port.slate]; rfl,
    by rw [port.fault]; rfl, by rw [port.trigger]; rfl, by rw [port.resolver]; rfl, by rw [port.mix]; rfl⟩

/-- A start fails with a memory error, which is captured first (R38, R183). -/
theorem startFailed_captured (f : StartFault) (k : FaultKind) (j : Job) (s : State) :
    ∃ t, t = arbitrate (failStart f (captureJob k j s))
      ∧ (t.regs.part = .failed ∧ t.regs.startFault = f ∧ t.run = { s.run with switch := none, staging := none })
      ∧ voicesAlike s t ∧ t.mem = s.mem ∧ t.clock = s.clock ∧ t.slate = s.slate
      ∧ (s.fault.record = none → j.address < 2 ^ 32 → t.fault.record = some
          { source := (j.kind.faultSource s).1, kind := k, address := BitVec.ofNat 32 j.address
            detail := (j.kind.faultSource s).2 }) := by
  have failed := startFailed f (captureJob k j s)
  refine ⟨_, rfl, ⟨failed.part, failed.code, by rw [failed.run, captureJob_run]⟩,
    (voicesAlike_of_voices (captureJob_voices k j s)).trans failed.voices, by rw [failed.mem, captureJob_mem],
    by rw [failed.clock, captureJob_clock], by rw [failed.slate, captureJob_slate], fun free inside => ?_⟩
  rw [failed.fault]
  exact captureJob_first free inside

/-! ### A result given at the end of a job -/

/-- The owner of a job gives a slot its result when the job ends, and the arbiter acts. -/
theorem gives_arbitrated {i : Nat} {r : ResultCode} {d : List Byte} {u t : State} (h : awaiting i u)
    (ht : t = arbitrate (giveResult i r d u)) : resultOf i t = some (r, d) ∧ slateBut i u t := by
  have port := portOnly_arbitrate (giveResult i r d u)
  have alike : voicesAlike u (giveResult i r d u) := voicesAlike_of_voices (giveResult_voices i r d u)
  rw [ht]
  refine ⟨?_, ⟨?_, alike.trans port.2, ?_, fun k hk _ => ?_⟩, ?_⟩
  · rw [port.resultOf]
    exact giveResult_resultOf r d h
  · have a := congrArg (fun x : State => { x with port := u.port, voices := u.voices, slate := u.slate }) port.1
    have b := congrArg (fun x : State => { x with port := u.port, voices := u.voices, slate := u.slate })
      (giveResult_eq i r d u)
    exact a.trans b
  · rw [port.slate]
    have same := congrArg (fun x : State => { x.slate with held := u.slate.held, queue := u.slate.queue })
      (giveResult_eq i r d u)
    exact same
  · rw [port.slotAt, giveResult_slotAt_other r d u hk]
  · exact (portGoesOn_giveResult i r d u fun _ => id).trans alike (portGoesOn_arbitrate _)

/-! ### The busy writes -/

section
variable {j : Job} {i : Nat} {w : Switch} {s : State} (hw : s.run.switch = some w)
include hw

/-- Behind busy 0 the busy 1 write of the target is placed, in RUNNING only (R174). -/
theorem busyWriteDone_off (hj : j.kind = .busyWrite i false) : busyWriteDone j false s =
    if isRunning s then place (busyJob s w.target true) s else setSwitch none none s := by
  unfold busyWriteDone
  rw [hw, hj]
  rfl

/-- Behind busy 1 the switch ends (R174). -/
theorem busyWriteDone_on (hj : j.kind = .busyWrite i true) : busyWriteDone j false s = endSwitch w s := by
  unfold busyWriteDone
  rw [hw, hj]
  rfl

end

theorem endSwitch_slot {w : Switch} {slot p : Nat} (hs : w.slot = some slot) (hp : w.previous = some p) (s : State) :
    endSwitch w s = giveResult slot .ok (toBytes 1 p ++ toBytes 1 w.target ++ toBytes 1 w.rules)
      (nextFree (setSwitch none none s)) := by
  unfold endSwitch
  rw [hs, hp]
  rfl

theorem endSwitch_start {w : Switch} (hs : w.slot = none) (s : State) :
    endSwitch w s = startReports (setSwitch none none s) := by
  unfold endSwitch
  rw [hs]

/-- Settles O36. -/
theorem busyWritesEnd : Obligations.BusyWritesEnd := by
  intro e s j w i hw
  have done : ∀ {bad : Bool} {u v : State},
      jobDone JobKind.isBusyWriteDone e busyWriteDone s = arbitrate (busyWriteDone j bad u) → busyWriteDone j bad u = v →
      exec (.busyWriteDone e) s = .next (arbitrate v) := fun ends acts =>
    congrArg Host.Outcome.next (ends.trans (congrArg arbitrate acts))
  have ends : ∀ {value : Bool}, endsWell j e s → j.kind = .busyWrite i value →
      jobDone JobKind.isBusyWriteDone e busyWriteDone s = arbitrate (busyWriteDone j false (atEnd j e s)) := fun well hj =>
    jobDone_well well (isKind hj rfl)
  have switch : (atEnd j e s).run.switch = some w := hw
  refine ⟨fun well hj hr => ⟨_, done (ends well hj) ((busyWriteDone_off switch hj).trans (if_pos hr)), ?_⟩,
    fun well hj hr => ⟨_, done (ends well hj) ((busyWriteDone_off switch hj).trans (if_neg (Bool.eq_false_iff.mp hr))), ?_⟩,
    fun well hj => ?_, fun value bad hj hp hs => ?_⟩
  · exact portPlus_place _ _ rfl rfl
  · exact portBut_arbitrate _
  · have done := done (ends well hj) (busyWriteDone_on switch hj)
    refine ⟨fun slot p hslot hprev waits => ?_, fun hslot => ?_⟩
    · rw [endSwitch_slot hslot hprev] at done
      exact ⟨_, done, gives_arbitrated (u := nextFree (setSwitch none none (atEnd j e s))) waits rfl⟩
    · rw [endSwitch_start hslot] at done
      exact ⟨_, done, portPlus_place _ _ rfl rfl⟩
  · have act : busyWriteDone j true (atFault j e s) = failStart .sceneInitial (captureJob .write j (atFault j e s)) := by
      unfold busyWriteDone
      rw [if_pos rfl]
      refine if_pos ⟨hp, ?_⟩
      unfold initialSwitch
      rw [show (atFault j e s).run.switch = some w from hw]
      exact Option.isNone_iff_eq_none.mpr hs
    obtain ⟨t, ht, ⟨part, code, run⟩, voices, mem, clock, slate, fault⟩ :=
      startFailed_captured .sceneInitial .write j (atFault j e s)
    refine ⟨t, (done (jobDone_bad bad (isKind hj rfl)) act).trans (congrArg Host.Outcome.next ht.symm),
      part, code, by rw [run], voices, mem, clock, slate, fun free inside => ?_⟩
    rw [fault free inside, hj]
    rfl

end Sys2Proof.Machine
end

section
/-! A PIN job that ends (R148, R149). -/

namespace Sys2Proof.Machine

/-- The entry whose PIN job slot `i` placed. -/
theorem pinEntry_of_mem {s : State} {x : CacheEntry} {i : Nat} {dropping : Bool} (hx : x ∈ s.cache)
    (hs : x.state = .pending i dropping) (only : ∀ y ∈ s.cache, ∀ d, y.state = .pending i d → y = x) :
    s.cache.find? (fun e => e.state.owner == some i) = some x := by
  cases found : s.cache.find? fun e => e.state.owner == some i with
  | none =>
    have absent := List.find?_eq_none.mp found x hx
    rw [hs] at absent
    exact absurd (beq_self_eq_true _) absent
  | some y =>
    have owner : y.state.owner = some i := by simpa using List.find?_some found
    have pending : ∃ d, y.state = .pending i d := by
      cases hy : y.state with
      | pending o d =>
        rw [hy] at owner
        cases owner
        exact ⟨d, rfl⟩
      | present fs =>
        rw [hy] at owner
        cases owner
    obtain ⟨d, hd⟩ := pending
    rw [only y (List.mem_of_find?_eq_some found) d hd]

section
variable {j : Job} {i : Nat} {x : CacheEntry} {s : State} (hj : j.kind = .pin i)
  (hx : s.cache.find? (fun e => e.state.owner == some i) = some x)
include hj hx

/-- A PIN job ends without error, and its entry is PRESENT. -/
theorem pinDone_present (hd : x.state.dropping = false) : pinDone j false s =
    giveResult i .ok (toBytes 1 s.cache.length ++ toBytes 1 x.format.code)
      (setEntry x.address (.present (decodeFrames x.format 2048 0 (readData j s))) s) := by
  unfold pinDone
  rw [hj]
  simp only [Bool.false_eq_true, if_false, hx, hd]
  rfl

/-- A PIN job ends, and its entry was to be dropped. -/
theorem pinDone_dropping (hd : x.state.dropping = true) : pinDone j false s =
    giveResult i .abandoned [] (dropEntry x.address s) := by
  unfold pinDone
  rw [hj]
  simp only [Bool.false_eq_true, if_false, hx, hd, if_true]

/-- A PIN job ends with a memory error. -/
theorem pinDone_failed (hd : x.state.dropping = false) (ha : j.address < 2 ^ 32) : pinDone j true s =
    giveResult i .memoryError ([0, 0, 0, 0] ++ toBytes 4 j.address) (dropEntry x.address (captureJob .read j s)) := by
  unfold pinDone
  rw [hj]
  simp only [if_true, captureJob_cache, hx, hd, Bool.false_eq_true, if_false]
  rw [addressWord_inside ha, BitVec.toNat_ofNat, Nat.mod_eq_of_lt ha]

end

/-- Settles O34. -/
theorem pinJobEnds : Obligations.PinJobEnds := by
  intro e s j i x dropping hj sound hx hs only waits
  have found := pinEntry_of_mem hx hs only
  have mark : x.state.dropping = dropping := by rw [hs]; rfl
  refine ⟨fun well drop => ?_, fun bad drop inside => ?_, fun well drop => ?_⟩
  · have done := (jobDone_well (act := pinDone) well (isKind (is := JobKind.isPinJobDone) hj rfl)).trans
      (congrArg arbitrate (pinDone_present (s := atEnd j e s) hj found (mark.trans drop)))
    generalize ht : arbitrate (giveResult i .ok _ _) = t at done
    obtain ⟨result, but⟩ := gives_arbitrated (u := setEntry _ _ (atEnd j e s)) waits ht.symm
    obtain ⟨marked, others, length⟩ := setEntry_cache (s := atEnd j e s) sound hx
      (.present (decodeFrames x.format 2048 0 (delivered j e s)))
    have cache := but.1.cache
    refine ⟨t, congrArg Host.Outcome.next done, result, ?_⟩
    rw [cache]
    exact ⟨marked, length, others, but⟩
  · have done := (jobDone_bad (act := pinDone) bad (isKind (is := JobKind.isPinJobDone) hj rfl)).trans
      (congrArg arbitrate (pinDone_failed (s := atFault j e s) hj found (mark.trans drop) inside))
    generalize hu : captureJob .read j (atFault j e s) = u at done
    have slots : slotAt i (dropEntry x.address u) = slotAt i s := by
      rw [← hu]
      exact congrArg (fun y : SlateUnit => y.held.find? fun h => h.taken.slot == i) (captureJob_slate _ _ _)
    obtain ⟨result, ⟨frame, alike, -⟩, -⟩ := gives_arbitrated (u := dropEntry x.address u)
      (r := .memoryError) (d := [0, 0, 0, 0] ++ toBytes 4 j.address) (awaiting_of_slotAt slots waits) rfl
    refine ⟨_, congrArg Host.Outcome.next done, result, ?_, ?_, ?_, fun free => ?_⟩
    · have cache := congrArg State.cache frame
      refine cache.trans ?_
      show u.cache.filter _ = _
      rw [← hu, captureJob_cache]
      rfl
    · exact (voicesAlike_of_voices (by rw [← hu]; exact captureJob_voices _ _ _)).trans alike
    · have mem := congrArg State.mem frame
      refine mem.trans ?_
      rw [← hu]
      exact captureJob_mem _ _ _
    · have fault := congrArg State.fault frame
      have same : (dropEntry x.address u).fault = u.fault := rfl
      rw [same] at fault
      rw [show (arbitrate _).fault = u.fault from fault, ← hu, captureJob_first (s := atFault j e s) free inside, hj]
      rfl
  · have done := (jobDone_well (act := pinDone) well (isKind (is := JobKind.isPinJobDone) hj rfl)).trans
      (congrArg arbitrate (pinDone_dropping (s := atEnd j e s) hj found (mark.trans drop)))
    exact ⟨_, congrArg Host.Outcome.next done, gives_arbitrated (u := dropEntry x.address (atEnd j e s)) waits rfl⟩

end Sys2Proof.Machine
end

section
/-! A scene switch commits, or is abandoned (R158, R172 to R174). -/

namespace Sys2Proof.Machine

/-! ### Duck groups re-judged (R156, R157) -/

/-- Whether a group is to be keyed: by a voice, or by its key line (R156). -/
def Duck.judged (lines : Vector Qualifier 16) (d : Duck) : Bool := d.keying != 0 || d.lineKeyed lines

theorem rejudge_eq (lines : Vector Qualifier 16) (d : Duck) : d.rejudge lines = { d with
    keyed := d.judged lines
    sub := if d.judged lines = d.keyed then d.sub else 0
    due := if d.judged lines = d.keyed then d.due else false } := by
  unfold Duck.rejudge
  show (if (d.judged lines == d.keyed) = true then d else _) = _
  by_cases h : d.judged lines = d.keyed
  · rw [if_pos (beq_iff_eq.mpr h), if_pos h, if_pos h, h]
  · rw [if_neg fun e => h (beq_iff_eq.mp e), if_neg h, if_neg h]
    rfl

theorem judged_iff (lines : Vector Qualifier 16) (d : Duck) :
    d.judged lines = true ↔ d.keying ≠ 0 ∨ ∃ n, d.keyLine = some n ∧ lines[n].level = true := by
  unfold Duck.judged Duck.lineKeyed
  rw [Bool.or_eq_true, bne_iff_ne]
  refine or_congr_right ?_
  split
  · next n h => simp [h]
  · next h => simp [h]

/-! ### The commit -/

/-- The busy write with which a commit begins its marking (R174). -/
def markJob (w : Switch) (s : State) : Job :=
  match w.previous with
  | some p => busyJob s p false
  | none => busyJob s w.target true

/-- The mix behind a commit (R158, R162). -/
def committedMix (r : SceneRecord) (s : State) : Mix := { s.mix with
  buses := Vector.ofFn fun b : Fin 4 => { s.mix.buses[b] with trim := r.trims[b] }
  ducks := Vector.ofFn fun g : Fin 4 => (s.mix.ducks[g].configure r.ducks[g]).rejudge s.trigger.lines }

/-- The switch record and the current scene behind a commit (R173). -/
def committedRun (w : Switch) (rules : List Rule) (s : State) : RunControl := { s.run with
  current := some w.target, staging := none, switch := some { w with phase := .marking, rules := rules.length } }

/-- Put the four units that a commit changes. -/
def putUnits (t : Trigger) (c : Resolver) (m : Mix) (n : RunControl) (s : State) : State :=
  { s with trigger := t, resolver := c, mix := m, run := n }

theorem portOnly.of_putUnits {t : Trigger} {c : Resolver} {m : Mix} {n : RunControl} {s u : State}
    (h : portOnly (putUnits t c m n s) u) : u.trigger = t ∧ u.resolver = c ∧ u.mix = m ∧ u.run = n
      ∧ u.mem = s.mem ∧ u.clock = s.clock ∧ u.regs = s.regs ∧ u.slate = s.slate ∧ u.tally = s.tally
      ∧ u.schedule = s.schedule ∧ u.cache = s.cache ∧ u.startOrder = s.startOrder ∧ voicesAlike s u :=
  ⟨h.trigger, h.resolver, h.mix, h.run, h.mem, h.clock, h.regs, h.slate, h.tally, h.schedule, h.cache, h.startOrder,
    voicesAlike.trans (t := putUnits t c m n s) (fun _ => rfl) h.2⟩

/-- A commit before its busy write is placed. -/
def commitOnly (w : Switch) (r : SceneRecord) (rules : List Rule) (s : State) : State :=
  putUnits (commitTrigger r rules s).trigger (commitResolver r s).resolver (committedMix r s) (committedRun w rules s) s

theorem rejudge_mapDucks (f : Fin 4 → Duck → Duck) (s : State) : rejudgeDucks (mapDucks f s) = { s with mix := { s.mix with
    ducks := Vector.ofFn fun g : Fin 4 => (f g s.mix.ducks[g]).rejudge s.trigger.lines } } := by
  unfold rejudgeDucks
  rw [mapDucks, mapDucks_mix, mapDucks_trigger]
  simp only [Fin.getElem_fin, Vector.getElem_ofFn]
  rfl

theorem commitMix_eq (r : SceneRecord) (s : State) : commitMix r s = { s with mix := committedMix r s } :=
  rejudge_mapDucks _ _

theorem busyJob_of {s t : State} (h : t.slate.header = s.slate.header) (i : Nat) (value : Bool) :
    busyJob t i value = busyJob s i value := by
  unfold busyJob sceneAddress
  rw [header_of_slate h]

/-- The mix behind a commit depends on the line levels and the mix only. -/
theorem commitMix_putUnits {t : Trigger} {r : SceneRecord} {s : State} (h : t.lines = s.trigger.lines) (c : Resolver)
    (n : RunControl) : { commitMix r (putUnits t c s.mix s.run s) with run := n } = putUnits t c (committedMix r s) n s := by
  rw [commitMix_eq]
  unfold committedMix putUnits
  dsimp only
  rw [h]

theorem commitResolver_eq (r : SceneRecord) (rules : List Rule) (s : State) : commitResolver r (commitTrigger r rules s) =
    putUnits (commitTrigger r rules s).trigger (commitResolver r s).resolver s.mix s.run s := by
  unfold commitResolver commitTrigger putUnits setTrigger
  dsimp only

theorem markJob_of {s t : State} (h : t.slate.header = s.slate.header) (w : Switch) : markJob w t = markJob w s := by
  unfold markJob
  split
  · exact busyJob_of h _ _
  · exact busyJob_of h _ _

theorem putUnits_header (t : Trigger) (c : Resolver) (m : Mix) (n : RunControl) (s : State) :
    (putUnits t c m n s).slate.header = s.slate.header := rfl

/-- A commit places its busy write last. -/
theorem commitScene_marks (w : Switch) (r : SceneRecord) (rules : List Rule) (s u : State)
    (hu : u = commitMix r (commitResolver r (commitTrigger r rules s))) : commitScene w r rules s =
      place (markJob w { u with run := committedRun w rules u }) { u with run := committedRun w rules u } := by
  unfold commitScene markJob committedRun
  rw [← hu]
  cases w with
  | mk target previous slot tag phase n => cases previous <;> rfl

theorem commitScene_eq (w : Switch) (r : SceneRecord) (rules : List Rule) (s : State) :
    commitScene w r rules s = place (markJob w s) (commitOnly w r rules s) := by
  have lines : (commitTrigger r rules s).trigger.lines = s.trigger.lines := by
    unfold commitTrigger setTrigger
    dsimp only
  have run : ∀ t c, committedRun w rules (commitMix r (putUnits t c s.mix s.run s)) = committedRun w rules s := fun t c => by
    rw [commitMix_eq]
    unfold committedRun putUnits
    dsimp only
  rw [commitScene_marks w r rules s _ rfl, commitResolver_eq, run, commitMix_putUnits lines]
  exact congrArg (place · _) (markJob_of (putUnits_header _ _ _ _ s) w)

theorem committedMix_duck (r : SceneRecord) (s : State) (g : Fin 4) :
    (committedMix r s).ducks[g] = (s.mix.ducks[g].configure r.ducks[g]).rejudge s.trigger.lines := by
  unfold committedMix
  rw [Fin.getElem_fin, Vector.getElem_ofFn]

theorem committedMix_trim (r : SceneRecord) (s : State) (b : Fin 4) : (committedMix r s).buses[b].trim = r.trims[b] := by
  unfold committedMix
  rw [Fin.getElem_fin, Vector.getElem_ofFn]

theorem atPort_markJob (w : Switch) (s u : State) : atPort (markJob w s) (arbitrate (place (markJob w s) u)) := by
  refine atPort_placed _ _ ?_ ?_
  · unfold markJob
    split <;> rfl
  · unfold markJob
    split <;> rfl

/-- The Trigger Unit behind a commit (R119, R124, R129, R133, R137). -/
theorem commitTrigger_puts (r : SceneRecord) (rules : List Rule) (s : State) :
    (commitTrigger r rules s).trigger.rules = rules ∧ (commitTrigger r rules s).trigger.keyMap = r.keyMap
      ∧ (∀ g : Fin 8, (commitTrigger r rules s).trigger.groups[g] = none)
      ∧ (∀ i : Fin 16, (commitTrigger r rules s).trigger.qualify[i] = 48 * r.qualify[i])
      ∧ ∀ i : Fin 64, (commitTrigger r rules s).trigger.armed.getLsbD i = match rules[i.val]? with
          | some x => x.initiallyArmed
          | none => false := by
  unfold commitTrigger setTrigger
  dsimp only
  refine ⟨rfl, rfl, fun g => ?_, fun i => ?_, fun i => ?_⟩
  · rw [Fin.getElem_fin, Vector.getElem_replicate]
  · rw [Fin.getElem_fin, Vector.getElem_ofFn]
  · rw [BitVec.getLsbD_ofFnLE, dif_pos i.isLt]
    cases rules[i.val]? <;> rfl

/-- The Cue Resolver behind a commit (R6, R58). -/
theorem commitResolver_puts (r : SceneRecord) (s : State) : (commitResolver r s).resolver.live = r.live
    ∧ ∀ i : Fin 32, (commitResolver r s).resolver.vars[i] =
        if r.presetMask.getLsbD i then r.presets[i] else s.resolver.vars[i] := by
  unfold commitResolver
  dsimp only
  refine ⟨rfl, fun i => ?_⟩
  rw [Fin.getElem_fin, Vector.getElem_ofFn]

/-- What a commit puts in force (R173). -/
theorem committed_commitScene (w : Switch) (r : SceneRecord) (rules : List Rule) (s : State) :
    committed w r rules s (arbitrate (commitScene w r rules s)) := by
  rw [commitScene_eq]
  have port : portOnly (commitOnly w r rules s) (arbitrate (place (markJob w s) (commitOnly w r rules s))) :=
    (portOnly_place _ _).trans (portOnly_arbitrate _)
  have marking := atPort_markJob w s (commitOnly w r rules s)
  generalize arbitrate (place (markJob w s) (commitOnly w r rules s)) = t at port marking
  obtain ⟨trigger, resolver, mix, run, -⟩ := port.of_putUnits
  unfold committed
  rw [run, trigger, resolver, mix]
  refine ⟨⟨rfl, rfl, rfl⟩, commitTrigger_puts r rules s, commitResolver_puts r s, ⟨committedMix_trim r s, fun g => ?_⟩,
    ⟨_, marking, ?_⟩⟩
  · rw [committedMix_duck, rejudge_eq]
    exact ⟨rfl, rfl, rfl, rfl, rfl, rfl, judged_iff _ _, rfl⟩
  · unfold markJob
    cases w.previous <;> rfl

/-- What a commit leaves alone. -/
theorem commitScene_leaves (w : Switch) (r : SceneRecord) (rules : List Rule) (s t : State)
    (ht : t = arbitrate (commitScene w r rules s)) :
    t.mem = s.mem ∧ t.clock = s.clock ∧ t.regs = s.regs ∧ t.slate = s.slate ∧ t.tally = s.tally
      ∧ t.schedule = s.schedule ∧ t.cache = s.cache ∧ t.startOrder = s.startOrder ∧ voicesAlike s t := by
  have port : portOnly (commitOnly w r rules s) t := by
    rw [ht, commitScene_eq]
    exact (portOnly_place _ _).trans (portOnly_arbitrate _)
  obtain ⟨-, -, -, -, rest⟩ := port.of_putUnits
  exact rest

/-! ### Scene reads -/

theorem sceneReadDone_well {read : Switch → List Byte → State → State} {j : Job} {w : Switch} {s : State}
    (hw : s.run.switch = some w) (hp : w.phase = .loading) : sceneReadDone read j false s = read w (readData j s) s := by
  unfold sceneReadDone
  simp only [Bool.false_eq_true, if_false, hw, hp, if_true]

theorem sceneReadDone_bad {read : Switch → List Byte → State → State} {j : Job} {w : Switch} {s : State}
    (hw : s.run.switch = some w) (hp : w.phase = .loading) : sceneReadDone read j true s =
      abandonSwitch w .memoryError (addressWord s j.address) (captureJob .read j s) := by
  unfold sceneReadDone
  simp only [if_true, captureJob_run, hw, hp]

theorem abandonSwitch_slot {w : Switch} {slot : Nat} (h : w.slot = some slot) (code : ResultCode) (failing : Word)
    (s : State) : abandonSwitch w code failing s =
      giveResult slot code ([0] ++ toBytes 1 w.target ++ [0, 0] ++ toBytes 4 failing.toNat) (setSwitch none none s) := by
  unfold abandonSwitch
  rw [h]

theorem abandonSwitch_start {w : Switch} (h : w.slot = none) (code : ResultCode) (failing : Word) (s : State) :
    abandonSwitch w code failing s = failStart .sceneInitial (setSwitch none none s) := by
  unfold abandonSwitch
  rw [h]

section
variable {w : Switch} {r : SceneRecord} {s : State}

theorem sceneRecordRead_absent (h : r.present = false) : sceneRecordRead w r s = abandonSwitch w .notPresent 0 s := by
  unfold sceneRecordRead
  rw [h]
  rfl

theorem sceneRecordRead_busy {slot : Nat} (h : r.present = true) (hs : w.slot = some slot)
    (hb : r.busy = true ∨ s.run.current = some w.target) : sceneRecordRead w r s = abandonSwitch w .busy 0 s := by
  have test : (w.slot.isSome && (r.busy || s.run.current == some w.target)) = true := by
    rw [hs, Bool.and_eq_true, Bool.or_eq_true, beq_iff_eq]
    exact ⟨rfl, hb⟩
  unfold sceneRecordRead
  rw [h, test]
  rfl

/-- A present record that is neither busy nor current goes on (R172). -/
theorem sceneRecordRead_goesOn (h : r.present = true)
    (hb : w.slot = none ∨ r.busy = false ∧ s.run.current ≠ some w.target) : sceneRecordRead w r s =
      if r.ruleCount = 0 then commitScene w r [] s
      else place (readJob (.ruleTable w.target) r.ruleTable (16 * r.ruleCount)) (setSwitch (some w) (some r) s) := by
  have test : (w.slot.isSome && (r.busy || s.run.current == some w.target)) = false := by
    rcases hb with hb | ⟨busy, current⟩
    · rw [hb]
      rfl
    · rw [busy, beq_eq_false_iff_ne.mpr current, Bool.or_self, Bool.and_false]
  unfold sceneRecordRead
  rw [h, test]
  rfl

end

/-- The end of a scene read without error, as its command answers it. -/
theorem sceneRead_ends {is : JobKind → Bool} {read : Switch → List Byte → State → State} {e : JobEnd} {j : Job} {s v : State}
    {w : Switch} {c : Instr} (hc : exec c s = .next (jobDone is e (sceneReadDone read) s)) (hk : is j.kind = true)
    (well : endsWell j e s) (hw : s.run.switch = some w) (hp : w.phase = .loading)
    (hv : read w (delivered j e s) (atEnd j e s) = v) : exec c s = .next (arbitrate v) :=
  hc.trans (congrArg Host.Outcome.next ((jobDone_well well hk).trans
    (congrArg arbitrate ((sceneReadDone_well (s := atEnd j e s) hw hp).trans hv))))

/-- A scene read ends with a memory error: the switch is abandoned (R172). -/
theorem sceneRead_abandoned {is : JobKind → Bool} {read : Switch → List Byte → State → State} {e : JobEnd} {j : Job}
    {s : State} {w : Switch} {i : Nat} {c : Instr} (hc : exec c s = .next (jobDone is e (sceneReadDone read) s))
    (hk : is j.kind = true) (hf : ∀ u, j.kind.faultSource u = (.scene, BitVec.ofNat 32 i)) (bad : endsBadly j e s)
    (hw : s.run.switch = some w) (hp : w.phase = .loading) :
    ∃ t, exec c s = .next t ∧ t.run = { s.run with switch := none, staging := none } ∧ t.mem = (atFault j e s).mem
      ∧ t.trigger = s.trigger ∧ t.resolver = s.resolver ∧ t.mix = s.mix ∧ t.clock = s.clock ∧ voicesAlike s t
      ∧ (s.fault.record = none → j.address < 2 ^ 32 → t.fault.record = some
          { source := .scene, kind := .read, address := BitVec.ofNat 32 j.address, detail := BitVec.ofNat 32 i })
      ∧ (∀ slot, w.slot = some slot → t.regs.part = s.regs.part ∧ (awaiting slot s → j.address < 2 ^ 32 →
          resultOf slot t = some (.memoryError, [0] ++ toBytes 1 w.target ++ [0, 0] ++ toBytes 4 j.address)))
      ∧ (w.slot = none → t.regs.part = .failed ∧ t.regs.startFault = .sceneInitial) := by
  have done := hc.trans (congrArg Host.Outcome.next ((jobDone_bad bad hk).trans
    (congrArg arbitrate (sceneReadDone_bad (read := read) (s := atFault j e s) hw hp))))
  have captured : s.fault.record = none → j.address < 2 ^ 32 →
      (captureJob .read j (atFault j e s)).fault.record = some
        { source := .scene, kind := .read, address := BitVec.ofNat 32 j.address, detail := BitVec.ofNat 32 i } :=
    fun free inside => by rw [captureJob_first (s := atFault j e s) free inside, hf]
  generalize hu : captureJob .read j (atFault j e s) = u at done captured
  have run : u.run = s.run := by rw [← hu, captureJob_run]; rfl
  have voices : voicesAlike s u := voicesAlike_of_voices (by rw [← hu, captureJob_voices]; rfl)
  have mem : u.mem = (atFault j e s).mem := by rw [← hu, captureJob_mem]
  have trigger : u.trigger = s.trigger := by rw [← hu, captureJob_trigger]; rfl
  have resolver : u.resolver = s.resolver := by rw [← hu, captureJob_resolver]; rfl
  have mix : u.mix = s.mix := by rw [← hu, captureJob_mix]; rfl
  have clock : u.clock = s.clock := by rw [← hu, captureJob_clock]; rfl
  have slate : u.slate = s.slate := by rw [← hu, captureJob_slate]; rfl
  have part : u.regs.part = s.regs.part := by rw [← hu, captureJob_part]; rfl
  cases hs : w.slot with
  | none =>
    rw [abandonSwitch_start hs] at done
    have failed := startFailed .sceneInitial (setSwitch none none u)
    refine ⟨_, done, by rw [failed.run, ← run]; rfl, failed.mem.trans mem, failed.trigger.trans trigger,
      failed.resolver.trans resolver, failed.mix.trans mix, failed.clock.trans clock, voices.trans failed.voices,
      fun free inside => ?_, fun _ h => (by cases h), fun _ => ⟨failed.part, failed.code⟩⟩
    rw [failed.fault]
    exact captured free inside
  | some slot =>
    rw [abandonSwitch_slot hs] at done
    generalize hd : [0] ++ toBytes 1 w.target ++ [0, 0] ++ toBytes 4 (addressWord (atFault j e s) j.address).toNat = d at done
    have port := portOnly_arbitrate (giveResult slot .memoryError d (setSwitch none none u))
    refine ⟨_, done, ?_, ?_, ?_, ?_, ?_, ?_, ?_, fun free inside => ?_, fun k hk => ⟨?_, fun waits inside => ?_⟩,
      fun h => (by cases h)⟩
    · rw [port.run, giveResult_run, ← run]
      rfl
    · rw [port.mem, giveResult_mem]
      exact mem
    · rw [port.trigger, giveResult_trigger]
      exact trigger
    · rw [port.resolver, giveResult_resolver]
      exact resolver
    · rw [port.mix, giveResult_mix]
      exact mix
    · rw [port.clock, giveResult_clock]
      exact clock
    · exact (voices.trans (voicesAlike_of_voices (by rw [giveResult_voices]; rfl))).trans port.2
    · rw [port.fault, giveResult_fault]
      exact captured free inside
    · rw [port.regs, giveResult_regs]
      exact part
    · cases hk
      have slots : slotAt slot (setSwitch none none u) = slotAt slot s :=
        congrArg (fun y : SlateUnit => y.held.find? fun h : Held => h.taken.slot == slot) slate
      rw [port.resultOf, giveResult_resultOf _ _ (awaiting_of_slotAt slots waits), ← hd, addressWord_inside inside,
        BitVec.toNat_ofNat, Nat.mod_eq_of_lt inside]

/-- Settles O35. -/
theorem sceneCommits : Obligations.SceneCommits := by
  refine ⟨fun e s j w i well hw hp => ⟨fun hj r hr => ?_, fun hj r hr => ?_⟩, fun e s j w i c bad hw hp hc => ?_⟩
  · have ends : ∀ {v}, sceneRecordRead w r (atEnd j e s) = v → exec (.sceneRecordReadDone e) s = .next (arbitrate v) :=
      fun hv => sceneRead_ends rfl (isKind (is := JobKind.isSceneRecordReadDone) hj rfl) well hw hp (hr ▸ hv)
    refine ⟨fun present free => ⟨fun none_ => ?_, fun some_ => ?_⟩, fun slot absent hs waits => ?_,
      fun slot present busy hs waits => ?_, fun absent hs => ?_⟩
    · exact ⟨_, ends ((sceneRecordRead_goesOn (s := atEnd j e s) present free).trans (if_pos none_)),
        committed_commitScene w r [] (atEnd j e s), commitScene_leaves w r [] (atEnd j e s) _ rfl⟩
    · refine ⟨_, ends ((sceneRecordRead_goesOn (s := atEnd j e s) present free).trans (if_neg some_)), ?_⟩
      have same : setSwitch (some w) (some r) (atEnd j e s) = { atEnd j e s with run := { s.run with staging := some r } } := by
        unfold setSwitch
        rw [← hw]
        rfl
      rw [same]
      exact portPlus_place _ _ rfl rfl
    · exact ⟨_, ends ((sceneRecordRead_absent absent).trans (abandonSwitch_slot hs _ _ _)),
        gives_arbitrated (u := setSwitch none none (atEnd j e s)) waits rfl⟩
    · exact ⟨_, ends ((sceneRecordRead_busy (s := atEnd j e s) present hs busy).trans (abandonSwitch_slot hs _ _ _)),
        gives_arbitrated (u := setSwitch none none (atEnd j e s)) waits rfl⟩
    · have failed := startFailed .sceneInitial (setSwitch none none (atEnd j e s))
      exact ⟨_, ends ((sceneRecordRead_absent absent).trans (abandonSwitch_start hs _ _ _)), failed.part, failed.code,
        by rw [failed.run], by rw [failed.run], failed.mem, failed.slate, by rw [failed.run]; rfl⟩
  · have act : ruleTableRead w (delivered j e s) (atEnd j e s) =
        commitScene w r (decodeRules r.ruleCount (delivered j e s)) (atEnd j e s) := by
      unfold ruleTableRead
      rw [show (atEnd j e s).run.staging = some r from hr]
    exact ⟨_, sceneRead_ends rfl (isKind (is := JobKind.isRuleTableReadDone) hj rfl) well hw hp act,
      committed_commitScene w r _ (atEnd j e s), commitScene_leaves w r _ (atEnd j e s) _ rfl⟩
  · rcases hc with ⟨hj, rfl⟩ | ⟨hj, rfl⟩
    · exact sceneRead_abandoned rfl (isKind (is := JobKind.isSceneRecordReadDone) hj rfl) (fun u => by rw [hj]; rfl) bad hw hp
    · exact sceneRead_abandoned rfl (isKind (is := JobKind.isRuleTableReadDone) hj rfl) (fun u => by rw [hj]; rfl) bad hw hp

end Sys2Proof.Machine
end

section
/-! The header read of a start (R33, R38). -/

namespace Sys2Proof.Machine

/-! ### The checks of the header -/

/-- The checks of R38 in their order, as the statements name them. -/
theorem check_eq (h : Header) [Decidable h.inRange] [Decidable h.aligned] : h.check =
    if h.version ≠ 1 then some .hdrVersion
    else if ¬ h.inRange then some .hdrRange
    else if ¬ h.aligned then some .hdrAlign
    else if h.sceneCount ≤ h.initialScene then some .sceneInitial
    else none := by
  unfold Header.check
  refine if_congr Iff.rfl rfl (if_congr ?_ rfl (if_congr ?_ rfl rfl))
  · unfold Header.inRange
    rw [Bool.not_eq_true', Bool.eq_false_iff, not_iff_not]
    simp only [Bool.and_eq_true, decide_eq_true_eq]
    tauto
  · unfold Header.aligned
    simp only [Bool.or_eq_true, decide_eq_true_eq]
    tauto

theorem check_of_passes {h : Header} (ok : h.passes) : h.check = none := by
  classical
  obtain ⟨version, range, aligned, initial⟩ := ok
  rw [check_eq, if_neg (not_not.mpr version), if_neg (not_not.mpr range), if_neg (not_not.mpr aligned),
    if_neg (Nat.not_le.mpr initial)]

theorem check_of_failsWith {h : Header} {f : StartFault} (bad : h.failsWith f) : h.check = some f := by
  classical
  rw [check_eq]
  rcases bad with ⟨version, rfl⟩ | ⟨version, range, rfl⟩ | ⟨version, range, aligned, rfl⟩ |
    ⟨version, range, aligned, initial, rfl⟩
  · rw [if_pos version]
  · rw [if_neg (not_not.mpr version), if_pos range]
  · rw [if_neg (not_not.mpr version), if_neg (not_not.mpr range), if_pos aligned]
  · rw [if_neg (not_not.mpr version), if_neg (not_not.mpr range), if_neg (not_not.mpr aligned), if_pos initial]

/-! ### The rate of the header -/

/-- A new rate is in force, with a report when the part is RUNNING and the lock state changes. -/
theorem changeRate_spec (code : Fin 7) (s : State) : (changeRate code s).clock = s.clock.rated code
    ∧ (changeRate code s).slate = s.slate ∧ (changeRate code s).mix = s.mix ∧ (changeRate code s).mem = s.mem
    ∧ (changeRate code s).regs.part = s.regs.part
    ∧ (isRunning s = false → (changeRate code s).reports = s.reports) := by
  by_cases seeking : s.clock.lock = .seeking
  · rw [changeRate_seeking seeking]
    exact ⟨rfl, rfl, rfl, rfl, rfl, fun _ => rfl⟩
  · cases hr : isRunning s with
    | true =>
      rw [changeRate_locked seeking hr]
      exact ⟨emit_clock _ _, emit_slate _ _, emit_mix _ _, emit_mem _ _, emit_part _ _, fun h => by cases h⟩
    | false =>
      have silent : changeRate code s = { s with clock := s.clock.rated code } := by
        unfold changeRate changeLock
        refine (if_neg seeking).trans ?_
        exact if_neg (Bool.eq_false_iff.mp hr)
      rw [silent]
      exact ⟨rfl, rfl, rfl, rfl, rfl, fun _ => rfl⟩

/-- The header's rate is put in force (R33): the same one leaves the Frame Clock as it is. -/
theorem startRate_spec (n : Nat) (s : State) :
    (∀ code : Fin 7, code.val = n → (startRate n s).clock = if s.clock.rate = code then s.clock else s.clock.rated code)
    ∧ (startRate n s).slate = s.slate ∧ (startRate n s).mix = s.mix ∧ (startRate n s).mem = s.mem
    ∧ (startRate n s).regs.part = s.regs.part
    ∧ (isRunning s = false → (startRate n s).reports = s.reports) := by
  unfold startRate
  split
  · next small =>
    split
    · next same => exact ⟨fun code hc => by cases hc; rw [if_pos same], rfl, rfl, rfl, rfl, fun _ => rfl⟩
    · next other =>
      obtain ⟨clock, rest⟩ := changeRate_spec ⟨n, small⟩ s
      exact ⟨fun code hc => by cases hc; rw [if_neg other, clock], rest⟩
  · next large => exact ⟨fun code hc => absurd (hc ▸ code.isLt) large, rfl, rfl, rfl, rfl, fun _ => rfl⟩

/-! ### The end of the header read -/

theorem headerDone_passes {j : Job} {s : State} {h : Header} (hh : h = decodeHeader j.address (readData j s))
    (ok : h.passes) : headerDone j false s = startHeader h s := by
  unfold headerDone
  rw [if_neg Bool.false_ne_true, ← hh]
  simp only [check_of_passes ok]

theorem headerDone_fails {j : Job} {s : State} {h : Header} {f : StartFault}
    (hh : h = decodeHeader j.address (readData j s)) (bad : h.failsWith f) : headerDone j false s = failStart f s := by
  unfold headerDone
  rw [if_neg Bool.false_ne_true, ← hh]
  simp only [check_of_failsWith bad]

/-- Settles O22. -/
theorem headerReadDone : Obligations.HeaderReadDone := by
  refine fun e s j hj => ⟨fun well h hh => ⟨fun ok => ?_, fun f bad => ?_⟩, fun flight kept error => ?_⟩
  · have done := (jobDone_well (act := headerDone) well (isKind (is := JobKind.isHeaderReadDone) hj rfl)).trans
      (congrArg arbitrate (headerDone_passes (s := atEnd j e s) hh ok))
    unfold startHeader at done
    generalize hw : ({ atEnd j e s with
      slate := { (atEnd j e s).slate with header := some h }
      mix := { (atEnd j e s).mix with meterInterval := h.meterInterval } } : State) = w at done
    obtain ⟨clock, slate, mix, mem, part, reports⟩ := startRate_spec h.rate w
    have port := (portOnly_place (writeJob (.busyClear h.sceneCount) (h.sceneTable + 1) []) (startRate h.rate w)).trans
      (portOnly_arbitrate _)
    refine ⟨_, congrArg Host.Outcome.next done, ?_, ?_, fun code hc => ?_, fun running => ?_, ?_, ?_,
      atPort_placed _ _ rfl rfl⟩
    · rw [port.slate, slate, ← hw]
    · rw [port.mix, mix, ← hw]
    · rw [port.clock, clock code hc, ← hw]
      rfl
    · rw [port.reports, reports (by rw [← hw]; exact running), ← hw]
      rfl
    · rw [port.regs, part, ← hw]
      rfl
    · rw [port.mem, mem, ← hw]
  · have done := (jobDone_well (act := headerDone) well (isKind (is := JobKind.isHeaderReadDone) hj rfl)).trans
      (congrArg arbitrate (headerDone_fails (s := atEnd j e s) hh bad))
    have failed := startFailed f (atEnd j e s)
    exact ⟨_, congrArg Host.Outcome.next done, failed.part, failed.code, by rw [failed.run], failed.mem, failed.slate,
      failed.clock⟩
  · have done := jobDone_bad (act := headerDone) ⟨flight, kept, .inl error⟩ (isKind (is := JobKind.isHeaderReadDone) hj rfl)
    obtain ⟨t, ht, ⟨part, code, -⟩, -, -, clock, slate, -⟩ := startFailed_captured .hdrMemory .read j (atFault j e s)
    exact ⟨t, congrArg Host.Outcome.next (done.trans ht.symm), part, code, slate, clock⟩

end Sys2Proof.Machine
end

section
/-! The later steps of a start and the end of STOPPING (R37 to R39, R182, R184). -/

namespace Sys2Proof.Machine

/-! ### Show memory behind the busy 0 writes (R38 step 7) -/

theorem read_clearBusy_other {table x : Nat} : ∀ (n i : Nat) (m : List Host.Cell),
    (∀ k, k < n → x ≠ table + 160 * (i + k) + 1) → Memory.read (clearBusy table i n m) x = Memory.read m x
  | 0, _, _, _ => rfl
  | n + 1, i, m, far => by
    have rest : ∀ k, k < n → x ≠ table + 160 * (i + 1 + k) + 1 := fun k hk => by
      have next := far (k + 1) (by omega)
      rwa [show i + (k + 1) = i + 1 + k by omega] at next
    unfold clearBusy
    have first : x ≠ table + 160 * i + 1 := far 0 (Nat.succ_pos n)
    rw [read_clearBusy_other n (i + 1) _ rest, read_write_other 0 first]

theorem read_clearBusy_self {table : Nat} : ∀ (n i : Nat) {m : List Host.Cell}, Memory.wf m = true → ∀ k, k < n →
    table + 160 * (i + k) + 1 < Config.addressSpace → Memory.read (clearBusy table i n m) (table + 160 * (i + k) + 1) = 0
  | n + 1, i, m, wf, 0, _, inside => by
    unfold clearBusy
    rw [read_clearBusy_other n (i + 1) _ fun k _ => by omega]
    exact read_write_self 0 wf inside
  | n + 1, i, m, wf, k + 1, hk, inside => by
    have index : i + (k + 1) = i + 1 + k := by omega
    unfold clearBusy
    rw [index]
    exact read_clearBusy_self n (i + 1) (wf_write _ _ wf) k (by omega) (index ▸ inside)

/-- The busy flags of every scene lie inside show memory. -/
theorem busyReach_all {a count : Nat} (h : 1 ≤ a) (inside : a + 160 * count ≤ 2 ^ 32) : busyReach (a - 1) count = count := by
  unfold busyReach Config.addressSpace
  split
  · omega
  · omega

section
variable {e : JobEnd} {n count : Nat} {s : State} {j : Job} (flight : s.port.inFlight = some j) (hj : j.kind = .busyClear count)
include flight hj

/-- The end of the busy 0 writes, from the memory they leave (R38 step 7). -/
theorem busyClearEnds_eq (kept : s.port.discard = false) {good : Nat}
    (hg : good = busyGood e.error n (j.address - 1) count) (data : j.data = []) : busyClearEnds e n s =
      arbitrate (busyClearDone (j.address - 1) good count j
        { s with mem := busyMemory e (j.address - 1) good count s.mem
                 port := { s.port with inFlight := none, discard := false } }) := by
  have same : ∀ bad, memoryAfter j { e with console := [] } bad (busyMemory e (j.address - 1) good count s.mem) =
      busyMemory e (j.address - 1) good count s.mem := fun bad => by
    unfold memoryAfter
    rw [data]
    cases bad <;> rfl
  unfold busyClearEnds
  simp only [flight, hj]
  unfold jobDone
  simp only [flight, hj, ← hg]
  rw [if_pos (show JobKind.clearsBusy (.busyClear count) = true from rfl), kept, if_neg Bool.false_ne_true, same]

end

/-- Show memory when the busy 0 writes have ended, the console processor's writes among it. -/
theorem atEnd_mem_of_no_data {j : Job} (h : j.data = []) (e : JobEnd) (s : State) :
    (atEnd j e s).mem = Memory.writeCells s.mem e.console := by
  show memoryAfter j e false s.mem = _
  unfold memoryAfter
  rw [h]
  rfl

theorem busyMemory_all (e : JobEnd) (table count : Nat) (m : List Host.Cell) :
    busyMemory e table count count m = clearBusy table 0 count (Memory.writeCells m e.console) := by
  unfold busyMemory
  exact if_neg fun h => Nat.lt_irrefl _ h.1

/-- Where the busy 0 write of scene `n` fails, the bytes of the scenes behind it and of every other place stay. -/
theorem read_busyMemory_other {e : JobEnd} {table n count x : Nat} {m : List Host.Cell}
    (far : ∀ i, i ≤ n → x ≠ table + 160 * i + 1) :
    Memory.read (busyMemory e table n count m) x = Memory.read (Memory.writeCells m e.console) x := by
  have cleared := read_clearBusy_other (table := table) n 0 (Memory.writeCells m e.console) (x := x)
    fun k hk => by rw [Nat.zero_add]; exact far k hk.le
  unfold busyMemory
  dsimp only
  split
  · rw [read_write_other 0 (far n le_rfl), cleared]
  · exact cleared

theorem read_busyMemory_self {e : JobEnd} {table n count i : Nat} {m : List Host.Cell} (wf : Memory.wf m = true) (hi : i < n)
    (inside : table + 160 * i + 1 < Config.addressSpace) : Memory.read (busyMemory e table n count m) (table + 160 * i + 1) = 0 := by
  have cleared := read_clearBusy_self (table := table) n 0 (wf_writeCells e.console wf) i hi (by rw [Nat.zero_add]; exact inside)
  rw [Nat.zero_add] at cleared
  unfold busyMemory
  dsimp only
  split
  · rw [read_write_other 0 (by omega), cleared]
  · exact cleared

/-! ### The end of the start -/

theorem portOnly_placed (j : Job) (s : State) : portOnly s (arbitrate (place j s)) :=
  (portOnly_place j s).trans (portOnly_arbitrate _)

/-- The initial load begins (R38 step 8). -/
theorem initialLoad_begins (s : State) : ∀ t, t = arbitrate (initialLoad s) →
    t.mem = s.mem ∧ t.run.switch = some
        { target := (header s).initialScene, previous := none, slot := none, tag := 0, phase := .loading, rules := 0 }
      ∧ atPort (readJob (.sceneRecord (header s).initialScene)
          ((header s).sceneTable + 160 * (header s).initialScene) 160) t
      ∧ t.regs = s.regs ∧ t.clock = s.clock ∧ t.slate = s.slate := by
  rintro t rfl
  have port := portOnly_placed (readJob (.sceneRecord (header s).initialScene) (sceneAddress s (header s).initialScene) 160)
    (setSwitch (some
      { target := (header s).initialScene, previous := none, slot := none, tag := 0, phase := .loading, rules := 0 }) none s)
  exact ⟨port.mem, by rw [initialLoad, beginSwitch, port.run]; rfl, atPort_placed _ _ rfl rfl, port.regs, port.clock, port.slate⟩

/-- A start begins with the read of the header (R38). -/
theorem enterStarting_begins (s : State) : ∀ t, t = arbitrate (enterStarting s) →
    t.regs.part = .starting ∧ atPort (readJob .header s.regs.headerBase.toNat 144) t ∧ t.reports = s.reports
      ∧ t.mem = s.mem := by
  rintro t rfl
  unfold enterStarting
  dsimp only
  generalize hu : clearMeters _ = u
  have port := portOnly_placed (readJob .header s.regs.headerBase.toNat 144) u
  refine ⟨by rw [← hu] at port ⊢; exact congrArg Registers.part port.regs, atPort_placed _ _ rfl rfl, ?_, ?_⟩
  · rw [← hu] at port ⊢
    exact port.reports
  · rw [← hu] at port ⊢
    exact port.mem

/-- The part is RUNNING, and the fault record is written (R37, R38, R184). -/
theorem startComplete_running {s : State} (h : s.regs.run = true) :
    startComplete s = placeFaultRecord (setPart .running s) := if_pos h

/-- The fault record write is placed, or takes the place of one that waits. -/
theorem portPlus_placeFaultRecord {s : State} (h : isActive s = true) :
    portPlus (faultJob s) s (arbitrate (placeFaultRecord s)) := by
  have only : portOnly s (placeFaultRecord s) := by
    refine ⟨?_, voicesAlike_of_voices (placeFaultRecord_voices s)⟩
    have frame := congrArg (fun x : State => { x with port := s.port, voices := s.voices }) (placeFaultRecord_eq s)
    exact frame
  have both := portBut.then_arbitrate only (portGoesOn_placeFaultRecord (new := fun j => j = faultJob s) rfl)
  exact ⟨both.1, both.2, atPort_arbitrate (atPort_placeFaultRecord h) rfl rfl⟩

theorem stoppingEnds_of {s : State} (hp : s.regs.part = .stopping) (idle : ∀ v, (s.voice v).content = .idle)
    (done : ∀ h ∈ s.slate.held, h.result ≠ some .abandoned) : stoppingEnds s = true := by
  unfold stoppingEnds
  rw [Bool.and_eq_true, Bool.and_eq_true, List.all_eq_true, List.all_eq_true]
  refine ⟨⟨beq_iff_eq.mpr hp, fun x hx => ?_⟩, fun h hh => bne_iff_ne.mpr (done h hh)⟩
  obtain ⟨v, rfl⟩ := mem_voices.mp hx
  rw [idle v]
  rfl

/-- The bytes of the busy flags, from the address of the job. -/
theorem busyAddress {a i : Nat} (h : 1 ≤ a) : a - 1 + 160 * i + 1 = a + 160 * i := by omega

/-- Settles O23. -/
theorem startAndStopGoOn : Obligations.StartAndStopGoOn := by
  refine ⟨fun e n s j count well hj wf low inside data => ?_, fun e n s j count flight kept error hj few wf low inside data => ?_,
    fun e s j bad hj => ?_, fun e s j well hj => ⟨fun run => ?_, fun run => ?_⟩, fun s hp idle waits => ⟨fun run => ?_, fun run => ?_⟩⟩
  · obtain ⟨flight, kept, good, -⟩ := well
    have all : count = busyGood e.error n (j.address - 1) count := by
      unfold busyGood
      rw [good, if_neg Bool.false_ne_true, busyReach_all low inside]
    have done := busyClearEnds_eq flight hj kept all data
    rw [busyMemory_all] at done
    unfold busyClearDone at done
    rw [if_neg (Nat.lt_irrefl count)] at done
    rw [atEnd_mem_of_no_data data]
    obtain ⟨mem, switch, read, rest⟩ := initialLoad_begins _ _ rfl
    refine ⟨_, congrArg Host.Outcome.next done, fun i hi => ?_, fun a far => ?_, switch, read, rest⟩
    · have cleared := read_clearBusy_self (table := j.address - 1) count 0 (wf_writeCells e.console wf) i hi
        (by unfold Config.addressSpace; omega)
      rw [Nat.zero_add] at cleared
      rw [mem, ← busyAddress low]
      exact cleared
    · rw [mem]
      refine read_clearBusy_other count 0 _ fun k hk => ?_
      rw [Nat.zero_add, busyAddress low]
      exact far k hk
  · have good : n = busyGood e.error n (j.address - 1) count := by
      unfold busyGood
      rw [error, if_pos rfl, busyReach_all low inside]
      omega
    have done := busyClearEnds_eq flight hj kept good data
    unfold busyClearDone at done
    rw [if_pos few, busyAddress low] at done
    rw [atEnd_mem_of_no_data data]
    obtain ⟨t, ht, ⟨part, code, run⟩, voices, mem, clock, slate, fault⟩ := startFailed_captured .hdrMemory .write
      { j with address := j.address + 160 * n, length := 1 }
      { s with mem := busyMemory e (j.address - 1) n count s.mem
               port := { s.port with inFlight := none, discard := false } }
    refine ⟨t, congrArg Host.Outcome.next (done.trans ht.symm), part, code, by rw [run], clock, slate, voices,
      fun free => ⟨Config.busyClearDetail s.free, ?_⟩, fun i hi => ?_, fun a far => ?_⟩
    · rw [fault free (by dsimp only; omega)]
      dsimp only
      rw [hj]
      rfl
    · rw [mem, ← busyAddress low]
      exact read_busyMemory_self wf hi (by unfold Config.addressSpace; omega)
    · rw [mem]
      exact read_busyMemory_other fun i hi => by rw [busyAddress low]; exact far i hi
  · have done := jobDone_bad (act := startWrittenToDone) bad (isKind (is := JobKind.isStartWrittenToDone) hj rfl)
    obtain ⟨t, ht, ⟨part, code, run⟩, voices, mem, clock, slate, fault⟩ :=
      startFailed_captured .hdrMemory .write j (atFault j e s)
    refine ⟨t, congrArg Host.Outcome.next (done.trans ht.symm), part, code, by rw [run], clock, slate, voices, mem,
      fun free inside => ?_⟩
    rw [fault free inside, hj]
    rfl
  · have done := (jobDone_well (act := startWrittenToDone) well (isKind (is := JobKind.isStartWrittenToDone) hj rfl)).trans
      (congrArg arbitrate (startComplete_running (s := atEnd j e s) run))
    exact ⟨_, congrArg Host.Outcome.next done, portPlus_placeFaultRecord (s := setPart .running (atEnd j e s)) rfl⟩
  · have act : startWrittenToDone j false (atEnd j e s) = enterStopping (atEnd j e s) := if_neg (Bool.eq_false_iff.mp run)
    have done := (jobDone_well (act := startWrittenToDone) well (isKind (is := JobKind.isStartWrittenToDone) hj rfl)).trans
      (congrArg arbitrate act)
    obtain ⟨part, -, -, -, -, silent, -, mem, clock, -⟩ := enterStopping_leaves (atEnd j e s) _ rfl
    exact ⟨_, congrArg Host.Outcome.next done, part, silent, clock, mem⟩
  · have act : (if stoppingEnds s then endStopping s else s) = discardHoldList (setPart .stopped s) :=
      (if_pos (stoppingEnds_of hp idle waits)).trans (if_neg (Bool.eq_false_iff.mp run))
    exact ⟨_, congrArg (fun u => Host.Outcome.next (arbitrate u)) act, portBut_arbitrate _⟩
  · have act : (if stoppingEnds s then endStopping s else s) = enterStarting (discardHoldList (setPart .stopped s)) :=
      (if_pos (stoppingEnds_of hp idle waits)).trans (if_pos run)
    obtain ⟨part, read, reports, mem⟩ := enterStarting_begins (discardHoldList (setPart .stopped s)) _ rfl
    exact ⟨_, congrArg (fun u => Host.Outcome.next (arbitrate u)) act, part, read, by rw [reports]; rfl, mem⟩

end Sys2Proof.Machine
end

section
/-! SUPPORT. What the operations of the Voice Array and the Fire Schedule do to the port, the Report Unit and Fault Capture,
said once: they place jobs, hand on reports, give results, and leave the rest of these units alone. -/

namespace Sys2Proof.Machine

/-! ### Steps that place jobs, hand on reports and give results -/

/-- The writes that a report or a result can place are among the jobs `new`. -/
def Owned (new : Job → Prop) : Prop := ∀ j : Job, j.kind.reports ∨ j.kind.completes → new j

/-- One step as the port and the Report Unit see it: nothing, a job placed, a report, or a result. -/
inductive Act (new : Job → Prop) : State → State → Prop
  | still {s t : State} (port : t.port = s.port := by rfl) (reports : t.reports = s.reports := by rfl)
      (fault : t.fault = s.fault := by rfl) (header : t.slate.header = s.slate.header := by rfl)
      (part : t.regs.part = s.regs.part := by rfl) : Act new s t
  | place (j : Job) (s : State) (h : new j) : Act new s (place j s)
  | emit (r : Report) (s : State) : Act new s (emit r s)
  | give (i : Nat) (r : ResultCode) (d : List Byte) (s : State) : Act new s (giveResult i r d s)

/-- A chain of such steps. -/
abbrev Acts (new : Job → Prop) : State → State → Prop := Relation.ReflTransGen (Act new)

section
variable {new : Job → Prop} {s t u : State}

/-- A step that touches neither the port nor the Report Unit nor Fault Capture. -/
theorem Acts.still (port : t.port = s.port := by rfl) (reports : t.reports = s.reports := by rfl)
    (fault : t.fault = s.fault := by rfl) (header : t.slate.header = s.slate.header := by rfl)
    (part : t.regs.part = s.regs.part := by rfl) : Acts new s t := .single (.still port reports fault header part)

/-- A chain goes on: the last link first. -/
theorem Acts.then (m : Acts new s t) (h : Acts new u s) : Acts new u t := h.trans m

theorem acts_foldl {α : Type} (f : State → α → State) (h : ∀ t a, Acts new t (f t a)) (l : List α) :
    ∀ s, Acts new s (l.foldl f s) := by
  induction l with
  | nil => intro s; exact .refl
  | cons a l ih => intro s; exact (h s a).trans (ih _)

/-! ### What a chain keeps -/

theorem Act.keepsLine (h : Act new s t) : keepsLine s t := by
  cases h with
  | still port => exact keepsLine_of_port port
  | place j _ => exact keepsLine_place j s
  | emit r => exact keepsLine_emit r s
  | give i r d => exact keepsLine_giveResult i r d s

theorem Acts.keepsLine (h : Acts new s t) : keepsLine s t := by
  induction h with
  | refl => exact keepsLine_refl s
  | tail _ m ih => exact ih.trans m.keepsLine

theorem capture_kept {x : FaultRecord} (h : s.fault.record = some x) (a : FaultSource) (k : FaultKind) (y d : Word) :
    (capture a k y d s).fault.record = some x := by
  unfold capture
  rw [h]
  dsimp only
  split
  · rw [placeFaultRecord_fault]
    exact h
  · exact h

theorem emit_kept {x : FaultRecord} (h : s.fault.record = some x) (r : Report) : (emit r s).fault.record = some x := by
  unfold emit
  repeat' split
  · exact h
  · unfold writeReport placeWrittenTo
    exact h
  · exact h
  · exact h
  · refine capture_kept ?_ _ _ _ _
    exact h
  · unfold writeReport placeWrittenTo
    exact h
  · exact h

/-- A fault capture record stays until it is cleared (R183). -/
theorem Acts.record {x : FaultRecord} (h : Acts new s t) (hx : s.fault.record = some x) : t.fault.record = some x := by
  induction h with
  | refl => exact hx
  | tail _ m ih =>
    cases m with
    | still _ _ fault => rw [fault]; exact ih
    | place => exact ih
    | emit r => exact emit_kept ih r
    | give => rw [giveResult_fault]; exact ih

theorem Act.header (h : Act new s t) : t.slate.header = s.slate.header ∧ t.regs.part = s.regs.part := by
  cases h with
  | still _ _ _ header part => exact ⟨header, part⟩
  | place => exact ⟨rfl, rfl⟩
  | emit r => exact ⟨by rw [emit_slate], emit_part r s⟩
  | give => exact ⟨by rw [giveResult_eq], by rw [giveResult_regs]⟩

theorem Acts.header (h : Acts new s t) : t.slate.header = s.slate.header := by
  induction h with
  | refl => rfl
  | tail _ m ih => exact m.header.1.trans ih

theorem Acts.part (h : Acts new s t) : t.regs.part = s.regs.part := by
  induction h with
  | refl => rfl
  | tail _ m ih => exact m.header.2.trans ih

/-- No job is at the port but those that were there and those placed. -/
theorem Acts.only (hn : Owned new) (h : Acts new s t) (j : Job) (hj : atPort j t) : atPort j s ∨ new j := by
  induction h with
  | refl => exact .inl hj
  | @tail b c _ m ih =>
    have step : atPort j b ∨ new j := by
      cases m with
      | still port =>
        left
        unfold atPort at hj ⊢
        rwa [port] at hj
      | place k _ hk => exact (portGoesOn_place (new := new) k b hk).2.2.2.1 j hj
      | emit r => exact (portGoesOn_emit (fun j hj => hn j (.inl hj)) r b).2.2.2.1 j hj
      | give i r d => exact (portGoesOn_giveResult i r d b fun j hj => hn j (.inr hj)).2.2.2.1 j hj
    exact step.elim ih .inr

end

/-! ### The Voice Array -/

section
variable {new : Job → Prop}

theorem acts_emit (r : Report) (s : State) : Acts new s (emit r s) := .single (.emit r s)

theorem acts_giveResult (i : Nat) (r : ResultCode) (d : List Byte) (s : State) : Acts new s (giveResult i r d s) :=
  .single (.give i r d s)

theorem acts_keyDucks (v : Fin 24) (r : DuckRole) (s : State) : Acts new s (keyDucks v r s) := by
  unfold keyDucks
  split
  · exact .still
  · exact .refl

theorem acts_withdraw (v : Fin 24) (s : State) : Acts new s (withdraw v s) := by
  unfold withdraw
  dsimp only
  split
  · exact .still
  · exact .still
  · exact (acts_keyDucks _ _ _).then .still
  · exact .refl

theorem acts_withdrawEnded (v : Fin 24) (r : EndReason) (s : State) : Acts new s (withdrawEnded v r s) := by
  unfold withdrawEnded
  split
  · exact (acts_emit _ _).then (acts_withdraw _ _)
  · exact .refl

theorem acts_cancelFollower (v : Fin 24) (n : Half) (s : State) (w : Fin 24) : Acts new s (cancelFollower v n s w) := by
  unfold cancelFollower
  repeat' split
  · exact (acts_emit _ _).then (acts_withdraw _ _)
  · exact .refl
  · exact .refl

theorem acts_cancelFollowers (v : Fin 24) (n : Half) (s : State) : Acts new s (cancelFollowers v n s) :=
  acts_foldl _ (acts_cancelFollower v n) _ s

theorem acts_tell (p : Playing) (r : Report) (s : State) : Acts new s (tell p r s) := by
  unfold tell
  split
  · exact .refl
  · exact acts_emit _ _

theorem acts_endRelease (v : Fin 24) (p : Playing) (s : State) : Acts new s (endRelease v p s) := by
  unfold endRelease
  dsimp only
  split
  · exact (acts_tell _ _ _).then .still
  · exact .still

theorem acts_releaseSounding (v : Fin 24) (p : Playing) (l : Nat) (r : EndReason) (s : State) :
    Acts new s (releaseSounding v p l r s) := by
  unfold releaseSounding
  dsimp only
  split
  · exact (acts_emit _ _).then ((acts_cancelFollowers _ _ _).then .still)
  · exact (acts_cancelFollowers _ _ _).then .still

theorem acts_shortenRelease (v : Fin 24) (p : Playing) (l : Nat) (s : State) : Acts new s (shortenRelease v p l s) := by
  unfold shortenRelease
  repeat' split
  · exact acts_endRelease _ _ _
  · exact .still
  · exact .refl

theorem acts_testFollow (v : Fin 24) (s : State) : Acts new s (testFollow v s) := by
  unfold testFollow
  repeat' split
  · exact .still
  · exact .refl
  · exact .refl

theorem acts_kickOthers (v : Fin 24) (g : Nat) (s : State) : Acts new s (kickOthers v g s) := by
  have kick : ∀ (t : State) (w : Fin 24), Acts new t (kick v g t w) := fun t w => by
    unfold kick
    repeat' split
    · exact .refl
    · exact acts_releaseSounding _ _ _ _ _
    · exact .refl
    · exact .refl
  unfold kickOthers
  split
  · exact .refl
  · exact acts_foldl _ kick _ s

theorem acts_emitLate (v : Fin 24) (c : Claim) (l : Lateness) (t : Word) (s : State) : Acts new s (emitLate v c l t s) := by
  unfold emitLate
  dsimp only
  repeat' split
  · exact (acts_emit _ _).then (acts_emit _ _)
  · exact acts_emit _ _
  · exact acts_emit _ _
  · exact .refl

theorem acts_entryEffects (v : Fin 24) (p : Playing) (l : Lateness) (s : State) : Acts new s (entryEffects v p l s) := by
  unfold entryEffects
  exact (acts_testFollow _ _).then ((acts_emitLate _ _ _ _ _).then ((acts_emit _ _).then ((acts_keyDucks _ _ _).then
    ((acts_kickOthers _ _ _).then .still))))

theorem acts_completeEntry (v : Fin 24) (s : State) : Acts new s (completeEntry v s) := by
  unfold completeEntry
  repeat' split
  · exact acts_entryEffects _ _ _ _
  · exact .refl
  · exact .refl

theorem acts_completeEntries (p : Content → Bool) (s : State) : Acts new s (completeEntries p s) := by
  refine acts_foldl _ (fun t v => ?_) _ s
  split
  · exact acts_completeEntry _ _
  · exact .refl

theorem acts_enterSounding (v : Fin 24) (i : Incoming) (b : Bool) (l : Option Nat) (s : State) :
    Acts new s (enterSounding v i b l s) := by
  unfold enterSounding
  dsimp only
  split
  · exact .still
  · exact (acts_completeEntry _ _).then .still

theorem acts_releaseNow (v : Fin 24) (r : EndReason) (f : Playing → Nat) (b : Bool) (s : State) :
    Acts new s (releaseNow v r f b s) := by
  unfold releaseNow
  split
  · exact .refl
  · exact acts_withdrawEnded _ _ _
  · exact acts_withdrawEnded _ _ _
  · exact acts_releaseSounding _ _ _ _ _
  · split
    · exact acts_shortenRelease _ _ _ _
    · exact .refl
  · dsimp only
    split
    · exact (acts_shortenRelease _ _ _ _).then (acts_withdrawEnded _ _ _)
    · exact acts_withdrawEnded _ _ _

theorem acts_releaseVoice (v : Fin 24) (r : EndReason) (f : Playing → Nat) (b : Bool) (s : State) :
    Acts new s (releaseVoice v r f b s) := (acts_releaseNow _ _ _ _ _).then (acts_completeEntry _ _)

theorem acts_releaseAllNow (p : Content → Bool) (r : EndReason) (f : Playing → Nat) (b : Bool) (s : State) :
    Acts new s (releaseAllNow p r f b s) :=
  (acts_foldl _ (fun _ _ => acts_releaseNow _ _ _ _ _) _ _).then (acts_foldl _ (fun _ _ => acts_releaseNow _ _ _ _ _) _ _)

theorem acts_releaseAll (p : Content → Bool) (r : EndReason) (f : Playing → Nat) (b : Bool) (s : State) :
    Acts new s (releaseAll p r f b s) := (acts_releaseAllNow _ _ _ _ _).then (acts_completeEntries _ _)

theorem acts_holdToPlayRelease (v : Fin 24) (c : Half) (s : State) : Acts new s (holdToPlayRelease v c s) := by
  unfold holdToPlayRelease
  repeat' split
  · exact acts_withdrawEnded _ _ _
  · exact acts_releaseVoice _ _ _ _ _
  · exact .refl

theorem acts_missVoice (v : Fin 24) (i : Incoming) (r : Nat) (t : Word) (l : Nat) (s : State) :
    Acts new s (missVoice v i r t l s) := (acts_emit _ _).then (acts_withdraw _ _)

theorem acts_actOnStart (v : Fin 24) (i : Incoming) (s : State) : Acts new s (actOnStart v i s) := by
  unfold actOnStart
  split
  · exact acts_enterSounding _ _ _ _ _
  · exact .still
  · split
    · unfold judgeOverdue
      dsimp only
      repeat' split
      · exact acts_missVoice _ _ _ _ _ _
      · exact .still
      · exact acts_missVoice _ _ _ _ _ _
    · exact .still
  · split
    · exact .still
    · exact acts_enterSounding _ _ _ _ _
  · exact .still

theorem acts_landHead (v : Fin 24) (f : List Frame) (s : State) : Acts new s (landHead v f s) := by
  unfold landHead
  dsimp only
  split
  · exact (acts_actOnStart _ _ _).then .still
  · exact .still
  · exact .refl

/-! ### Claims and the Fire Schedule -/

theorem acts_reportSteal (w : Obtained) (v : Fin 24) (c : Claim) (n : Nat) (r : ClaimRequest) (s : State) :
    Acts new s (reportSteal w v c n r s) := by
  unfold reportSteal
  split
  · exact acts_emit _ _
  · exact .refl

theorem acts_takeNow (v : Fin 24) (r : ClaimRequest) (w : Obtained) (s : State) : Acts new s (takeNow v r w s) := by
  unfold takeNow
  dsimp only
  split
  · exact .still
  · exact .still
  · exact (acts_reportSteal _ _ _ _ _ _).then .still
  · exact (acts_cancelFollowers _ _ _).then ((acts_reportSteal _ _ _ _ _ _).then .still)
  · exact .still
  · exact .still

theorem acts_takeVoice (v : Fin 24) (r : ClaimRequest) (w : Obtained) (s : State) : Acts new s (takeVoice v r w s) :=
  (acts_takeNow _ _ _ _).then (acts_completeEntry _ _)

theorem acts_setLink (v : Fin 24) (t : Half) (l : Option Word) (s : State) : Acts new s (setLink v t l s) := by
  unfold setLink
  split
  · exact .still
  · exact .refl

theorem acts_claimTaken (v : Fin 24) (w : Obtained) (r : ClaimRequest) (n : Half) (s : State) :
    Acts new s (claimTaken v w r n s) := by
  unfold claimTaken
  repeat' split
  · exact acts_giveResult _ _ _ _
  · unfold handBack
    dsimp only
    repeat' split
    · exact .still
    · exact (acts_holdToPlayRelease _ _ _).then .still
    · exact .still
  · exact .refl
  · exact .refl

section
variable (hh : ∀ j : Job, j.kind.cls = .head → new j)
include hh

theorem acts_primingRequest (v : Fin 24) (c : SoundCue) (s : State) : Acts new s (primingRequest v c s) := by
  unfold primingRequest
  split
  · exact acts_landHead _ _ _
  · exact .single (.place _ s (hh _ rfl))

theorem acts_claim (r : ClaimRequest) (l : Option Word) (s : State) : Acts new s (claim r l s) := by
  unfold claim
  split
  · exact (acts_claimTaken _ _ _ _ _).then ((acts_primingRequest hh _ _ _).then ((acts_setLink _ _ _ _).then
      (acts_takeVoice _ _ _ _)))
  · split
    · exact acts_giveResult _ _ _ _
    · exact acts_emit _ _

theorem acts_primeEntry (s : State) (e : Entry) : Acts new s (primeEntry s e) := by
  unfold primeEntry
  dsimp only
  repeat' split
  · exact acts_claim hh _ _ _
  · exact acts_claim hh _ _ _
  · exact acts_emit _ _

theorem acts_scheduleWalk (s : State) : Acts new s (scheduleWalk s) := by
  unfold scheduleWalk
  dsimp only
  split
  · exact (acts_foldl _ (fun _ _ => acts_emit _ _) _ _).then .still
  · exact (acts_foldl _ (acts_primeEntry hh) _ _).then .still

end

end

end Sys2Proof.Machine
end

section
/-! A write that fails while the part is RUNNING or STOPPING (R40, R183, R185). -/

namespace Sys2Proof.Machine

/-! ### The cues cut at entry into FAILED -/

theorem quieten_voice (s : State) (v : Fin 24) :
    (quieten s).voice v = { s.voice v with content := (s.voice v).content.quieten } := by
  show (Vector.map _ s.voices)[v] = _
  rw [Fin.getElem_fin, Vector.getElem_map]
  rfl

theorem silentWithin_quieten {n : Nat} {c : Content} (h : c.silentWithin n) : c.quieten.silentWithin n := by
  cases c with
  | idle => exact trivial
  | releasing p => exact h
  | priming i => exact h
  | armed i => exact h
  | sounding p => exact h
  | handover p i l => exact h

theorem quiet_of_quieten {c : Content} {p : Playing} (h : c.quieten = .releasing p) : p.quiet = true := by
  cases c with
  | releasing q => cases h; rfl
  | idle => cases h
  | priming i => cases h
  | armed i => cases h
  | sounding q => cases h
  | handover q i l => cases h

/-! ### Entering FAILED -/

/-- What comes before the voices are cut (R40). -/
def failIntakes (s : State) : State := stopSchedule (stopResolver (setStartFault .runtimeWrite (setPart .failed s)))

theorem portOnly_clearRefillPending (s : State) : portOnly s (clearRefillPending s) := by
  have fold : ∀ (l : List (Fin 24)) (t : State),
      portOnly t (l.foldl (fun t v => setVoice v { t.voice v with refillPending := refillInFlight v t } t) t) := by
    intro l
    induction l with
    | nil => exact portOnly_refl
    | cons v l ih => exact fun t => (portOnly_voice v _ t).trans (ih _)
  exact fold allVoices s

/-- The units that FAILED empties, behind the cut of the voices (R40). -/
def failUnits (u : State) : State :=
  { setSwitch none none (quieten (stopTrigger u)) with
    slate := { (stopTrigger u).slate with scan := none, scanWaiting := false, queue := [], held := [], mirrorWaiting := none } }

theorem enterFailed_eq (s : State) :
    enterFailed s = discardHoldList (failPort (stopCache (failUnits (stopVoices (failIntakes s))))) := by
  unfold enterFailed failUnits failIntakes
  rfl

/-- The end of the entry into FAILED leaves all but the port, the head cache and the hold list alone. -/
theorem failPort_leaves (u t : State) (ht : t = discardHoldList (failPort (stopCache u))) :
    t.regs = u.regs ∧ t.slate = u.slate ∧ t.run = u.run ∧ t.reports.holdList = [] ∧ t.fault = u.fault ∧ t.mem = u.mem
      ∧ t.clock = u.clock ∧ t.tally = u.tally ∧ t.resolver = u.resolver ∧ t.schedule = u.schedule ∧ t.trigger = u.trigger
      ∧ ∀ v, (t.voice v).content = (u.voice v).content := by
  have port : portOnly (stopCache u) (failPort (stopCache u)) :=
    (portOnly_port (stopCache u) _).trans (portOnly_clearRefillPending _)
  rw [ht]
  exact ⟨port.regs, port.slate, port.run, rfl, port.fault, port.mem, port.clock, port.tally, port.resolver, port.schedule,
    port.trigger, fun v => port.2.content v⟩

/-- What entering FAILED leaves of a state (R40). -/
theorem enterFailed_leaves (s t : State) (ht : t = enterFailed s) :
    t.regs.part = .failed ∧ t.regs.startFault = .runtimeWrite ∧ silentWithin 96 t ∧ t.slate.held = []
      ∧ t.run.switch = none ∧ t.reports.holdList = []
      ∧ (∀ x, s.fault.record = some x → t.fault.record = some x) ∧ t.mem = s.mem
      ∧ (∀ v p, (t.voice v).content = .releasing p → p.quiet = true)
      ∧ t.clock = s.clock ∧ t.tally = s.tally ∧ t.resolver.vars = s.resolver.vars ∧ t.regs.run = s.regs.run := by
  have voices := stopVoices_silent (failIntakes s)
  have stopped : releaseOnly (failIntakes s) (stopVoices (failIntakes s)) := releaseOnly_releaseAll _ _ _ _ rfl
  have quiet : (stopVoices (failIntakes s)).quiet = (failIntakes s).quiet := quiet_stopVoices _
  have record : ∀ x, s.fault.record = some x → (stopVoices (failIntakes s)).fault.record = some x := fun x hx =>
    Acts.record (new := fun _ => True) (s := failIntakes s) (acts_releaseAll _ _ _ _ _) hx
  obtain ⟨regs, slate, run, hold, fault, mem, clock, tally, resolver, schedule, trigger, content⟩ :=
    failPort_leaves (failUnits (stopVoices (failIntakes s))) t (ht.trans (enterFailed_eq s))
  generalize stopVoices (failIntakes s) = u at *
  have contents : ∀ v, (t.voice v).content = (u.voice v).content.quieten := fun v => by
    rw [content v]
    exact congrArg Voice.content (quieten_voice (stopTrigger u) v)
  have schedule : t.schedule = Schedule.reset := schedule.trans stopped.schedule
  have resolver : t.resolver = { s.resolver with follows := [], lines := [], current := none } :=
    resolver.trans stopped.resolver
  refine ⟨?_, ?_, ⟨fun v => ?_, ?_, fun v => ?_, ?_, ?_, ?_, ?_, fun k => ?_, ?_, ?_, ?_⟩, ?_, ?_, hold, fun x hx => ?_, ?_,
    fun v p hp => quiet_of_quieten ((contents v).symm.trans hp), ?_, ?_, ?_, ?_⟩
  · rw [regs]
    exact congrArg Quiet.part quiet
  · rw [regs]
    exact congrArg Quiet.startFault quiet
  · rw [contents v]
    exact silentWithin_quieten (voices v _ rfl)
  · rw [schedule]
    rfl
  · rw [schedule]
    simp [Schedule.reset]
  · rw [resolver]
  · rw [resolver]
  · rw [resolver]
  · rw [trigger]
    rfl
  · rw [trigger]
    show (Vector.replicate 8 none)[k] = none
    simp
  · rw [slate]
    rfl
  · rw [slate]
    rfl
  · rw [slate]
    rfl
  · rw [slate]
    rfl
  · rw [run]
    rfl
  · rw [fault]
    exact record x hx
  · exact mem.trans (congrArg Quiet.mem quiet)
  · exact clock.trans (congrArg Quiet.clock quiet)
  · exact tally.trans (congrArg Quiet.tally quiet)
  · rw [resolver]
  · rw [regs]
    exact congrArg Quiet.runBit quiet

theorem writeError_active {s : State} (h : isActive s = true) (j : Job) :
    writeError j s = enterFailed (captureJob .write j (setPart .failed s)) := if_pos h

/-- Settles O39. -/
theorem fatalWriteFails : Obligations.FatalWriteFails := by
  refine fun e s => ⟨fun j flight kept write active => ?_, fun idle => congrArg Host.Outcome.next
    (if_neg (Bool.eq_false_iff.mp idle))⟩
  have bad : endsBadly j { e with error := true } s := ⟨flight, kept, .inl rfl⟩
  have done : exec (.fatalWriteFault e) s = .next (arbitrate (writeError j (atFault j { e with error := true } s))) :=
    congrArg Host.Outcome.next ((if_pos active).trans (jobDone_bad (act := fun j _ => writeError j) bad write))
  rw [writeError_active (s := atFault j { e with error := true } s) active] at done
  have captured : s.fault.record = none →
      ∃ x, (captureJob .write j (setPart .failed (atFault j { e with error := true } s))).fault.record = some x
        ∧ x.kind = .write := fun free => by
    unfold captureJob
    dsimp only
    rw [(capture_first (s := nextFree (setPart .failed (atFault j { e with error := true } s))) free).1]
    exact ⟨_, rfl, rfl⟩
  generalize hu : captureJob .write j (setPart .failed (atFault j { e with error := true } s)) = u at done captured
  obtain ⟨part, code, silent, held, switch, hold, record, mem, quiet, clock, tally, vars, run⟩ := enterFailed_leaves u _ rfl
  have port := portOnly_arbitrate (enterFailed u)
  refine ⟨_, done, by rw [port.regs, part], by rw [port.regs, code], port.silentWithin silent, by rw [port.slate, held],
    by rw [port.run, switch], by rw [port.reports, hold], fun free => ?_, ?_, fun v p hp => ?_, ?_, ?_, ?_, ?_⟩
  · obtain ⟨x, hx, kind⟩ := captured free
    exact ⟨x, by rw [port.fault]; exact record x hx, kind⟩
  · rw [port.mem, mem, ← hu, captureJob_mem]
    rfl
  · rw [port.2.content] at hp
    exact quiet v p hp
  · rw [port.clock, clock, ← hu, captureJob_clock]
    rfl
  · rw [port.tally, tally, ← hu, captureJob_tally]
    rfl
  · rw [port.resolver, vars, ← hu, captureJob_resolver]
    rfl
  · rw [port.regs, run, ← hu, captureJob_eq]
    rfl

end Sys2Proof.Machine
end

section
/-! The Cue Resolver takes items in order, and judges what it reads (R1, R10, R12, R13, R16, R17, R19, R55 to R57). -/

namespace Sys2Proof.Machine

/-! ### How a resolution ends or goes on -/

/-- A first report is that of every state with the same Report Unit, header and part state. -/
theorem firstReport.of_same {r : Report} {s u t : State} (h : firstReport r u t) (header : u.slate.header = s.slate.header)
    (part : u.regs.part = s.regs.part) (reports : u.reports = s.reports) : firstReport r s t := fun room => by
  rw [← recordJob_of header, ← reports]
  refine h ?_
  unfold hasRoom at room ⊢
  rw [isActive_of_part part, freeRoom_of header reports, header_of_slate header, reports]
  exact room

theorem endResolution_slate {r : Resolution} (h : r.source = .slate) (code : ResultCode) (s : State) :
    endResolution r code s = giveResult r.origin code (probeDetail r 0) (setResolution none s) := by
  unfold endResolution
  exact if_pos h

theorem endResolution_refused {r : Resolution} (h : r.source ≠ .slate) (code : ResultCode) (s : State) :
    endResolution r code s =
      emit (aboutRefusal code r.source r.origin 0 0xFF r.entry [0, 0, 0] s) (setResolution none s) := by
  unfold endResolution
  exact if_neg h

/-- How a resolution that ends with a code is told to its source (R16). -/
theorem endResolution_tells (r : Resolution) (code : ResultCode) (s t : State) (ht : t = arbitrate (endResolution r code s)) :
    (r.source = .slate → awaiting r.origin s →
      resultOf r.origin t = some (code, probeDetail r 0) ∧ slateBut r.origin (setResolution none s) t)
    ∧ (r.source ≠ .slate → resolutionRefused code r.source r.origin r.entry s (setResolution none s) t) := by
  refine ⟨fun slate waits => ?_, fun other => ?_⟩
  · exact gives_arbitrated (u := setResolution none s) waits (ht.trans (congrArg arbitrate (endResolution_slate slate code s)))
  · rw [ht, endResolution_refused other]
    exact ⟨reportBut_emitted _ _, (firstReport_emitted _ _).of_same rfl rfl rfl⟩

section
variable {r : Resolution} {s : State}

theorem beginPass_null (h : r.current.sheet = 0) : beginPass r s = endResolution r .nullRef s := by
  unfold beginPass
  exact if_pos ((Selector.isNull_iff _).mpr h)

theorem isNull_of_sheet {x : Selector} (h : x.sheet ≠ 0) : x.isNull = false :=
  Bool.eq_false_iff.mpr fun null => h ((Selector.isNull_iff x).mp null)

theorem beginPass_limit (h : r.current.sheet ≠ 0) (hd : (header s).directoryCount ≤ r.current.sheet.toNat) :
    beginPass r s = endResolution r .limit s := by
  unfold beginPass
  rw [isNull_of_sheet h, if_neg Bool.false_ne_true, if_pos hd]

theorem beginPass_reads (h : r.current.sheet ≠ 0) (hd : r.current.sheet.toNat < (header s).directoryCount) :
    beginPass r s = place (readJob (.descriptor r.origin) ((header s).directory + 8 * r.current.sheet.toNat) 8)
      (setResolution (some { r with phase := .readingDescriptor }) s) := by
  unfold beginPass
  rw [isNull_of_sheet h, if_neg Bool.false_ne_true, if_neg (Nat.not_le.mpr hd)]

/-- A resolution of an item of the resolver's own intakes begins with the descriptor read (R12). -/
theorem taken_begins {u w : State} {x : Resolution} {sel : Selector} {o : Nat} (header : u.slate.header = s.slate.header)
    (current : r.current = sel) (origin : r.origin = o) (sheet : sel.sheet ≠ 0)
    (inside : sel.sheet.toNat < (Machine.header s).directoryCount) (record : { r with phase := .readingDescriptor } = x)
    (target : setResolution (some x) u = w) :
    portPlus (readJob (.descriptor o) ((Machine.header s).directory + 8 * sel.sheet.toNat) 8) w
      (arbitrate (beginPass r u)) := by
  subst current origin record target
  rw [← header_of_slate header] at inside ⊢
  rw [beginPass_reads sheet inside]
  exact portPlus_place _ _ rfl rfl

end

/-! ### Taking an item -/

theorem resolverFree_current {s : State} (h : resolverFree s = true) : s.resolver.current = none := by
  unfold resolverFree at h
  rw [Bool.and_eq_true] at h
  exact Option.isNone_iff_eq_none.mp h.2

theorem takeItem_follow {s : State} (free : resolverFree s = true) {f : FollowOn} {fs : List FollowOn}
    (h : s.resolver.follows = f :: fs) :
    takeItem s = takeFollow f { s with resolver := { s.resolver with follows := fs } } := by
  unfold takeItem
  rw [if_pos free, h]

theorem takeItem_line {s : State} (free : resolverFree s = true) {f : LineFire} {fs : List LineFire}
    (none_ : s.resolver.follows = []) (h : s.resolver.lines = f :: fs) :
    takeItem s = takeLine f { s with resolver := { s.resolver with lines := fs } } := by
  unfold takeItem
  rw [if_pos free, none_, h]

theorem takeItem_empty {s : State} (follows : s.resolver.follows = []) (lines : s.resolver.lines = []) : takeItem s = s := by
  unfold takeItem
  rw [follows, lines]
  exact ite_self s

/-- A resolution of an item of the resolver's own intakes ends at once (R12, R16). -/
theorem taken_refused {r : Resolution} {code : ResultCode} {s u : State} (other : r.source ≠ .slate)
    (free : u.resolver.current = none) (header : u.slate.header = s.slate.header) (part : u.regs.part = s.regs.part)
    (reports : u.reports = s.reports) (clock : u.clock = s.clock)
    (h : r.current.sheet = 0 ∧ code = .nullRef
      ∨ r.current.sheet ≠ 0 ∧ (Machine.header s).directoryCount ≤ r.current.sheet.toNat ∧ code = .limit) :
    resolutionRefused code r.source r.origin r.entry s u (arbitrate (beginPass r u)) := by
  have ends : beginPass r u = endResolution r code u := by
    rcases h with ⟨null, rfl⟩ | ⟨sheet, beyond, rfl⟩
    · exact beginPass_null null
    · exact beginPass_limit sheet (by rw [header_of_slate header]; exact beyond)
  obtain ⟨but, told⟩ := (endResolution_tells r code u _ rfl).2 other
  rw [ends]
  rw [setResolution_none_of_free free] at but
  refine ⟨but, ?_⟩
  have same : aboutRefusal code r.source r.origin 0 0xFF r.entry [0, 0, 0] u =
      aboutRefusal code r.source r.origin 0 0xFF r.entry [0, 0, 0] s := by
    unfold aboutRefusal aboutNone
    rw [clock]
  exact (same ▸ told).of_same header part reports

/-- Settles O26. -/
theorem resolverTakesInOrder : Obligations.ResolverTakesInOrder := by
  intro s free
  have current := resolverFree_current free
  refine ⟨fun f fs h sheet inside => ⟨_, congrArg (fun u => Host.Outcome.next (arbitrate u)) (takeItem_follow free h), ?_⟩,
    fun f fs none_ h sheet inside => ⟨_, congrArg (fun u => Host.Outcome.next (arbitrate u)) (takeItem_line free none_ h), ?_⟩,
    fun code x hx => ⟨fun f fs h same => ⟨_, congrArg (fun u => Host.Outcome.next (arbitrate u)) (takeItem_follow free h), ?_⟩,
      fun f fs none_ h same other =>
        ⟨_, congrArg (fun u => Host.Outcome.next (arbitrate u)) (takeItem_line free none_ h), ?_⟩⟩,
    fun follows lines => ⟨_, congrArg (fun u => Host.Outcome.next (arbitrate u)) (takeItem_empty follows lines),
      portBut_arbitrate s⟩⟩
  · exact taken_begins rfl rfl rfl sheet inside (by unfold beginResolution; rw [asserted_of_sheet sheet]) rfl
  · exact taken_begins rfl rfl rfl sheet inside (by unfold beginResolution; rw [asserted_of_sheet sheet]) rfl
  · subst same
    exact taken_refused (r := beginResolution .followOn f.leader.val 0 (.fire (.exact f.stop)) f.selector f.level 0
      (some (f.leader, f.claim))) Source.noConfusion current rfl rfl rfl rfl hx
  · subst same
    exact taken_refused (r := beginResolution f.source f.origin 0 (.fire (if f.frame then .frame else .immediate)) f.selector
      f.level 0 none) other current rfl rfl rfl rfl hx

/-! ### The descriptor -/

theorem descriptorCheck_none {live : BitVec 64} {r : Resolution} {d : Descriptor} (present : d.present = true)
    (kind : d.kind ≠ .invalid) (library : d.kind = .library → r.direct = false) (rights : r.level ≤ d.rights)
    (isLive : d.kind = .play → live.getLsbD r.current.sheet.toNat = true) (count : r.current.cue.toNat < d.count) :
    descriptorCheck live r d = none := by
  unfold descriptorCheck
  rw [present, if_neg (by decide), if_neg kind, if_neg (fun h => by rw [library h.1] at h; exact absurd h.2 (by decide)),
    if_neg (Nat.not_lt.mpr rights), if_neg (fun h => by rw [isLive h.1] at h; exact absurd h.2 (by decide)),
    if_neg (Nat.not_le.mpr count)]

/-- The code of the first check that a descriptor fails, with the sheet kind and rights as PROBE shows them (R12, R19). -/
theorem descriptorCheck_some {live : BitVec 64} {r : Resolution} {d : Descriptor} {code : ResultCode} {kind rights : Nat}
    (h : d.present = false ∧ code = .notPresent ∧ kind = 0 ∧ rights = 0
      ∨ d.present = true ∧ kind = (match d.kind with | .play => 1 | .library => 2 | .invalid => 3)
        ∧ rights = d.rights
        ∧ ((d.kind = .invalid ∨ d.kind = .library ∧ r.direct = true) ∧ code = .type
          ∨ d.kind ≠ .invalid ∧ (d.kind = .library → r.direct = false) ∧ (d.rights < r.level ∧ code = .rights
            ∨ r.level ≤ d.rights ∧ (d.kind = .play ∧ live.getLsbD r.current.sheet.toNat = false ∧ code = .notLive
              ∨ (d.kind = .play → live.getLsbD r.current.sheet.toNat = true)
                ∧ d.count ≤ r.current.cue.toNat ∧ code = .limit)))) :
    descriptorCheck live r d = some code ∧ kind = sheetKindCode (some d) ∧ rights = sheetRightsCode (some d) := by
  unfold descriptorCheck sheetKindCode sheetRightsCode
  rcases h with ⟨absent, rfl, rfl, rfl⟩ | ⟨present, rfl, rfl, h⟩
  · refine ⟨?_, ?_, ?_⟩ <;> simp only [absent] <;> rfl
  · refine ⟨?_, by simp only [present]; rfl, by simp only [present, if_true]⟩
    rw [present, if_neg (by decide)]
    rcases h with ⟨invalid | ⟨library, direct⟩, rfl⟩ | ⟨valid, direct, h⟩
    · rw [if_pos invalid]
    · rw [if_neg (by rw [library]; decide), if_pos ⟨library, direct⟩]
    · rw [if_neg valid, if_neg (fun h => by rw [direct h.1] at h; exact absurd h.2 (by decide))]
      rcases h with ⟨low, rfl⟩ | ⟨rights, ⟨play, dead, rfl⟩ | ⟨isLive, count, rfl⟩⟩
      · rw [if_pos low]
      · rw [if_neg (Nat.not_lt.mpr rights), if_pos ⟨play, by rw [dead]; rfl⟩]
      · rw [if_neg (Nat.not_lt.mpr rights), if_neg (fun h => by rw [isLive h.1] at h; exact absurd h.2 (by decide)),
          if_pos count]

/-! ### The cue record -/

/-- A cue record that is no SOUND cue ends its resolution with this code, hop count and level (R12, R13). -/
theorem cueRead_ends {r : Resolution} {c : CueRecord} {s : State} {code : ResultCode} {cue length level hops : Nat}
    (h : c = .empty ∧ code = .notPresent ∧ cue = 1 ∧ length = 0 ∧ level = r.level ∧ hops = r.hops
      ∨ c = .invalid ∧ code = .type ∧ cue = 4 ∧ length = 0 ∧ level = r.level ∧ hops = r.hops
      ∨ c = .badSound length ∧ code = .badCue ∧ cue = 2 ∧ level = r.level ∧ hops = r.hops
      ∨ (∃ l, c = .link l ∧ cue = 3 ∧ length = 0 ∧ hops = r.hops + 1
        ∧ (r.hops = 4 ∧ code = .linkDepth ∧ level = r.level
          ∨ r.hops < 4 ∧ l.target.sheet = 0 ∧ code = .nullRef ∧ level = max r.level l.carry
          ∨ r.hops < 4 ∧ l.target.sheet ≠ 0 ∧ (header s).directoryCount ≤ l.target.sheet.toNat ∧ code = .limit
            ∧ level = max r.level (max l.carry l.target.level.toNat)))) :
    ∃ x : Resolution, cueRead r c s = endResolution x code s ∧ x.source = r.source ∧ x.origin = r.origin ∧ x.entry = r.entry
      ∧ probeDetail x 0 = probeForm (sheetKindCode r.lastDescriptor) (sheetRightsCode r.lastDescriptor) cue length level hops 0 := by
  rcases h with ⟨rfl, rfl, rfl, rfl, rfl, rfl⟩ | ⟨rfl, rfl, rfl, rfl, rfl, rfl⟩ | ⟨rfl, rfl, rfl, rfl, rfl⟩ |
    ⟨l, rfl, rfl, rfl, rfl, h⟩
  · exact ⟨_, rfl, rfl, rfl, rfl, rfl⟩
  · exact ⟨_, rfl, rfl, rfl, rfl, rfl⟩
  · exact ⟨_, rfl, rfl, rfl, rfl, rfl⟩
  · rcases h with ⟨deep, rfl, rfl⟩ | ⟨shallow, null, rfl, rfl⟩ | ⟨shallow, sheet, beyond, rfl, rfl⟩
    · refine ⟨_, if_pos (by dsimp only; rw [deep]), rfl, rfl, rfl, rfl⟩
    · refine ⟨_, (if_neg (by dsimp only; omega)).trans (beginPass_null null), rfl, rfl, rfl, ?_⟩
      unfold probeDetail probeForm Resolution.follow
      dsimp only
      rw [asserted_of_null null, Nat.max_zero]
      rfl
    · refine ⟨_, (if_neg (by dsimp only; omega)).trans (beginPass_limit sheet beyond), rfl, rfl, rfl, ?_⟩
      unfold probeDetail probeForm Resolution.follow
      dsimp only
      rw [asserted_of_sheet sheet]
      rfl

/-- A LINK is followed (R13). -/
theorem cueRead_follows {r : Resolution} {l : LinkCue} {s : State} (shallow : r.hops < 4) (sheet : l.target.sheet ≠ 0)
    (inside : l.target.sheet.toNat < (header s).directoryCount) : cueRead r (.link l) s =
      place (readJob (.descriptor r.origin) ((header s).directory + 8 * l.target.sheet.toNat) 8)
        (setResolution (some { r with
          lastCue := some .link, clipLength := 0, hops := r.hops + 1
          level := max r.level (max l.carry l.target.level.toNat)
          offset := max (-64) (min 16 (r.offset + l.offset))
          current := l.target, direct := false, phase := .readingDescriptor }) s) := by
  refine ((if_neg (by dsimp only; omega)).trans (beginPass_reads sheet inside)).trans ?_
  unfold Resolution.follow
  dsimp only
  rw [asserted_of_sheet sheet]
  rfl

/-! ### The ends of resolver reads -/

section
variable {phase : Phase} {read : Resolution → List Byte → State → State} {j : Job} {r : Resolution} {s : State}
  (hr : s.resolver.current = some r) (hp : r.phase = phase)
include hr hp

theorem resolverReadDone_well : resolverReadDone phase read j false s = read r (readData j s) s := by
  unfold resolverReadDone
  simp only [Bool.false_eq_true, if_false, hr, hp, if_true]

theorem resolverReadDone_bad :
    resolverReadDone phase read j true s = endResolution r .memoryError (captureJob .read j s) := by
  unfold resolverReadDone
  simp only [if_true, captureJob_resolver, hr, hp]

end

/-- A resolution that the end of a read has ended, as its source hears it. -/
theorem read_tells {j : Job} {e : JobEnd} {s t : State} {r x : Resolution} {code : ResultCode} {d : List Byte}
    (ht : t = arbitrate (endResolution x code (atEnd j e s))) (source : x.source = r.source) (origin : x.origin = r.origin)
    (entry : x.entry = r.entry) (detail : probeDetail x 0 = d) :
    (r.source = .slate → awaiting r.origin s → resultOf r.origin t = some (code, d)
        ∧ slateBut r.origin { atEnd j e s with resolver := { s.resolver with current := none } } t)
      ∧ (r.source ≠ .slate → resolutionRefused code r.source r.origin r.entry s
          { atEnd j e s with resolver := { s.resolver with current := none } } t) := by
  obtain ⟨slate, other⟩ := endResolution_tells x code (atEnd j e s) t ht
  rw [source, origin, entry] at other
  rw [source, origin, detail] at slate
  exact ⟨slate, fun h => ⟨(other h).1, (other h).2.of_same rfl rfl rfl⟩⟩

/-- A resolver read ends with a memory error (R17): captured, and told to the source. -/
theorem read_fails {j : Job} {e : JobEnd} {s t : State} {r : Resolution} {o : Nat}
    (ht : t = arbitrate (endResolution r .memoryError (captureJob .read j (atFault j e s))))
    (hf : ∀ u, j.kind.faultSource u = (.resolver, BitVec.ofNat 32 o)) :
    (r.source = .slate → awaiting r.origin s → t.reports = s.reports
      ∧ resultOf r.origin t = some (.memoryError, probeForm (sheetKindCode r.lastDescriptor)
          (sheetRightsCode r.lastDescriptor) (cueKindCode r.lastCue) r.clipLength r.level r.hops 0))
    ∧ (r.source ≠ .slate → firstReport (aboutRefusal .memoryError r.source r.origin 0 0xFF r.entry [0, 0, 0] s) s t)
    ∧ t.resolver = { s.resolver with current := none } ∧ voicesAlike s t ∧ t.mem = (atFault j e s).mem
    ∧ t.regs.part = s.regs.part
    ∧ (s.fault.record = none → j.address < 2 ^ 32 → t.fault.record = some
        { source := .resolver, kind := .read, address := BitVec.ofNat 32 j.address, detail := BitVec.ofNat 32 o }) := by
  have captured : s.fault.record = none → j.address < 2 ^ 32 → (captureJob .read j (atFault j e s)).fault.record = some
      { source := .resolver, kind := .read, address := BitVec.ofNat 32 j.address, detail := BitVec.ofNat 32 o } :=
    fun free inside => by rw [captureJob_first (s := atFault j e s) free inside, hf]
  generalize hu : captureJob .read j (atFault j e s) = u at ht captured
  have slate : u.slate = s.slate := by rw [← hu, captureJob_slate]; rfl
  have reports : u.reports = s.reports := by rw [← hu, captureJob_reports]; rfl
  have part : u.regs.part = s.regs.part := by rw [← hu, captureJob_part]; rfl
  have clock : u.clock = s.clock := by rw [← hu, captureJob_clock]; rfl
  have resolver : (setResolution none u).resolver = { s.resolver with current := none } := by
    rw [← hu]
    exact congrArg (fun x : Resolver => { x with current := none }) (captureJob_resolver _ _ _)
  have voices : voicesAlike s (setResolution none u) := voicesAlike_of_voices (by rw [← hu]; exact captureJob_voices _ _ _)
  have mem : (setResolution none u).mem = (atFault j e s).mem := by rw [← hu]; exact captureJob_mem _ _ _
  obtain ⟨given, refused⟩ := endResolution_tells r .memoryError u t ht
  by_cases source : r.source = .slate
  · rw [endResolution_slate source] at ht
    have port := portOnly_arbitrate (giveResult r.origin .memoryError (probeDetail r 0) (setResolution none u))
    rw [← ht] at port
    refine ⟨fun _ waits => ⟨?_, (given source ?_).1⟩, fun other => absurd source other, ?_, ?_, ?_, ?_, fun free inside => ?_⟩
    · rw [port.reports, giveResult_reports]
      exact reports
    · exact awaiting_of_slotAt (congrArg (fun y : SlateUnit => y.held.find? fun h : Held => h.taken.slot == r.origin) slate) waits
    · rw [port.resolver, giveResult_resolver, resolver]
    · exact (voices.trans (voicesAlike_of_voices (giveResult_voices _ _ _ _))).trans port.2
    · rw [port.mem, giveResult_mem, mem]
    · rw [port.regs, giveResult_regs]
      exact part
    · rw [port.fault, giveResult_fault]
      exact captured free inside
  · obtain ⟨but, told⟩ := refused source
    rw [endResolution_refused source] at ht
    have port := portOnly_arbitrate
      (emit (aboutRefusal .memoryError r.source r.origin 0 0xFF r.entry [0, 0, 0] u) (setResolution none u))
    rw [← ht] at port
    refine ⟨fun slate => absurd slate source, fun _ => ?_, ?_, ?_, ?_, ?_, fun free inside => ?_⟩
    · have same : aboutRefusal .memoryError r.source r.origin 0 0xFF r.entry [0, 0, 0] u =
          aboutRefusal .memoryError r.source r.origin 0 0xFF r.entry [0, 0, 0] s := by
        unfold aboutRefusal aboutNone
        rw [clock]
      exact (same ▸ told).of_same (by rw [slate]) part reports
    · rw [port.resolver, emit_resolver, resolver]
    · exact (voices.trans (voicesAlike_of_voices (emit_voices _ _))).trans port.2
    · rw [port.mem, emit_mem, mem]
    · rw [port.regs, emit_part]
      exact part
    · rw [port.fault]
      exact emit_kept (s := setResolution none u) (captured free inside) _

/-- Settles O27: the descriptor, the cue record, and the memory error. -/
theorem resolverReadsJudged : Obligations.ResolverReadsJudged := by
  intro e s j o r hr
  refine ⟨fun well hj hp d hd => ?_, fun well hj hp c kind rights hc hk hg => ?_, fun c bad hc => ?_⟩
  · have done : ∀ {v : State}, descriptorRead r d (atEnd j e s) = v → exec (.descriptorReadDone e) s = .next (arbitrate v) :=
      fun hv => congrArg Host.Outcome.next ((jobDone_well well (isKind (is := JobKind.isDescriptorReadDone) hj rfl)).trans
        (congrArg arbitrate ((resolverReadDone_well (s := atEnd j e s) hr hp).trans (hd ▸ hv))))
    refine ⟨fun present valid library level isLive count => ?_, fun code kind rights h => ?_⟩
    · have check : descriptorCheck s.resolver.live { r with lastDescriptor := some d } d = none :=
        descriptorCheck_none present valid library level isLive count
      have act : descriptorRead r d (atEnd j e s) = place (readJob (.cue r.origin) (d.base + 32 * r.current.cue.toNat) 32)
          (setResolution (some { r with lastDescriptor := some d, phase := .readingCue }) (atEnd j e s)) := by
        unfold descriptorRead
        simp only [show (atEnd j e s).resolver.live = s.resolver.live from rfl, check]
      exact ⟨_, done act, portPlus_place _ _ rfl rfl⟩
    · obtain ⟨check, rfl, rfl⟩ := descriptorCheck_some (live := s.resolver.live) (r := { r with lastDescriptor := some d }) h
      have act : descriptorRead r d (atEnd j e s) = endResolution { r with lastDescriptor := some d } code (atEnd j e s) := by
        unfold descriptorRead
        simp only [show (atEnd j e s).resolver.live = s.resolver.live from rfl, check]
      exact ⟨_, done act, read_tells (x := { r with lastDescriptor := some d }) rfl rfl rfl rfl rfl⟩
  · have done : ∀ {v : State}, cueRead r c (atEnd j e s) = v → exec (.cueReadDone e) s = .next (arbitrate v) :=
      fun hv => congrArg Host.Outcome.next ((jobDone_well well (isKind (is := JobKind.isCueReadDone) hj rfl)).trans
        (congrArg arbitrate ((resolverReadDone_well (s := atEnd j e s) hr hp).trans (hc ▸ hv))))
    refine ⟨fun l hl shallow sheet inside => ?_, fun code cue length level hops h => ?_⟩
    · rw [hl] at done
      exact ⟨_, done (cueRead_follows shallow sheet inside), portPlus_place _ _ rfl rfl⟩
    · obtain ⟨x, act, source, origin, entry, detail⟩ := cueRead_ends (s := atEnd j e s) h
      rw [hk, hg]
      exact ⟨_, done act, read_tells rfl source origin entry detail⟩
  · rcases hc with ⟨hj, hp, rfl⟩ | ⟨hj, hp, rfl⟩
    · exact ⟨_, congrArg Host.Outcome.next ((jobDone_bad bad (isKind (is := JobKind.isDescriptorReadDone) hj rfl)).trans
        (congrArg arbitrate (resolverReadDone_bad (s := atFault j e s) hr hp))),
        read_fails rfl fun u => by rw [hj]; rfl⟩
    · exact ⟨_, congrArg Host.Outcome.next ((jobDone_bad bad (isKind (is := JobKind.isCueReadDone) hj rfl)).trans
        (congrArg arbitrate (resolverReadDone_bad (s := atFault j e s) hr hp))),
        read_fails rfl fun u => by rw [hj]; rfl⟩

end Sys2Proof.Machine
end

section
/-! A head that ends (R69, R78, R112, R140, R145). -/

namespace Sys2Proof.Machine

theorem setVoice_setVoice (v : Fin 24) (x y : Voice) (s : State) : setVoice v y (setVoice v x s) = setVoice v y s := by
  unfold setVoice
  dsimp only
  congr 1
  exact Vector.set_set ..

theorem setContent_setVoice (v : Fin 24) (x : Voice) (c : Content) (s : State) :
    setContent v c (setVoice v x s) = setVoice v { x with content := c } s := by
  unfold setContent
  rw [setVoice_self, setVoice_setVoice]

/-! ### The pending start (R69, R112) -/

/-- A voice whose head has landed, the claim still standing: ARMED, or SOUNDING from the next sample on. -/
theorem actOnStart_stands {v : Fin 24} {i : Incoming} {s : State} {c : Content}
    (h : (i.start = .frame ∨ i.start = .none ∨ (∃ target, i.start = .atFrame target false)
        ∨ ∃ stop, i.start = .exact stop ∧ Time.earlier s.clock.showTime stop = true) ∧ c = Content.armed i
      ∨ i.start = .immediate ∧ c = .sounding (i.begin true none)
      ∨ (∃ stop, i.start = .exact stop ∧ Time.earlier s.clock.showTime stop = false
        ∧ c = .sounding (i.begin true (some (s.clock.showTime + 1 - stop).toNat)))
      ∨ (∃ target, i.start = .atFrame target true ∧ s.run.hold ≠ .light
        ∧ (s.clock.frame - target).toNat ≤ i.sound.lateAllowance
        ∧ c = .armed { i with start := .frame, lateMark := some target })) : actOnStart v i s = setContent v c s := by
  unfold actOnStart
  rcases h with ⟨start | start | ⟨target, start⟩ | ⟨stop, start, early⟩, rfl⟩ | ⟨start, rfl⟩ | ⟨stop, start, due, rfl⟩ |
    ⟨target, start, hold, allowed, rfl⟩ <;> rw [start]
  · rfl
  · rfl
  · rfl
  · exact if_pos early
  · rfl
  · exact if_neg (Bool.eq_false_iff.mp due)
  · exact (if_neg hold).trans (if_pos allowed)

/-- An overdue claim that a LIGHT hold or its allowance stops is missed (R112). -/
theorem actOnStart_missed {v : Fin 24} {i : Incoming} {s : State} {target : Word} {reason : Nat}
    (start : i.start = .atFrame target true)
    (h : s.run.hold = .light ∧ reason = 1
      ∨ s.run.hold ≠ .light ∧ i.sound.lateAllowance < (s.clock.frame - target).toNat ∧ reason = 0) :
    actOnStart v i s = missVoice v i reason target (s.clock.frame - target).toNat s := by
  unfold actOnStart
  rw [start]
  rcases h with ⟨hold, rfl⟩ | ⟨hold, late, rfl⟩
  · exact if_pos hold
  · exact (if_neg hold).trans (if_neg (Nat.not_le.mpr late))

/-- A claim that is missed on a voice in PRIMING or ARMED (R91, R111, R112). -/
theorem missVoice_waiting {v : Fin 24} {i : Incoming} {s t : State} {target : Word} {reason late : Nat}
    (hc : (s.voice v).content = .priming i ∨ (s.voice v).content = .armed i) (hr : reason = 0 ∨ reason = 1)
    (ht : t = arbitrate (missVoice v i reason target late s)) :
    (t.voice v).content = .idle ∧ (t.voice v).claimNo = (s.voice v).claimNo ∧ (∀ w, w ≠ v → voiceAlike w s t)
      ∧ t.startOrder = s.startOrder
      ∧ firstReport (aboutClaim .missed v i.claim ([BitVec.ofNat 8 reason, 0] ++ toBytes 2 i.claim.number.toNat
          ++ toBytes 4 target.toNat ++ toBytes 2 (min 65535 late)) s) s t := by
  have gone : withdraw v s = goIdle v (i.claim.number, false) s := by
    unfold withdraw
    dsimp only
    rcases hc with hc | hc <;> rw [hc]
  unfold missVoice at ht
  rw [gone] at ht
  have port := portOnly_arbitrate (emit (missedReport v i.claim reason target late (now32 s))
    (goIdle v (i.claim.number, false) s))
  rw [← ht] at port
  have voices := port.2
  refine ⟨?_, ?_, fun w hw => ?_, ?_, ?_⟩
  · rw [voices.content, emit_voice, goIdle_at, if_pos rfl]
    rfl
  · rw [voices.claimNo, emit_voice, goIdle_at, if_pos rfl]
    rfl
  · have alike := voices w
    rw [emit_voice, goIdle_at, if_neg hw] at alike
    exact alike
  · rw [port.startOrder, emit_startOrder, goIdle_startOrder]
  · have same : missedReport v i.claim reason target late (now32 s) =
        aboutClaim .missed v i.claim ([BitVec.ofNat 8 reason, 0] ++ toBytes 2 i.claim.number.toNat ++ toBytes 4 target.toNat
          ++ toBytes 2 (min 65535 late)) s := by
      rcases hr with rfl | rfl <;> rfl
    rw [ht, same]
    exact (firstReport_emitted _ _).of_same rfl rfl rfl

/-! ### The end of a HEAD job -/

section
variable {j : Job} {v : Fin 24} {n : Half} {s : State} (hj : j.kind = .head v n)
include hj

theorem headStale_false (hn : n = (s.voice v).claimNo)
    (hc : (∃ i, (s.voice v).content = .priming i) ∨ ∃ p i l, (s.voice v).content = .handover p i l) :
    headStale s j = false := by
  unfold headStale
  rw [hj, hn]
  rcases hc with ⟨i, hc⟩ | ⟨p, i, l, hc⟩ <;> simp [hc]

theorem headDone_priming {i : Incoming} (hn : n = (s.voice v).claimNo) (hc : (s.voice v).content = .priming i) :
    headDone j false s = actOnStart v i
      (setVoice v { s.voice v with head := decodeFrames i.sound.format (min i.sound.length 2048) 0 (readData j s) } s) := by
  unfold headDone
  simp only [hj, Bool.false_eq_true, if_false, headStale_false hj hn (.inl ⟨i, hc⟩), hc, Content.incoming, landHead]
  rfl

theorem headDone_handover {p : Playing} {i : Incoming} {l : Bool} (hn : n = (s.voice v).claimNo)
    (hc : (s.voice v).content = .handover p i l) :
    headDone j false s = setVoice v { s.voice v with
      head := decodeFrames i.sound.format (min i.sound.length 2048) 0 (readData j s)
      content := .handover p i true } s := by
  unfold headDone
  simp only [hj, Bool.false_eq_true, if_false, headStale_false hj hn (.inr ⟨p, i, l, hc⟩), hc, Content.incoming, landHead]
  rfl

/-- A head that nothing awaits is dropped (R140). -/
theorem headDone_stale (h : n ≠ (s.voice v).claimNo ∨ (∀ i, (s.voice v).content ≠ .priming i)
    ∧ ∀ p i l, (s.voice v).content ≠ .handover p i l) : headDone j false s = s := by
  have stale : headStale s j = true := by
    unfold headStale
    rw [hj]
    dsimp only
    rcases h with number | ⟨priming, handover⟩
    · rw [bne_iff_ne.mpr (Ne.symm number)]
      rfl
    · rw [Bool.or_eq_true]
      right
      split
      · next i hc => exact absurd hc (priming i)
      · next p i l hc => exact absurd hc (handover p i l)
      · rfl
  unfold headDone
  simp only [hj, Bool.false_eq_true, if_false, stale, if_true]

/-- A memory error on the head that a claim awaits (R145). -/
theorem headDone_bad {i : Incoming} (hn : n = (s.voice v).claimNo) (hi : (s.voice v).content.incoming = some i)
    (waits : ∀ p, (s.voice v).content ≠ .armed p) : headDone j true s = headFault v i j (captureJob .read j s) := by
  have awaited : (∃ i, (s.voice v).content = .priming i) ∨ ∃ p i l, (s.voice v).content = .handover p i l := by
    cases hc : (s.voice v).content with
    | priming i => exact .inl ⟨i, rfl⟩
    | handover p i l => exact .inr ⟨p, i, l, rfl⟩
    | armed p => exact absurd hc (waits p)
    | _ => rw [hc] at hi; cases hi
  unfold headDone
  simp only [hj, if_true, headStale_false (s := captureJob .read j s) hj (by simpa using hn) (by simpa using awaited),
    captureJob_voice, hi, Bool.false_eq_true, if_false]

end

theorem withdraw_claimNo (v : Fin 24) (s : State) : ((withdraw v s).voice v).claimNo = (s.voice v).numberAfterWithdraw := by
  unfold withdraw Voice.numberAfterWithdraw
  cases hc : (s.voice v).content <;> simp only [hc, goIdle_at, if_true, keyDucks_voice, setVoice_self, Voice.toIdle]

theorem withdraw_lastEnd {v : Fin 24} {s : State} {i : Incoming} (h : (s.voice v).content.incoming = some i) :
    ((withdraw v s).voice v).lastEnd = some (i.claim.number, false) := by
  unfold withdraw
  dsimp only
  cases hc : (s.voice v).content with
  | priming i' => rw [hc] at h; cases h; rw [goIdle_at, if_pos rfl]
  | armed i' => rw [hc] at h; cases h; rw [goIdle_at, if_pos rfl]
  | handover p i' l => rw [hc] at h; cases h; rw [keyDucks_voice, setVoice_self]
  | _ => rw [hc] at h; cases h

theorem withdraw_eq (v : Fin 24) (s : State) :
    withdraw v s = { s with voices := (withdraw v s).voices, mix := (withdraw v s).mix } := by
  unfold withdraw keyDucks
  dsimp only
  split
  · rfl
  · rfl
  · split <;> rfl
  · rfl

/-- A withdrawal hands no report on. -/
theorem silent_withdraw (v : Fin 24) (s : State) : Silent s (withdraw v s) := by
  have frame := withdraw_eq v s
  refine ⟨?_, ?_, ?_, keepsLine_of_port ?_⟩ <;> rw [frame]

theorem silent_captureJob (k : FaultKind) (j : Job) (s : State) : Silent s (captureJob k j s) :=
  ⟨by rw [captureJob_slate], captureJob_part k j s, captureJob_reports k j s, keepsLine_of_eq (line_captureJob k j s)⟩

/-- A memory error on the head that a claim awaits, as far as the arbiter's turn (R91, R145). -/
theorem headFault_withdraws {j : Job} {v : Fin 24} {i : Incoming} {s t : State} (hi : (s.voice v).content.incoming = some i)
    (hk : j.kind.faultSource s = (.fetch, BitVec.ofNat 32 v.val))
    (ht : t = arbitrate (headFault v i j (captureJob .read j s))) :
    (t.voice v).content = (s.voice v).content.afterWithdraw ∧ (t.voice v).claimNo = (s.voice v).numberAfterWithdraw
      ∧ (∀ w, w ≠ v → voiceAlike w s t) ∧ (t.voice v).lastEnd = some (i.claim.number, false) ∧ t.mem = s.mem
      ∧ t.startOrder = s.startOrder ∧ t.regs.part = s.regs.part ∧ t.clock = s.clock
      ∧ (j.address < 2 ^ 32 →
        (s.fault.record = none → t.fault.record = some
          { source := .fetch, kind := .read, address := BitVec.ofNat 32 j.address, detail := BitVec.ofNat 32 v.val })
        ∧ firstReport (aboutClaim .memoryFault v i.claim ([0, 0] ++ toBytes 2 i.claim.number.toNat ++ toBytes 4 j.address) s)
            s t) := by
  have acts : Acts (fun j => j.kind.reports ∨ j.kind.completes) (captureJob .read j s) (headFault v i j (captureJob .read j s)) :=
    (acts_emit _ _).then ((acts_withdraw _ _).then .still)
  generalize hu : captureJob .read j s = u at ht acts
  have voices : u.voices = s.voices := by rw [← hu, captureJob_voices]
  have same (w : Fin 24) : u.voice w = s.voice w := voice_of_voices voices w
  have quiet : Silent s u := hu ▸ silent_captureJob _ _ _
  have port := portOnly_arbitrate (headFault v i j u)
  rw [← ht] at port
  have voice (w : Fin 24) : (headFault v i j u).voice w = (withdraw v (nextFree u)).voice w := emit_voice _ _ _
  have frame := (releaseOnly_withdraw v (nextFree u)).trans (releaseOnly_emit
    (memoryFaultReport v i.claim 0 (addressWord u j.address) (now32 u)) _)
  refine ⟨?_, ?_, fun w hw => ?_, ?_, ?_, ?_, ?_, ?_, fun inside => ⟨fun free => ?_, ?_⟩⟩
  · rw [port.2.content, voice, withdraw_content, if_pos rfl]
    exact congrArg (fun x : Voice => x.content.afterWithdraw) (same v)
  · rw [port.2.claimNo, voice, withdraw_claimNo]
    exact congrArg Voice.numberAfterWithdraw (same v)
  · have alike := port.2 w
    rw [voice, withdraw_other _ hw, show (nextFree u).voice w = s.voice w from same w] at alike
    exact alike
  · rw [port.2.lastEnd, voice]
    exact withdraw_lastEnd (by rw [show (nextFree u).voice v = s.voice v from same v, hi])
  · exact port.mem.trans (frame.mem.trans (by rw [nextFree_mem, ← hu, captureJob_mem]))
  · rw [port.startOrder]
    unfold headFault
    rw [emit_startOrder, withdraw_startOrder, nextFree_startOrder, ← hu, captureJob_startOrder]
  · rw [port.regs]
    exact frame.part.trans (by rw [nextFree_regs, ← hu, captureJob_part])
  · exact port.clock.trans (frame.clock.trans (by rw [nextFree_clock, ← hu, captureJob_clock]))
  · rw [port.fault]
    refine acts.record ?_
    rw [← hu, captureJob_first free inside, hk]
  · rw [ht]
    have report : memoryFaultReport v i.claim 0 (addressWord u j.address) (now32 u) =
        aboutClaim .memoryFault v i.claim ([0, 0] ++ toBytes 2 i.claim.number.toNat ++ toBytes 4 j.address) s := by
      unfold memoryFaultReport
      rw [addressWord_inside inside, BitVec.toNat_ofNat, Nat.mod_eq_of_lt inside, ← hu]
      unfold now32
      rw [captureJob_clock]
      rfl
    have next : Silent u (nextFree u) := ⟨rfl, rfl, rfl, keepsLine_of_port rfl⟩
    unfold headFault
    rw [report]
    exact ((recorded_emit (quiet.trans (next.trans (silent_withdraw v _)))).keeps (keepsLine_arbitrate _)).first

/-- A landed head whose pending start is missed (R112). -/
theorem landed_missed {v : Fin 24} {i : Incoming} {u t : State} {x : Voice} {target : Word} {reason : Byte} {late : Nat}
    (hc : x.content = .priming i) (start : i.start = .atFrame target true) (hl : late = (u.clock.frame - target).toNat)
    (h : u.run.hold = .light ∧ reason = 1 ∨ u.run.hold ≠ .light ∧ i.sound.lateAllowance < late ∧ reason = 0)
    (ht : t = arbitrate (actOnStart v i (setVoice v x u))) :
    (t.voice v).content = .idle ∧ (t.voice v).claimNo = x.claimNo ∧ (∀ w, w ≠ v → voiceAlike w u t)
      ∧ t.startOrder = u.startOrder
      ∧ firstReport (aboutClaim .missed v i.claim ([reason, 0] ++ toBytes 2 i.claim.number.toNat
          ++ toBytes 4 target.toNat ++ toBytes 2 (min 65535 late)) u) u t := by
  have content : ((setVoice v x u).voice v).content = .priming i := by rw [setVoice_self, hc]
  obtain ⟨r, judged, code, small⟩ : ∃ r, (u.run.hold = .light ∧ r = 1
      ∨ u.run.hold ≠ .light ∧ i.sound.lateAllowance < (u.clock.frame - target).toNat ∧ r = 0)
      ∧ reason = BitVec.ofNat 8 r ∧ (r = 0 ∨ r = 1) := by
    rcases h with ⟨hold, rfl⟩ | ⟨hold, beyond, rfl⟩
    · exact ⟨1, .inl ⟨hold, rfl⟩, rfl, .inr rfl⟩
    · exact ⟨0, .inr ⟨hold, hl ▸ beyond, rfl⟩, rfl, .inl rfl⟩
  rw [actOnStart_missed (s := setVoice v x u) start judged] at ht
  obtain ⟨idle, number, others, order, told⟩ := missVoice_waiting (.inl content) small ht
  rw [setVoice_self] at number
  refine ⟨idle, number, fun w hw => ?_, order, ?_⟩
  · have alike := others w hw
    unfold voiceAlike at alike ⊢
    rwa [setVoice_other _ _ hw] at alike
  · rw [code, hl]
    exact told.of_same rfl rfl rfl

/-- Settles O32. -/
theorem headLands : Obligations.HeadLands := by
  intro e s j v n hj
  have ends (well : endsWell j e s) : exec (.headJobDone e) s = .next (arbitrate (headDone j false (atEnd j e s))) :=
    congrArg Host.Outcome.next (jobDone_well well (isKind (is := JobKind.isHeadJobDone) hj rfl))
  refine ⟨fun well number => ⟨_, ends well, fun i frames late hc hf => ?_, fun p i l hc => ?_⟩,
    fun bad number i hi waits => ?_, fun well stale => ⟨_, ends well, ?_⟩⟩
  · rw [headDone_priming (s := atEnd j e s) hj number hc]
    refine ⟨fun c hs => ?_, fun target reason start hl hr => ?_⟩
    · have act := actOnStart_stands (v := v) (s := setVoice v { s.voice v with head := frames } (atEnd j e s)) hs
      rw [setContent_setVoice] at act
      subst hf
      exact act ▸ portBut_arbitrate _
    · obtain ⟨idle, claimNo, others, order, told⟩ := landed_missed (v := v) (u := atEnd j e s) (reason := reason)
        (x := { s.voice v with head := decodeFrames i.sound.format (min i.sound.length 2048) 0 (readData j (atEnd j e s)) })
        hc start hl hr rfl
      exact ⟨idle, claimNo, others, order, told.of_same rfl rfl rfl⟩
  · rw [headDone_handover (s := atEnd j e s) hj number hc]
    exact portBut_arbitrate _
  · refine ⟨_, congrArg Host.Outcome.next (jobDone_bad bad (isKind (is := JobKind.isHeadJobDone) hj rfl)), ?_⟩
    rw [headDone_bad (s := atFault j e s) hj number hi waits]
    obtain ⟨content, claimNo, others, lastEnd, mem, order, part, clock, told⟩ :=
      headFault_withdraws (s := atFault j e s) hi (by rw [hj]; rfl) rfl
    exact ⟨content, claimNo, others, lastEnd, mem, order, part, clock, fun inside =>
      ⟨(told inside).1, (told inside).2.of_same rfl rfl rfl⟩⟩
  · rw [headDone_stale (s := atEnd j e s) hj stale]
    exact portBut_arbitrate _

end Sys2Proof.Machine
end

section
/-! SUPPORT. What withdrawals, releases and ends of cues make of the voice records. -/

namespace Sys2Proof.Machine

/-! ### Withdrawal (R91) and the cancelling of a follow-on (R85) -/

/-- A voice record returned to IDLE, its last claim ended as `e` says (R77). -/
def Voice.ended (x : Voice) (e : Half × Bool) : Voice := { x.toIdle with lastEnd := some e }

/-- A voice record whose unsounded claim, if it has one, is withdrawn (R91). -/
def Voice.withdrawn (x : Voice) : Voice :=
  match x.content with
  | .priming i => x.ended (i.claim.number, false)
  | .armed i => x.ended (i.claim.number, false)
  | .handover p i _ =>
    { x with claimNo := x.claimNo + 1, content := .releasing p, lastEnd := some (i.claim.number, false), head := [] }
  | _ => x

section
variable (x : Voice)

@[simp] theorem ended_refillPending (e : Half × Bool) : (x.ended e).refillPending = x.refillPending := rfl

@[simp] theorem ended_content (e : Half × Bool) : (x.ended e).content = .idle := rfl

@[simp] theorem withdrawn_refillPending : x.withdrawn.refillPending = x.refillPending := by
  unfold Voice.withdrawn
  split <;> rfl

@[simp] theorem withdrawn_content : x.withdrawn.content = x.content.afterWithdraw := by
  unfold Voice.withdrawn
  cases hc : x.content <;> simp only [Voice.ended, Voice.toIdle, Content.afterWithdraw, hc]

@[simp] theorem withdrawn_claimNo : x.withdrawn.claimNo = x.numberAfterWithdraw := by
  unfold Voice.withdrawn Voice.numberAfterWithdraw
  cases hc : x.content <;> rfl

theorem withdrawn_of_none {x : Voice} (h : x.content.incoming = none) : x.withdrawn = x := by
  unfold Voice.withdrawn
  split
  · next hc => rw [hc] at h; cases h
  · next hc => rw [hc] at h; cases h
  · next hc => rw [hc] at h; cases h
  · rfl

theorem withdrawn_lastEnd {x : Voice} {i : Incoming} (h : x.content.incoming = some i) :
    x.withdrawn.lastEnd = some (i.claim.number, false) := by
  unfold Voice.withdrawn
  cases hc : x.content <;> rw [hc] at h <;> cases h <;> rfl

end

theorem withdraw_voice (v w : Fin 24) (s : State) :
    (withdraw v s).voice w = if w = v then (s.voice v).withdrawn else s.voice w := by
  split
  · next e =>
    subst e
    unfold withdraw Voice.withdrawn
    cases hc : (s.voice w).content <;> simp only [hc, goIdle_at, if_true, keyDucks_voice, setVoice_self, Voice.ended]
  · next e => exact withdraw_other s e

theorem withdrawEnded_voice (v w : Fin 24) (r : EndReason) (s : State) :
    (withdrawEnded v r s).voice w = if w = v then (s.voice v).withdrawn else s.voice w := by
  unfold withdrawEnded
  split
  · rw [emitEnded_voice, withdraw_voice]
  · next none_ =>
    split
    · next e => rw [withdrawn_of_none none_, e]
    · rfl

/-- A voice record whose unsounded claim is withdrawn when it follows the claim `n` of voice `v` (R85). -/
def Voice.cancelled (v : Fin 24) (n : Half) (x : Voice) : Voice :=
  if (x.content.incoming.elim false fun i => i.follows v n) = true then x.withdrawn else x

section
variable {v : Fin 24} {n : Half} {x : Voice}

theorem cancelled_of_none (h : x.content.incoming = none) : x.cancelled v n = x := by
  unfold Voice.cancelled
  rw [withdrawn_of_none h, ite_self]

theorem cancelled_of_other (h : ∀ i, x.content.incoming = some i → i.follows v n = false) : x.cancelled v n = x := by
  unfold Voice.cancelled
  refine if_neg fun cancels => ?_
  cases hi : x.content.incoming with
  | none => rw [hi] at cancels; cases cancels
  | some i =>
    rw [hi] at cancels
    exact Bool.noConfusion (cancels.symm.trans (h i hi))

theorem cancelled_of_follows {i : Incoming} (h : x.content.incoming = some i) (hf : i.follows v n = true) :
    x.cancelled v n = x.withdrawn := by
  unfold Voice.cancelled
  rw [h]
  exact if_pos hf

@[simp] theorem cancelled_refillPending : (x.cancelled v n).refillPending = x.refillPending := by
  unfold Voice.cancelled
  split
  · exact withdrawn_refillPending x
  · rfl

theorem cancelled_content : (x.cancelled v n).content = x.content ∨ (x.cancelled v n).content = x.content.afterWithdraw := by
  unfold Voice.cancelled
  split
  · exact .inr (withdrawn_content x)
  · exact .inl rfl

end

theorem cancelFollower_voice (v : Fin 24) (n : Half) (s : State) (u w : Fin 24) :
    (cancelFollower v n s u).voice w = if w = u then (s.voice u).cancelled v n else s.voice w := by
  have same : (if w = u then s.voice u else s.voice w) = s.voice w := ite_eq_right_iff.mpr fun e => e ▸ rfl
  unfold cancelFollower
  cases hi : (s.voice u).content.incoming with
  | none => rw [cancelled_of_none hi, same]
  | some i =>
    dsimp only
    by_cases h : i.follows v n = true
    · rw [if_pos h, emit_voice, withdraw_voice, cancelled_of_follows hi h]
    · rw [if_neg h, cancelled_of_other (fun j hj => by
        rw [hi] at hj
        cases hj
        exact Bool.eq_false_iff.mpr h), same]

/-- The voices after each of the list `l` has been tested once. -/
theorem foldl_cancelFollower_voice (v : Fin 24) (n : Half) (w : Fin 24) (l : List (Fin 24)) (hl : l.Nodup) :
    ∀ s : State, (l.foldl (cancelFollower v n) s).voice w = if w ∈ l then (s.voice w).cancelled v n else s.voice w := by
  induction l with
  | nil => intro s; rfl
  | cons u l ih =>
    intro s
    rw [List.nodup_cons] at hl
    rw [List.foldl_cons, ih hl.2, cancelFollower_voice]
    by_cases e : w = u
    · subst e
      rw [if_neg hl.1, if_pos rfl, if_pos List.mem_cons_self]
    · simp only [e, if_false, List.mem_cons, false_or]

theorem cancelFollowers_voice (v : Fin 24) (n : Half) (s : State) (w : Fin 24) :
    (cancelFollowers v n s).voice w = (s.voice w).cancelled v n :=
  (foldl_cancelFollower_voice v n w allVoices (List.nodup_finRange 24) s).trans (if_pos (List.mem_finRange w))

/-! ### Ends and releases (R84, R87, R89) -/

theorem endRelease_voice (v w : Fin 24) (p : Playing) (s : State) :
    (endRelease v p s).voice w = if w = v then (s.voice v).ended (p.claim.number, false) else s.voice w := by
  unfold endRelease
  dsimp only
  split
  · rw [tell_voice, goIdle_at]; rfl
  · rw [goIdle_at]; rfl

/-- A voice record whose SOUNDING cue `p` is released over `l` samples (R84, R89). -/
def Voice.stopped (x : Voice) (p : Playing) (l : Nat) (r : EndReason) : Voice :=
  if l = 0 then x.ended (p.claim.number, false)
  else { x with content := .releasing { p with fade := .release p.fadeValue l 0, endReason := some r } }

/-- A voice record whose release is shortened to `l` (R89). -/
def Voice.shortened (x : Voice) (p : Playing) (l : Nat) : Voice :=
  if l < p.fade.remaining then
    if l = 0 then x.ended (p.claim.number, false) else { x with content := .releasing { p with fade := .release p.fadeValue l 0 } }
  else x

@[simp] theorem stopped_refillPending (x : Voice) (p : Playing) (l : Nat) (r : EndReason) :
    (x.stopped p l r).refillPending = x.refillPending := by
  unfold Voice.stopped
  split <;> rfl

@[simp] theorem shortened_refillPending (x : Voice) (p : Playing) (l : Nat) :
    (x.shortened p l).refillPending = x.refillPending := by
  unfold Voice.shortened
  repeat' split
  all_goals rfl

theorem releaseSounding_voice (v w : Fin 24) (p : Playing) (l : Nat) (r : EndReason) (s : State) :
    (releaseSounding v p l r s).voice w =
      if w = v then (s.voice v).stopped p l r else (s.voice w).cancelled v p.claim.number := by
  unfold releaseSounding Voice.stopped
  dsimp only
  by_cases h : l = 0
  · rw [if_pos h, if_pos h, emitEnded_voice, cancelFollowers_voice, goIdle_at, leaveOrder_voice, leaveOrder_voice]
    split
    · exact cancelled_of_none rfl
    · rfl
  · rw [if_neg h, if_neg h, cancelFollowers_voice]
    unfold setContent
    rw [setVoice_at, leaveOrder_voice, leaveOrder_voice]
    split
    · exact cancelled_of_none rfl
    · rfl

theorem shortenRelease_voice (v w : Fin 24) (p : Playing) (l : Nat) (s : State) :
    (shortenRelease v p l s).voice w = if w = v then (s.voice v).shortened p l else s.voice w := by
  unfold shortenRelease Voice.shortened
  by_cases shorter : l < p.fade.remaining
  · rw [if_pos shorter, if_pos shorter]
    by_cases h : l = 0
    · rw [if_pos h, if_pos h, endRelease_voice]
    · rw [if_neg h, if_neg h]
      exact setVoice_at _ _ _ _
  · rw [if_neg shorter, if_neg shorter]
    split
    · next e => rw [e]
    · rfl

/-- A voice record under a release (R93, R94, R97 to R99, R102). -/
def Voice.afterRelease (x : Voice) (r : EndReason) (length : Playing → Nat) (shorten : Bool) : Voice :=
  match x.content with
  | .idle => x
  | .priming _ => x.withdrawn
  | .armed _ => x.withdrawn
  | .sounding p => x.stopped p (length p) r
  | .releasing p => if shorten then x.shortened p (length p) else x
  | .handover p _ _ => if shorten then x.withdrawn.shortened p (length p) else x.withdrawn

@[simp] theorem afterRelease_refillPending (x : Voice) (r : EndReason) (f : Playing → Nat) (b : Bool) :
    (x.afterRelease r f b).refillPending = x.refillPending := by
  unfold Voice.afterRelease
  cases x.content <;> dsimp only <;> (try split) <;> simp

/-- Another voice's record, when a voice with content `c` is released: a follow-on of the cue that was SOUNDING is
withdrawn (R85). -/
def Voice.besideRelease (v : Fin 24) (c : Content) (x : Voice) : Voice :=
  match c with
  | .sounding p => x.cancelled v p.claim.number
  | _ => x

@[simp] theorem besideRelease_refillPending (v : Fin 24) (c : Content) (x : Voice) :
    (x.besideRelease v c).refillPending = x.refillPending := by
  unfold Voice.besideRelease
  split
  · exact cancelled_refillPending
  · rfl

theorem releaseNow_voice (v w : Fin 24) (r : EndReason) (f : Playing → Nat) (b : Bool) (s : State) :
    (releaseNow v r f b s).voice w =
      if w = v then (s.voice v).afterRelease r f b else (s.voice w).besideRelease v (s.voice v).content := by
  unfold releaseNow Voice.afterRelease Voice.besideRelease
  cases hc : (s.voice v).content with
  | idle =>
    dsimp only
    split
    · next e => rw [e]
    · rfl
  | priming i => exact withdrawEnded_voice v w r s
  | armed i => exact withdrawEnded_voice v w r s
  | sounding p => exact releaseSounding_voice v w p (f p) r s
  | releasing p =>
    dsimp only
    cases b with
    | true => exact shortenRelease_voice v w p (f p) s
    | false =>
      simp only [Bool.false_eq_true, if_false]
      split
      · next e => rw [e]
      · rfl
  | handover p i l =>
    dsimp only
    cases b with
    | true =>
      simp only [if_true]
      rw [shortenRelease_voice, withdrawEnded_voice, withdrawEnded_voice, if_pos rfl]
      split <;> rfl
    | false =>
      simp only [Bool.false_eq_true, if_false]
      exact withdrawEnded_voice v w r s

theorem releaseNow_startOrder (v : Fin 24) (r : EndReason) (f : Playing → Nat) (b : Bool) (s : State) :
    (releaseNow v r f b s).startOrder =
      if (s.voice v).content.isSounding then s.startOrder.erase v else s.startOrder := by
  unfold releaseNow
  cases hc : (s.voice v).content with
  | idle => rfl
  | priming i => exact withdrawEnded_startOrder v r s
  | armed i => exact withdrawEnded_startOrder v r s
  | sounding p => exact releaseSounding_startOrder v p (f p) r s
  | releasing p =>
    dsimp only
    split
    · exact shortenRelease_startOrder v p (f p) s
    · rfl
  | handover p i l =>
    dsimp only
    split
    · exact (shortenRelease_startOrder v p (f p) _).trans (withdrawEnded_startOrder v r s)
    · exact withdrawEnded_startOrder v r s

/-- A voice with no entry into SOUNDING still to come is released as it stands. -/
theorem completeEntry_of_entered {v : Fin 24} {s : State} (h : ∀ q, (s.voice v).content = .sounding q → q.entry = none) :
    completeEntry v s = s := by
  unfold completeEntry
  split
  · next p hc => rw [h p hc]
  · rfl

theorem releaseVoice_entered {v : Fin 24} {s : State} (h : ∀ q, (s.voice v).content = .sounding q → q.entry = none)
    (r : EndReason) (f : Playing → Nat) (b : Bool) : releaseVoice v r f b s = releaseNow v r f b s := by
  unfold releaseVoice
  rw [completeEntry_of_entered h]

/-! ### Refills stay pending through voice events (R141) -/

/-- Every voice has the refill pending flag it had. -/
def pendingAlike (s t : State) : Prop := ∀ w, (t.voice w).refillPending = (s.voice w).refillPending

section
variable {s t u : State}

theorem pendingAlike.trans (h : pendingAlike s t) (h' : pendingAlike t u) : pendingAlike s u := fun w => (h' w).trans (h w)

theorem pendingAlike_of_voices (h : t.voices = s.voices) : pendingAlike s t := fun w => by rw [voice_of_voices h]

theorem pendingAlike_foldl {α : Type} (f : State → α → State) (h : ∀ t a, pendingAlike t (f t a)) (l : List α) :
    ∀ s, pendingAlike s (l.foldl f s) := by
  induction l with
  | nil => intro s w; rfl
  | cons a l ih => intro s; exact (h s a).trans (ih _)

end

theorem pendingAlike_setVoice {v : Fin 24} {x : Voice} {s : State} (h : x.refillPending = (s.voice v).refillPending) :
    pendingAlike s (setVoice v x s) := fun w => by
  rw [setVoice_at]
  split
  · next e => rw [e, h]
  · rfl

theorem pendingAlike_releaseSounding (v : Fin 24) (p : Playing) (l : Nat) (r : EndReason) (s : State) :
    pendingAlike s (releaseSounding v p l r s) := fun w => by
  rw [releaseSounding_voice]
  split
  · next e => rw [e, stopped_refillPending]
  · exact cancelled_refillPending

theorem pendingAlike_releaseNow (v : Fin 24) (r : EndReason) (f : Playing → Nat) (b : Bool) (s : State) :
    pendingAlike s (releaseNow v r f b s) := fun w => by
  rw [releaseNow_voice]
  split
  · next e => rw [e, afterRelease_refillPending]
  · exact besideRelease_refillPending _ _ _

theorem emitLate_voices (v : Fin 24) (c : Claim) (l : Lateness) (t : Word) (s : State) :
    (emitLate v c l t s).voices = s.voices := by
  unfold emitLate
  dsimp only
  repeat' split
  all_goals simp only [emit_voices]

/-- The follow-on lead placed its request, or nothing happened (R73). -/
theorem testFollow_cases (v : Fin 24) (s : State) : testFollow v s = s
    ∨ ∃ p f, (s.voice v).content = .sounding p
      ∧ testFollow v s = { setContent v (.sounding { p with followPlaced := true }) s with
          resolver := { s.resolver with follows := placeFollow f s.resolver.follows } } := by
  unfold testFollow
  split
  · split
    · exact .inr ⟨_, _, by assumption, rfl⟩
    · exact .inl rfl
  · exact .inl rfl

theorem pendingAlike_testFollow (v : Fin 24) (s : State) : pendingAlike s (testFollow v s) := by
  rcases testFollow_cases v s with h | ⟨p, f, _, h⟩ <;> rw [h]
  · exact fun _ => rfl
  · exact fun w => pendingAlike_setVoice (v := v) (s := s)
      (x := { s.voice v with content := .sounding { p with followPlaced := true } }) rfl w

theorem pendingAlike_kickOthers (v : Fin 24) (g : Nat) (s : State) : pendingAlike s (kickOthers v g s) := by
  unfold kickOthers
  split
  · exact fun _ => rfl
  · refine pendingAlike_foldl _ (fun t w => ?_) _ _
    unfold kick
    repeat' split
    · exact fun _ => rfl
    · exact pendingAlike_releaseSounding _ _ _ _ _
    · exact fun _ => rfl
    · exact fun _ => rfl

theorem pendingAlike_completeEntry (v : Fin 24) (s : State) : pendingAlike s (completeEntry v s) := by
  unfold completeEntry
  repeat' split
  · unfold entryEffects
    dsimp only
    refine .trans ?_ (pendingAlike_testFollow _ _)
    refine .trans ?_ (pendingAlike_of_voices (emitLate_voices _ _ _ _ _))
    refine .trans ?_ (pendingAlike_of_voices ((emit_voices _ _).trans (keyDucks_voices _ _ _)))
    refine .trans ?_ (pendingAlike_kickOthers _ _ _)
    exact pendingAlike_setVoice rfl
  · exact fun _ => rfl
  · exact fun _ => rfl

theorem pendingAlike_completeEntries (p : Content → Bool) (s : State) : pendingAlike s (completeEntries p s) := by
  refine pendingAlike_foldl _ (fun t v => ?_) _ _
  split
  · exact pendingAlike_completeEntry v t
  · exact fun _ => rfl

end Sys2Proof.Machine
end

section
/-! A refill that ends, and the refill test (R142, R143, R145). -/

namespace Sys2Proof.Machine

/-! ### The refill test (R142) -/

/-- The REFILL job that is due for a voice, if one is (R142). -/
def refillOf (s : State) (v : Fin 24) : Option Job :=
  if refillDue s (s.voice v) then
    match (s.voice v).content.playing, (s.voice v).feeding with
    | some p, some c => some (refillJob v p c (s.voice v).fetchPosition)
    | _, _ => none
  else none

theorem placeRefill_eq (s : State) (v : Fin 24) : placeRefill s v =
    match refillOf s v with
    | some j => place j (setVoice v { s.voice v with refillPending := true } s)
    | none => s := by
  unfold placeRefill refillOf
  dsimp only
  by_cases h : refillDue s (s.voice v) = true
  · rw [if_pos h, if_pos h]
    cases (s.voice v).content.playing with
    | none => rfl
    | some p =>
      cases (s.voice v).feeding with
      | none => rfl
      | some c => rfl
  · rw [if_neg h, if_neg h]

theorem refillDue_iff {s : State} {v : Fin 24} {p : Playing} {n : Half} (hp : (s.voice v).content.playing = some p)
    (hn : (s.voice v).feeding = some n) :
    refillDue s (s.voice v) = true ↔ (s.voice v).refillPending = false ∧ needsRefill s v p n := by
  unfold refillDue needsRefill
  rw [hp, hn]
  simp only [Bool.and_eq_true, Bool.or_eq_true, decide_eq_true_eq, Option.isSome_some, Bool.not_eq_true', true_and,
    and_true]
  rw [show Config.refillThreshold = 1024 from rfl]
  tauto

theorem refillOf_iff (s : State) (v : Fin 24) (j : Job) : refillOf s v = some j ↔
    ∃ p n, (s.voice v).refillPending = false ∧ needsRefill s v p n ∧ j = refillFor v p n (s.voice v).fetchPosition := by
  unfold refillOf
  constructor
  · intro h
    split at h
    · next due =>
      split at h
      · next p n hp hn =>
        obtain ⟨free, need⟩ := (refillDue_iff hp hn).mp due
        exact ⟨p, n, free, need, (Option.some.inj h).symm⟩
      · cases h
    · cases h
  · rintro ⟨p, n, free, need, rfl⟩
    have hp : (s.voice v).content.playing = some p := need.2.1
    have hn : (s.voice v).feeding = some n := need.2.2.1
    rw [if_pos ((refillDue_iff hp hn).mpr ⟨free, need⟩), hp, hn]
    rfl

/-- The refill tests of the voices in `l` lead from `s` to `t`: their jobs are placed and pending, and nothing else happens. -/
structure Refilled (l : List (Fin 24)) (s t : State) : Prop where
  regs : t.regs = s.regs
  voice : ∀ w, t.voice w = if w ∈ l ∧ (refillOf s w).isSome then { s.voice w with refillPending := true } else s.voice w
  kept : ∀ j, atPort j s → atPort j t
  placed : ∀ w ∈ l, ∀ j, refillOf s w = some j → atPort j t
  only : ∀ j, atPort j t → atPort j s ∨ ∃ w ∈ l, refillOf s w = some j

theorem refillOf_alike {s t : State} {w : Fin 24} (regs : t.regs = s.regs) (voice : t.voice w = s.voice w) :
    refillOf t w = refillOf s w := by
  have active : isActive t = isActive s := isActive_of_part (by rw [regs])
  unfold refillOf refillDue
  rw [voice, active]

theorem refilled_one (s : State) (v : Fin 24) : Refilled [v] s (placeRefill s v) := by
  rw [placeRefill_eq]
  cases h : refillOf s v with
  | none =>
    dsimp only
    refine ⟨rfl, fun w => ?_, fun j hj => hj, fun w hw j hj => ?_, fun j hj => .inl hj⟩
    · refine (if_neg ?_).symm
      rintro ⟨hw, due⟩
      rw [List.mem_singleton.mp hw, h] at due
      cases due
    · rw [List.mem_singleton.mp hw, h] at hj
      cases hj
  | some k =>
    dsimp only
    refine ⟨rfl, fun w => ?_, fun j hj => atPort_place k hj, fun w hw j hj => ?_, fun j hj => ?_⟩
    · rw [place_voice, setVoice_at]
      by_cases e : w = v
      · subst e
        rw [if_pos rfl, if_pos ⟨List.mem_singleton_self w, by rw [h]; rfl⟩]
      · rw [if_neg e, if_neg fun hw => e (List.mem_singleton.mp hw.1)]
    · rw [List.mem_singleton.mp hw, h] at hj
      cases hj
      exact atPort_place_self _ _
    · rcases (portGoesOn_place (new := fun j => j = k) k (setVoice v _ s) rfl).2.2.2.1 j hj with old | rfl
      · exact .inl old
      · exact .inr ⟨v, List.mem_singleton_self v, h⟩

theorem refilled_all (l : List (Fin 24)) (hl : l.Nodup) : ∀ s, Refilled l s (l.foldl placeRefill s) := by
  induction l with
  | nil =>
    intro s
    exact ⟨rfl, fun w => (if_neg fun h => List.not_mem_nil h.1).symm, fun j hj => hj, fun w hw => absurd hw List.not_mem_nil,
      fun j hj => .inl hj⟩
  | cons v l ih =>
    intro s
    rw [List.nodup_cons] at hl
    have one := refilled_one s v
    have rest := ih hl.2 (placeRefill s v)
    have beside : ∀ w, w ≠ v → (placeRefill s v).voice w = s.voice w := fun w e => by
      rw [one.voice, if_neg fun h => e (List.mem_singleton.mp h.1)]
    have due : ∀ w ∈ l, refillOf (placeRefill s v) w = refillOf s w := fun w hw =>
      refillOf_alike one.regs (beside w fun e => hl.1 (e ▸ hw))
    refine ⟨rest.regs.trans one.regs, fun w => ?_, fun j hj => rest.kept j (one.kept j hj), fun w hw j hj => ?_, fun j hj => ?_⟩
    · rw [List.foldl_cons, rest.voice]
      by_cases e : w = v
      · subst e
        rw [if_neg fun h => hl.1 h.1, one.voice]
        simp only [List.mem_cons_self, true_and]
      · rw [beside w e]
        by_cases hw : w ∈ l
        · rw [due w hw]
          simp only [hw, true_and, List.mem_cons, or_true]
        · simp only [hw, false_and, if_false, List.mem_cons, e, or_self]
    · rw [List.foldl_cons]
      rcases List.mem_cons.mp hw with rfl | hw
      · exact rest.kept j (one.placed w (List.mem_singleton_self w) j hj)
      · exact rest.placed w hw j ((due w hw).trans hj)
    · rcases rest.only j hj with old | ⟨w, hw, hj⟩
      · rcases one.only j old with old | ⟨w, hw, hj⟩
        · exact .inl old
        · exact .inr ⟨w, List.mem_singleton.mp hw ▸ List.mem_cons_self, hj⟩
      · exact .inr ⟨w, List.mem_cons_of_mem v hw, (due w hw).symm.trans hj⟩

/-! ### The arbiter and pending refills (R143) -/

/-- The arbiter removes no refill of a voice that has no stale one. -/
theorem takeRefill_voice {v : Fin 24} (n : Nat) : ∀ s : State,
    (∀ j ∈ s.port.refill, ∀ c first frames voided, j.kind = .refill v c first frames voided → refillStale s j = false) →
      (takeRefill n s).2.voice v = s.voice v := by
  induction n with
  | zero => intro s _; rfl
  | succ n ih =>
    intro s fresh
    unfold takeRefill
    split
    · rfl
    · next j hj =>
      have member := firstRefill_mem s hj
      split
      · next stale =>
        have port : (dropRefill j s).port.refill = s.port.refill.erase j := by
          unfold dropRefill
          dsimp only
          split <;> rfl
        have voice : (dropRefill j s).voice v = s.voice v := by
          unfold dropRefill
          dsimp only
          split
          · next w c first frames voided hk =>
            rw [setVoice_at]
            refine if_neg fun e => ?_
            subst e
            exact Bool.noConfusion ((fresh j member c first frames voided hk).symm.trans stale)
          · rfl
        refine (ih _ fun k hk c first frames voided kind => ?_).trans voice
        rw [refillStale_alike (portOnly_dropRefill j s).2]
        exact fresh k (List.mem_of_mem_erase (port ▸ hk)) c first frames voided kind
      · rfl

theorem arbitrate_voice {v : Fin 24} {s : State}
    (fresh : ∀ j, atPort j s → ∀ c first frames voided, j.kind = .refill v c first frames voided → refillStale s j = false) :
    (arbitrate s).voice v = s.voice v := by
  have taken := takeRefill_voice (v := v) s.port.refill.length s
    fun j hj c first frames voided kind => fresh j (.inr (.inl hj)) c first frames voided kind
  unfold arbitrate takeNext
  split
  · rfl
  · generalize takeRefill s.port.refill.length s = r at taken ⊢
    obtain ⟨j, u⟩ := r
    cases j with
    | some j => exact taken
    | none =>
      dsimp only at taken ⊢
      repeat' split
      all_goals exact taken

/-- The refill test of `v` among the voices `l`, and then the arbiter. -/
theorem refillTested_of {l : List (Fin 24)} {w x : State} (h : Refilled l w x) {v : Fin 24} (hv : v ∈ l) {pending : Bool}
    (hp : (w.voice v).refillPending = pending) {old : Job → Prop}
    (ho : ∀ j n first frames voided, j.kind = .refill v n first frames voided → atPort j w → old j) :
    refillTested v pending old (arbitrate x) := by
  have port := portOnly_arbitrate x
  have voice : { x.voice v with refillPending := (w.voice v).refillPending } = w.voice v := by
    rw [h.voice]
    split <;> rfl
  have regs : (arbitrate x).regs = w.regs := port.regs.trans h.regs
  have active : isActive (arbitrate x) = isActive w := isActive_of_part (by rw [regs])
  have alike : { (arbitrate x).voice v with refillPending := (w.voice v).refillPending } = w.voice v := by
    have := congrArg (fun y : Voice => { y with refillPending := (w.voice v).refillPending }) (port.2 v)
    exact this.trans voice
  have need (p : Playing) (n : Half) : needsRefill (arbitrate x) v p n ↔ needsRefill w v p n := by
    unfold needsRefill
    rw [active, ← alike]
  have fetch : ((arbitrate x).voice v).fetchPosition = (w.voice v).fetchPosition := by rw [← alike]
  refine ⟨fun p n free needs => ?_, fun none_ j n first frames voided kind hj => ?_⟩
  · have due : refillOf w v = some (refillFor v p n (w.voice v).fetchPosition) :=
      (refillOf_iff w v _).mpr ⟨p, n, hp.trans free, (need p n).mp needs, rfl⟩
    have feeding : (x.voice v).feeding = some n := by
      have := congrArg Voice.feeding voice
      exact this.trans ((need p n).mp needs).2.2.1
    have fresh : refillStale x (refillFor v p n (w.voice v).fetchPosition) = false := by
      unfold refillStale refillFor readJob
      dsimp only
      rw [feeding]
      simp
    refine ⟨fetch ▸ atPort_arbitrate (h.placed v hv _ due) fresh rfl, fun noOld => ?_⟩
    rw [arbitrate_voice, h.voice, if_pos ⟨hv, by rw [due]; rfl⟩]
    intro j hj c first frames voided kind
    rcases h.only j hj with before | ⟨u, hu, hj⟩
    · exact absurd (ho j c first frames voided kind before) (noOld j c first frames voided kind)
    · obtain ⟨p', n', -, -, rfl⟩ := (refillOf_iff w u j).mp hj
      have same : u = v := by cases kind; rfl
      subst same
      rw [due] at hj
      rw [← Option.some.inj hj]
      exact fresh
  · have atX : atPort j x := by
      rcases (portGoesOn_arbitrate (new := fun _ => False) x).2.2.2.1 j hj with before | none'
      · exact before
      · exact none'.elim
    rcases h.only j atX with before | ⟨u, hu, hj⟩
    · exact ho j n first frames voided kind before
    · obtain ⟨p, n', free, needs, rfl⟩ := (refillOf_iff w u j).mp hj
      have same : u = v := by cases kind; rfl
      subst same
      rcases none_ with pend | no
      · rw [hp, pend] at free
        cases free
      · exact absurd ((need p n').mpr needs) (no p n')

end Sys2Proof.Machine
end

section
/-! Refills land, are dropped, or cut their voice, and the refill test is made (R142, R143, R145). -/

namespace Sys2Proof.Machine

/-! ### The samples of the voices -/

/-- A job that is no refill. -/
def NoRefill (j : Job) : Prop := ∀ v n first frames voided, j.kind ≠ .refill v n first frames voided

theorem owned_noRefill : Owned NoRefill := fun j h v n first frames voided kind => by
  unfold JobKind.reports JobKind.completes at h
  rw [kind] at h
  exact h.elim id id

theorem acts_playVoice {new : Job → Prop} (s : State) (v : Fin 24) : Acts new s (playVoice s v) := by
  have told (p : Playing) (m : Bool) (t : State) : Acts new t (reportUnderrun v p m t) := by
    unfold reportUnderrun
    split
    · exact acts_tell _ _ _
    · exact .refl
  unfold playVoice
  dsimp only
  repeat' split
  · exact .still
  · exact (told _ _ _).then .still
  · exact .still
  · exact (told _ _ _).then .still
  · exact .still
  · exact .still
  · exact .refl

theorem reportUnderrun_voices (v : Fin 24) (p : Playing) (m : Bool) (s : State) :
    (reportUnderrun v p m s).voices = s.voices := by
  unfold reportUnderrun
  split
  · exact tell_voices _ _ _
  · rfl

/-- A voice record after a sample that it plays, or waits for (R86, R88, R89). -/
def Voice.played (x : Voice) : Voice :=
  match x.content with
  | .sounding p =>
    if p.fromNext then { x with content := .sounding p.wait }
    else { x with content := .sounding (p.play x.stream.isEmpty), stream := x.stream.tail }
  | .releasing p =>
    if p.fromNext then { x with content := .releasing p.wait }
    else { x with content := .releasing (p.play x.stream.isEmpty), stream := x.stream.tail }
  | .handover p i landed =>
    if p.fromNext then { x with content := .handover p.wait i landed }
    else { x with content := .handover (p.play false) i landed, stream := x.stream.tail }
  | _ => x

@[simp] theorem played_refillPending (x : Voice) : x.played.refillPending = x.refillPending := by
  unfold Voice.played
  repeat' split
  all_goals rfl

theorem playVoice_voice (s : State) (v w : Fin 24) :
    (playVoice s v).voice w = if w = v then (s.voice v).played else s.voice w := by
  unfold playVoice Voice.played
  dsimp only
  cases hc : (s.voice v).content with
  | sounding p =>
    dsimp only
    by_cases next : p.fromNext = true
    · rw [if_pos next, if_pos next]
      exact setVoice_at _ _ _ _
    · rw [if_neg next, if_neg next]
      exact (voice_of_voices (reportUnderrun_voices _ _ _ _) w).trans (setVoice_at _ _ _ _)
  | releasing p =>
    dsimp only
    by_cases next : p.fromNext = true
    · rw [if_pos next, if_pos next]
      exact setVoice_at _ _ _ _
    · rw [if_neg next, if_neg next]
      exact (voice_of_voices (reportUnderrun_voices _ _ _ _) w).trans (setVoice_at _ _ _ _)
  | handover p i l =>
    dsimp only
    by_cases next : p.fromNext = true
    · rw [if_pos next, if_pos next]
      exact setVoice_at _ _ _ _
    · rw [if_neg next, if_neg next]
      exact setVoice_at _ _ _ _
  | idle => exact (ite_eq_right_iff.mpr fun e => e ▸ rfl).symm
  | priming i => exact (ite_eq_right_iff.mpr fun e => e ▸ rfl).symm
  | armed i => exact (ite_eq_right_iff.mpr fun e => e ▸ rfl).symm

theorem foldl_playVoice_voice (w : Fin 24) (l : List (Fin 24)) (hl : l.Nodup) :
    ∀ s : State, (l.foldl playVoice s).voice w = if w ∈ l then (s.voice w).played else s.voice w := by
  induction l with
  | nil => intro s; rfl
  | cons v l ih =>
    intro s
    rw [List.nodup_cons] at hl
    rw [List.foldl_cons, ih hl.2, playVoice_voice]
    by_cases e : w = v
    · subst e
      rw [if_neg hl.1, if_pos rfl, if_pos List.mem_cons_self]
    · simp only [e, if_false, List.mem_cons, false_or]

theorem playVoices_voice (s : State) (w : Fin 24) : (allVoices.foldl playVoice s).voice w = (s.voice w).played :=
  (foldl_playVoice_voice w allVoices (List.nodup_finRange 24) s).trans (if_pos (List.mem_finRange w))

theorem newSample_voice (pins : Pins) (s : State) (v : Fin 24) : (newSample pins s).voice v = s.voice v := rfl

theorem acts_newSample {new : Job → Prop} (pins : Pins) (s : State) : Acts new s (newSample pins s) := .single .still

theorem mixBuses_voice (cs : List Contribution) (s : State) (v : Fin 24) : (mixBuses cs s).voice v = s.voice v := rfl

theorem acts_mixBuses {new : Job → Prop} (cs : List Contribution) (s : State) : Acts new s (mixBuses cs s) := .single .still

/-- The state that the refill test of a quiet sample finds: mixed, played, the new inputs seen, and the entries made. -/
def playedOn (pins : Pins) (s : State) : State :=
  completeEntries (fun _ => true) (newSample pins (allVoices.foldl playVoice (mixBuses (contributions s) s)))

theorem sampleTick_quiet {s : State} (h : settle s = s) (pins : Pins) :
    sampleTick pins s = placeRefills (playedOn pins s) := by
  unfold sampleTick
  rw [h]
  rfl

theorem acts_playedOn {new : Job → Prop} (pins : Pins) (s : State) : Acts new s (playedOn pins s) :=
  (acts_completeEntries _ _).then ((acts_newSample _ _).then ((acts_foldl _ acts_playVoice _ _).then (acts_mixBuses _ _)))

theorem playedOn_pending (pins : Pins) (s : State) (v : Fin 24) :
    ((playedOn pins s).voice v).refillPending = (s.voice v).refillPending := by
  unfold playedOn
  rw [pendingAlike_completeEntries, newSample_voice, playVoices_voice, played_refillPending, mixBuses_voice]

/-! ### The end of a REFILL job -/

/-- The end of a REFILL job of voice `v`, before the refill test (R143, R145). -/
def refillTaken (v : Fin 24) (frames : Nat) (j : Job) (bad : Bool) (s : State) : State :=
  let u := if bad then captureJob .read j s else s
  let w := setVoice v { u.voice v with refillPending := false } u
  match (w.voice v).content.playing with
  | some p => if refillStale u j then w else if bad then refillFault v p j w else refillLanded v p frames j w
  | none => w

section
variable {j : Job} {v : Fin 24} {n : Half} {first frames : Nat} {voided : Bool} {s : State}

theorem refillDone_eq (hj : j.kind = .refill v n first frames voided) (bad : Bool) :
    refillDone j bad s = placeRefill (refillTaken v frames j bad s) v := by
  unfold refillDone
  rw [hj]
  rfl

theorem refillStale_iff (hj : j.kind = .refill v n first frames voided) :
    refillStale s j = true ↔ (s.voice v).feeding ≠ some n ∨ voided = true := by
  unfold refillStale
  rw [hj]
  dsimp only
  rw [Bool.or_eq_true, bne_iff_ne]

theorem acts_refillFault {new : Job → Prop} (p : Playing) (j : Job) (s : State) : Acts new s (refillFault v p j s) :=
  (acts_releaseVoice _ _ _ _ _).then ((acts_tell _ _ _).then .still)

theorem acts_refillTaken {new : Job → Prop} (v : Fin 24) (frames : Nat) (j : Job) (bad : Bool) (s : State) :
    Acts new (if bad then captureJob .read j s else s) (refillTaken v frames j bad s) := by
  unfold refillTaken
  dsimp only
  generalize (if bad then captureJob .read j s else s) = u
  repeat' split
  · exact .still
  · exact (acts_refillFault _ _ _).then .still
  · exact .still
  · exact .still

theorem pendingAlike_refillFault (p : Playing) (j : Job) (s : State) : pendingAlike s (refillFault v p j s) := by
  unfold refillFault cutVoice releaseVoice
  refine .trans ?_ (pendingAlike_releaseNow _ _ _ _ _)
  refine .trans ?_ (pendingAlike_completeEntry _ _)
  refine .trans ?_ (pendingAlike_of_voices (tell_voices _ _ _))
  exact pendingAlike_setVoice rfl

theorem refillTaken_pending (v : Fin 24) (frames : Nat) (j : Job) (bad : Bool) (s : State) :
    ((refillTaken v frames j bad s).voice v).refillPending = false := by
  unfold refillTaken
  dsimp only
  generalize (if bad then captureJob .read j s else s) = u
  have free : ((setVoice v { u.voice v with refillPending := false } u).voice v).refillPending = false := by rw [setVoice_self]
  repeat' split
  · exact free
  · exact (pendingAlike_refillFault _ _ _ v).trans free
  · unfold refillLanded
    rw [setVoice_self]
    exact free
  · exact free

/-- The refill test behind a REFILL job. -/
theorem refillDone_tested (hj : j.kind = .refill v n first frames voided) (bad : Bool) (s : State) :
    refillTested v false (fun k => atPort k s) (arbitrate (refillDone j bad s)) := by
  rw [refillDone_eq hj]
  refine refillTested_of (refilled_one _ v) (List.mem_singleton_self v) (refillTaken_pending _ _ _ _ _)
    fun k c first' frames' voided' kind hk => ?_
  have before : atPort k (if bad then captureJob .read j s else s) :=
    ((acts_refillTaken v frames j bad s).only owned_noRefill k hk).resolve_right fun no => no _ _ _ _ _ kind
  cases bad with
  | false => exact before
  | true =>
    exact ((portGoesOn_captureJob (fun k hk => owned_noRefill k (.inl hk)) .read j s).2.2.2.1 k before).resolve_right
      fun no => no _ _ _ _ _ kind

/-! ### What becomes of the voice -/

theorem refillTaken_lands {p : Playing} (hp : (s.voice v).content.playing = some p)
    (fresh : refillStale s j = false) : refillTaken v frames j false s =
      setVoice v { s.voice v with
        refillPending := false
        stream := (s.voice v).stream ++ decodeFrames p.sound.format frames (s.voice v).fetchPosition (readData j s)
        fetchPosition := p.fetched ((s.voice v).fetchPosition + frames) } s := by
  unfold refillTaken refillLanded
  dsimp only
  rw [setVoice_self]
  simp only [Bool.false_eq_true, if_false, hp, fresh, setVoice_setVoice]
  rfl

theorem refillTaken_stale (hs : refillStale s j = true) (v : Fin 24) (frames : Nat) :
    refillTaken v frames j false s = setVoice v { s.voice v with refillPending := false } s := by
  unfold refillTaken
  dsimp only
  simp only [Bool.false_eq_true, if_false, hs, if_true]
  split <;> rfl

theorem refillTaken_staleBad (hs : refillStale s j = true) (v : Fin 24) (frames : Nat) :
    refillTaken v frames j true s =
      setVoice v { s.voice v with refillPending := false } (captureJob .read j s) := by
  have stale : refillStale (captureJob .read j s) j = true := by
    rw [refillStale_alike (voicesAlike_of_voices (captureJob_voices _ _ _)), hs]
  unfold refillTaken
  dsimp only
  simp only [if_true, stale, captureJob_voice]
  split <;> rfl

theorem refillTaken_fails {p : Playing} (hp : (s.voice v).content.playing = some p) (fresh : refillStale s j = false)
    (frames : Nat) : refillTaken v frames j true s =
      refillFault v p j (setVoice v { s.voice v with refillPending := false } (captureJob .read j s)) := by
  have fresh' : refillStale (captureJob .read j s) j = false := by
    rw [refillStale_alike (voicesAlike_of_voices (captureJob_voices _ _ _)), fresh]
  unfold refillTaken
  dsimp only
  simp only [if_true, fresh', captureJob_voice, setVoice_self, hp, Bool.false_eq_true, if_false]

end

/-- A refill test places nothing but the voice's refill, and touches nothing but its pending flag and the port. -/
theorem placeRefill_leaves (s : State) (v : Fin 24) :
    portOnly s (placeRefill s v) ∧ portGoesOn (fun k => k.kind.refills v = true) s (placeRefill s v) := by
  rw [placeRefill_eq]
  cases h : refillOf s v with
  | none => exact ⟨portOnly_refl s, portGoesOn_of_port rfl⟩
  | some j =>
    obtain ⟨p, n, -, -, rfl⟩ := (refillOf_iff s v j).mp h
    refine ⟨(portOnly_voice v true s).trans (portOnly_place _ _), ?_⟩
    exact .trans (t := setVoice v { s.voice v with refillPending := true } s) (portGoesOn_of_port rfl)
      (portOnly_voice v true s).2 (portGoesOn_place _ _ (beq_self_eq_true v))

theorem placeRefill_answered (s : State) (v : Fin 24) : portOnly s (arbitrate (placeRefill s v))
    ∧ portGoesOn (fun k => k.kind.refills v = true) s (arbitrate (placeRefill s v)) :=
  portBut.then_arbitrate (placeRefill_leaves s v).1 (placeRefill_leaves s v).2

/-- The port goes on from a state with the same port and the same stale jobs. -/
theorem portGoesOn.of_start {new : Job → Prop} {s u t : State} (h : portGoesOn new u t) (port : u.port = s.port)
    (refill : ∀ j, refillStale u j = refillStale s j) (head : ∀ j, headStale u j = headStale s j) : portGoesOn new s t := by
  unfold portGoesOn atPort at h ⊢
  simp only [port, refill, head] at h
  exact h

theorem refillStale_setVoice {v : Fin 24} {x : Voice} {s : State} (h : x.feeding = (s.voice v).feeding) (j : Job) :
    refillStale (setVoice v x s) j = refillStale s j := by
  unfold refillStale
  split
  · next w c first frames voided _ =>
    rw [setVoice_at]
    split
    · next e => rw [h, e]
    · rfl
  · rfl

theorem headStale_setVoice {v : Fin 24} {x : Voice} {s : State} (number : x.claimNo = (s.voice v).claimNo)
    (content : x.content = (s.voice v).content) (j : Job) : headStale (setVoice v x s) j = headStale s j := by
  unfold headStale
  split
  · next w c _ =>
    rw [setVoice_at]
    split
    · next e => rw [number, content, e]
    · rfl
  · rfl

/-- A refill without error that is awaited (R143). -/
theorem refill_lands {j : Job} {v : Fin 24} {n : Half} {first frames : Nat} {voided : Bool} {u t : State} {p : Playing}
    (hj : j.kind = .refill v n first frames voided) (hp : (u.voice v).content.playing = some p)
    (fresh : refillStale u j = false) (ht : t = arbitrate (refillDone j false u)) :
    (t.voice v).stream = (u.voice v).stream ++ decodeFrames p.sound.format frames (u.voice v).fetchPosition (readData j u)
      ∧ (t.voice v).fetchPosition = p.fetched ((u.voice v).fetchPosition + frames)
      ∧ (t.voice v).content = (u.voice v).content ∧ (∀ w, w ≠ v → voiceAlike w u t)
      ∧ { t with port := u.port, voices := u.voices } = u
      ∧ portGoesOn (fun k => k.kind.refills v = true) u t := by
  rw [refillDone_eq hj, refillTaken_lands hp fresh] at ht
  obtain ⟨port, goes⟩ := placeRefill_answered (setVoice v { u.voice v with
        refillPending := false
        stream := (u.voice v).stream ++ decodeFrames p.sound.format frames (u.voice v).fetchPosition (readData j u)
        fetchPosition := p.fetched ((u.voice v).fetchPosition + frames) } u) v
  rw [← ht] at port goes
  refine ⟨?_, ?_, ?_, fun w hw => ?_, ?_, ?_⟩
  · rw [port.2.stream, setVoice_self]
  · rw [port.2.fetchPosition, setVoice_self]
  · rw [port.2.content, setVoice_self]
  · have alike := port.2 w
    rw [setVoice_other _ _ hw] at alike
    exact alike
  · have frame := congrArg (fun x : State => { x with port := u.port, voices := u.voices }) port.1
    exact frame
  · exact goes.of_start rfl (refillStale_setVoice rfl) (headStale_setVoice rfl rfl)

/-- A refill that its voice does not await, without error (R143). -/
theorem refill_dropped {j : Job} {v : Fin 24} {n : Half} {first frames : Nat} {voided : Bool} {u t : State}
    (hj : j.kind = .refill v n first frames voided) (stale : refillStale u j = true)
    (ht : t = arbitrate (refillDone j false u)) :
    portOnly u t ∧ portGoesOn (fun k => k.kind.refills v = true) u t := by
  rw [refillDone_eq hj, refillTaken_stale stale] at ht
  obtain ⟨port, goes⟩ := placeRefill_answered (setVoice v { u.voice v with refillPending := false } u) v
  rw [← ht] at port goes
  exact ⟨(portOnly_voice v false u).trans port, goes.of_start rfl (refillStale_setVoice rfl) (headStale_setVoice rfl rfl)⟩

/-- A refill that its voice does not await, with a memory error (R145). -/
theorem refill_droppedBad {j : Job} {v : Fin 24} {n : Half} {first frames : Nat} {voided : Bool} {u t : State}
    (hj : j.kind = .refill v n first frames voided) (stale : refillStale u j = true)
    (ht : t = arbitrate (refillDone j true u)) :
    voicesAlike u t ∧ t.startOrder = u.startOrder ∧ t.reports = u.reports ∧ t.mem = u.mem ∧ t.resolver = u.resolver
      ∧ t.clock = u.clock := by
  rw [refillDone_eq hj, refillTaken_staleBad stale] at ht
  obtain ⟨port, -⟩ := placeRefill_answered (setVoice v { u.voice v with refillPending := false } (captureJob .read j u)) v
  rw [← ht] at port
  have voice : u.voice v = (captureJob .read j u).voice v := (captureJob_voice _ _ _ _).symm
  have dropped : portOnly (captureJob .read j u) (setVoice v { u.voice v with refillPending := false } (captureJob .read j u)) := by
    rw [voice]
    exact portOnly_voice v false _
  have whole := dropped.trans port
  refine ⟨(voicesAlike_of_voices (captureJob_voices _ _ _)).trans whole.2, ?_, ?_, ?_, ?_, ?_⟩
  · rw [whole.startOrder, captureJob_startOrder]
  · rw [whole.reports, captureJob_reports]
  · rw [whole.mem, captureJob_mem]
  · rw [whole.resolver, captureJob_resolver]
  · rw [whole.clock, captureJob_clock]

/-- A release that takes time leaves the record of a failed refill. -/
theorem afterRelease_refillFailed {x : Voice} {p : Playing} (hp : x.content.playing = some p) (r : EndReason)
    {f : Playing → Nat} (hf : ∀ q, f q ≠ 0) (b : Bool) : (x.afterRelease r f b).refillFailed = x.refillFailed := by
  have shorter (y : Voice) (q : Playing) : (y.shortened q (f q)).refillFailed = y.refillFailed := by
    unfold Voice.shortened
    rw [if_neg (hf q)]
    split <;> rfl
  have withdrawn {q : Playing} {i : Incoming} {l : Bool} (hc : x.content = .handover q i l) :
      x.withdrawn.refillFailed = x.refillFailed := by
    unfold Voice.withdrawn
    rw [hc]
  unfold Voice.afterRelease
  cases hc : x.content with
  | sounding q =>
    dsimp only
    unfold Voice.stopped
    rw [if_neg (hf q)]
  | releasing q =>
    dsimp only
    split
    · exact shorter x q
    · rfl
  | handover q i l =>
    dsimp only
    split
    · exact (shorter _ q).trans (withdrawn hc)
    · exact withdrawn hc
  | idle => rfl
  | priming i => rw [hc] at hp; cases hp
  | armed i => rw [hc] at hp; cases hp

/-- A memory error on a refill that its voice awaits (R94, R145): the voice is cut. -/
theorem refill_cuts {j : Job} {v : Fin 24} {n : Half} {first frames : Nat} {voided : Bool} {u t : State} {p : Playing}
    (hj : j.kind = .refill v n first frames voided) (hp : (u.voice v).content.playing = some p)
    (fresh : refillStale u j = false) (entered : ∀ q, (u.voice v).content = .sounding q → q.entry = none)
    (loud : p.quiet = false) (ht : t = arbitrate (refillDone j true u)) :
    (t.voice v).content = (u.voice v).content.afterRelease .cut (fun _ => 96) true
      ∧ (t.voice v).refillFailed = true ∧ t.mem = u.mem ∧ t.regs.part = u.regs.part
      ∧ t.startOrder = (if (u.voice v).content.isSounding then u.startOrder.erase v else u.startOrder)
      ∧ (j.address < 2 ^ 32 →
        (u.fault.record = none → t.fault.record = some
          { source := .fetch, kind := .read, address := BitVec.ofNat 32 j.address, detail := BitVec.ofNat 32 v.val })
        ∧ firstReport (aboutClaim .memoryFault v p.claim ([1, 0] ++ toBytes 2 p.claim.number.toNat ++ toBytes 4 j.address) u)
            u t) := by
  obtain ⟨x, hx⟩ : ∃ x, x = { u.voice v with refillPending := false, refillFailed := true } := ⟨_, rfl⟩
  have content : x.content = (u.voice v).content := by rw [hx]
  obtain ⟨c, hc⟩ : ∃ c, c = captureJob .read j u := ⟨_, rfl⟩
  obtain ⟨w, hw⟩ : ∃ w, w = nextFree (setVoice v x c) := ⟨_, rfl⟩
  obtain ⟨r, hr⟩ : ∃ r, r = memoryFaultReport v p.claim 1 (addressWord (setVoice v x c) j.address) (now32 (setVoice v x c)) :=
    ⟨_, rfl⟩
  obtain ⟨z, hz⟩ : ∃ z, z = releaseNow v .cut (fun _ => 96) true (emit r w) := ⟨_, rfl⟩
  have told : (emit r w).voice v = x := by rw [emit_voice, hw]; exact setVoice_self v x c
  have act : refillTaken v frames j true u = z := by
    rw [refillTaken_fails hp fresh frames, hz, ← hc]
    unfold refillFault
    dsimp only
    rw [setVoice_self, setVoice_setVoice, ← hx, ← hw, ← hr]
    unfold tell cutVoice
    rw [loud, if_neg Bool.false_ne_true]
    exact releaseVoice_entered (fun q hq => entered q (by rw [← content, ← told]; exact hq)) _ _ _
  have after : z.voice v = x.afterRelease .cut (fun _ => 96) true := by
    rw [hz, releaseNow_voice, if_pos rfl, told]
  have failed : (z.voice v).refillFailed = true := by
    rw [after, afterRelease_refillFailed (content ▸ hp) _ (fun _ => by decide), hx]
  have none_ : refillOf z v = none := Option.eq_none_iff_forall_not_mem.mpr fun k hk => by
    obtain ⟨q, m, -, need, -⟩ := (refillOf_iff z v k).mp hk
    exact Bool.noConfusion (failed.symm.trans need.2.2.2.2.1)
  rw [refillDone_eq hj, act, placeRefill_eq, none_] at ht
  have frame : releaseOnly w z := hz ▸ (releaseOnly_emit r w).trans (releaseOnly_releaseNow v _ _ _ _)
  have port : portOnly z t := ht ▸ portOnly_arbitrate z
  refine ⟨?_, ?_, ?_, ?_, ?_, fun inside => ⟨fun free => ?_, ?_⟩⟩
  · rw [port.2.content, hz, releaseNow_self, told, content]
  · have same := congrArg Voice.refillFailed (port.2 v)
    exact same.trans failed
  · rw [port.mem, frame.mem, hw, nextFree_mem, setVoice_mem, hc, captureJob_mem]
  · rw [port.regs, frame.part, hw, nextFree_regs, setVoice_regs, hc, captureJob_part]
  · rw [port.startOrder, hz, releaseNow_startOrder, told, content, emit_startOrder, hw, nextFree_startOrder,
      setVoice_startOrder, hc, captureJob_startOrder]
  · have first : w.fault.record = some
        { source := .fetch, kind := .read, address := BitVec.ofNat 32 j.address, detail := BitVec.ofNat 32 v.val } := by
      rw [hw, nextFree_fault, setVoice_fault, hc, captureJob_first free inside, hj]
      rfl
    have acts : Acts (fun _ => True) w z := hz ▸ (acts_releaseNow _ _ _ _ _).then (acts_emit r w)
    rw [port.fault]
    exact acts.record first
  · have report : r = aboutClaim .memoryFault v p.claim ([1, 0] ++ toBytes 2 p.claim.number.toNat ++ toBytes 4 j.address) u := by
      rw [hr]
      unfold memoryFaultReport now32
      rw [addressWord_inside inside, BitVec.toNat_ofNat, Nat.mod_eq_of_lt inside, setVoice_clock, hc, captureJob_clock]
      rfl
    have silent : Silent u w := by
      have captured : Silent u c := hc ▸ silent_captureJob .read j u
      rw [hw]
      exact captured.trans ⟨rfl, rfl, rfl, keepsLine_of_port rfl⟩
    have acts : Acts (fun _ => True) (emit r w) z := hz ▸ acts_releaseNow _ _ _ _ _
    rw [← report, ht]
    exact ((recorded_emit silent).keeps (acts.keepsLine.trans (keepsLine_arbitrate z))).first

/-- Settles O33. -/
theorem refillLands : Obligations.RefillLands := by
  refine ⟨fun pins s quiet => ⟨_, rfl, fun v => ?_⟩, fun e s j v n first frames voided hj ends => ?_,
    fun e s j v n first frames voided p hj hp => ?_⟩
  · rw [sampleTick_quiet quiet]
    refine refillTested_of (refilled_all allVoices (List.nodup_finRange 24) _) (List.mem_finRange v) (playedOn_pending pins s v)
      fun k c first frames voided kind hk => ?_
    exact ((acts_playedOn pins s).only owned_noRefill k hk).resolve_right fun no => no _ _ _ _ _ kind
  · rcases ends with well | bad
    · exact ⟨_, congrArg Host.Outcome.next (jobDone_well well (isKind (is := JobKind.isRefillJobDone) hj rfl)),
        refillDone_tested hj false (atEnd j e s)⟩
    · exact ⟨_, congrArg Host.Outcome.next (jobDone_bad bad (isKind (is := JobKind.isRefillJobDone) hj rfl)),
        refillDone_tested hj true (atFault j e s)⟩
  · have fresh : (s.voice v).feeding = some n → voided = false → refillStale s j = false := fun fed awaited =>
      Bool.eq_false_iff.mpr fun stale => ((refillStale_iff hj).mp stale).elim (fun no => no fed)
        fun yes => Bool.noConfusion (awaited.symm.trans yes)
    refine ⟨fun well fed awaited => ⟨_, congrArg Host.Outcome.next
        (jobDone_well well (isKind (is := JobKind.isRefillJobDone) hj rfl)), ?_⟩,
      fun well stale => ⟨_, congrArg Host.Outcome.next
        (jobDone_well well (isKind (is := JobKind.isRefillJobDone) hj rfl)), ?_⟩,
      fun bad fed awaited entered loud => ⟨_, congrArg Host.Outcome.next
        (jobDone_bad bad (isKind (is := JobKind.isRefillJobDone) hj rfl)), ?_⟩,
      fun bad stale => ⟨_, congrArg Host.Outcome.next
        (jobDone_bad bad (isKind (is := JobKind.isRefillJobDone) hj rfl)), ?_⟩⟩
    · obtain ⟨stream, fetch, content, others, frame, goes⟩ :=
        refill_lands (u := atEnd j e s) hj hp (fresh fed awaited) rfl
      exact ⟨stream, fetch, content, others, congrArg (fun x : State => { x with port := s.port, mem := s.mem }) frame,
        by have := congrArg State.mem frame; exact this, goes⟩
    · exact refill_dropped (u := atEnd j e s) hj ((refillStale_iff hj).mpr stale) rfl
    · obtain ⟨content, failed, mem, part, order, told⟩ :=
        refill_cuts (u := atFault j e s) hj hp (fresh fed awaited) entered loud rfl
      exact ⟨content, failed, mem, part, order, fun inside => ⟨(told inside).1, (told inside).2.of_same rfl rfl rfl⟩⟩
    · exact refill_droppedBad (u := atFault j e s) hj ((refillStale_iff hj).mpr stale) rfl

end Sys2Proof.Machine
end

section
/-! The boundary of a sample: the pattern it keeps (R21, R23), and what the consumers leave alone. -/

namespace Sys2Proof.Machine

/-! ### What the consumers of a boundary leave alone (R21) -/

/-- The consumers of a boundary act (R21). -/
def handOut (s : State) : State :=
  boundarySchedule (allVoices.foldl boundaryVoice (boundarySlate (boundaryReports (closeMeter (closeClips s)))))

@[simp] theorem quiet_primeEntry (s : State) (e : Entry) : (primeEntry s e).quiet = s.quiet := by
  unfold primeEntry
  dsimp only
  repeat' split
  · exact quiet_claim _ _ _
  · exact quiet_claim _ _ _
  · exact quiet_emit _ _

theorem quiet_setEntries (es : List Entry) (s : State) : (setEntries es s).quiet = { s.quiet with entries := es } := rfl

/-- The walk of the Fire Schedule changes the entries, but no other quiet part. -/
theorem quiet_scheduleWalk (s : State) : ∃ es, (scheduleWalk s).quiet = { s.quiet with entries := es } := by
  unfold scheduleWalk
  dsimp only
  split
  · exact ⟨_, (quiet_foldl _ (fun t e => quiet_emit _ _) _ _).trans (quiet_setEntries _ _)⟩
  · exact ⟨_, (quiet_foldl _ quiet_primeEntry _ _).trans (quiet_setEntries _ _)⟩

theorem quiet_boundarySchedule (s : State) : ∃ es, (boundarySchedule s).quiet = { s.quiet with entries := es } := by
  unfold boundarySchedule
  split
  · exact quiet_scheduleWalk s
  · exact ⟨_, rfl⟩

theorem quiet_boundaryReports (s : State) : (boundaryReports s).quiet = s.quiet := by
  unfold boundaryReports readReturnedTo
  repeat' split
  · rfl
  · exact quiet_place _ _
  · rfl

/-- What the Slate Unit does at a boundary changes the scan and the waiting mirror write, but no other quiet part. -/
theorem quiet_boundarySlate (s : State) : (boundarySlate s).quiet = { s.quiet with
    scan := (boundarySlate s).slate.scan, scanWaiting := (boundarySlate s).slate.scanWaiting
    mirrorWaiting := (boundarySlate s).slate.mirrorWaiting } := by
  have scan : (startScan s).quiet = { s.quiet with
      scan := (startScan s).slate.scan, scanWaiting := (startScan s).slate.scanWaiting } := by
    unfold startScan
    split <;> rfl
  have mirrored : (mirror (startScan s)).quiet = { (startScan s).quiet with
      mirrorWaiting := (mirror (startScan s)).slate.mirrorWaiting } := by
    generalize startScan s = u
    unfold mirror
    dsimp only
    split <;> rfl
  have kept : (mirror (startScan s)).slate.scan = (startScan s).slate.scan
      ∧ (mirror (startScan s)).slate.scanWaiting = (startScan s).slate.scanWaiting := by
    have a := congrArg Quiet.scan mirrored
    have b := congrArg Quiet.scanWaiting mirrored
    exact ⟨a, b⟩
  unfold boundarySlate
  split
  · rw [kept.1, kept.2, mirrored, scan]
  · rfl

/-- What a boundary does to the buses and the meter count (R160, R161) leaves every other quiet part alone. -/
theorem quiet_closed (s : State) : (closeMeter (closeClips s)).quiet = { s.quiet with
    buses := (closeMeter (closeClips s)).mix.buses, meterCount := (closeMeter (closeClips s)).mix.meterCount } := by
  have clips : (closeClips s).quiet = { s.quiet with buses := (closeClips s).mix.buses } := by
    unfold closeClips
    dsimp only
    split
    · rw [quiet_emit, emit_mix]
      rfl
    · rfl
  have meter (u : State) : (closeMeter u).quiet = { u.quiet with
      buses := (closeMeter u).mix.buses, meterCount := (closeMeter u).mix.meterCount } := by
    unfold closeMeter
    repeat' split
    · rw [quiet_emit, emit_mix]
      rfl
    · rfl
    · rfl
  rw [meter, clips]

/-- What the consumers of a boundary leave alone. -/
structure Consumed (s t : State) : Prop where
  clock : t.clock = s.clock
  mem : t.mem = s.mem
  part : t.regs.part = s.regs.part
  tally : t.tally = s.tally
  vars : t.resolver.vars = s.resolver.vars

theorem Consumed.trans {s t u : State} (h : Consumed s t) (h' : Consumed t u) : Consumed s u :=
  ⟨h'.clock.trans h.clock, h'.mem.trans h.mem, h'.part.trans h.part, h'.tally.trans h.tally, h'.vars.trans h.vars⟩

/-- The parts named are quiet ones. -/
theorem consumed_of_quiet {s t : State} {q : Quiet} (h : t.quiet = q) (clock : q.clock = s.clock := by rfl)
    (mem : q.mem = s.mem := by rfl) (part : q.part = s.regs.part := by rfl) (tally : q.tally = s.tally := by rfl)
    (vars : q.vars = s.resolver.vars := by rfl) : Consumed s t := by
  subst h
  exact ⟨clock, mem, part, tally, vars⟩

theorem consumed_handOut (s : State) : Consumed s (handOut s) := by
  have closed : Consumed s (closeMeter (closeClips s)) := consumed_of_quiet (quiet_closed s)
  have reports (u : State) : Consumed u (boundaryReports u) := consumed_of_quiet (quiet_boundaryReports u)
  have slate (u : State) : Consumed u (boundarySlate u) := consumed_of_quiet (quiet_boundarySlate u)
  have voices (u : State) : Consumed u (allVoices.foldl boundaryVoice u) :=
    consumed_of_quiet (quiet_foldl _ quiet_boundaryVoice _ u)
  have schedule (u : State) : Consumed u (boundarySchedule u) := by
    obtain ⟨es, h⟩ := quiet_boundarySchedule u
    exact consumed_of_quiet h
  exact closed.trans ((reports _).trans ((slate _).trans ((voices _).trans (schedule _))))

theorem consumed_answered (s : State) : Consumed s (arbitrate (handOut s)) :=
  have port := portOnly_arbitrate (handOut s)
  (consumed_handOut s).trans ⟨port.clock, port.mem, by rw [port.regs], port.tally, by rw [port.resolver]⟩

/-! ### The predicted boundary (R23) -/

theorem rateD_pos (r : Fin 7) : 0 < rateD r := by
  unfold rateD
  split <;> decide

/-- Bounding k moves no position (R23). -/
theorem reduce_boundaryAt (c : Clock) (n : Nat) : c.reduce.boundaryAt (c.reduce.k + n) = c.boundaryAt (c.k + n) := by
  unfold Clock.reduce
  split
  · next full =>
    unfold Clock.boundaryAt
    dsimp only
    have split_ : (c.k + n) * rateN c.rate / rateD c.rate = rateN c.rate * 2 ^ 16 + n * rateN c.rate / rateD c.rate := by
      rw [full, Nat.add_mul, Nat.mul_assoc, Nat.mul_comm (2 ^ 16), Nat.add_comm, Nat.add_mul_div_left _ _ (rateD_pos c.rate),
        Nat.add_comm]
    rw [split_, Nat.zero_add, BitVec.ofNat_add, BitVec.add_assoc]
  · rfl

theorem reduce_keeps (c : Clock) : c.reduce = { c with k := c.reduce.k, epoch := c.reduce.epoch } := by
  unfold Clock.reduce
  split <;> rfl

theorem predictedDue_iff (s : State) : predictedDue s = true ↔
    s.clock.showTime = s.clock.next ∧ s.clock.madeHere = false ∧ (s.clock.refEdge = false ∨ s.clock.lock ≠ .seeking) := by
  unfold predictedDue
  simp only [Bool.and_eq_true, beq_iff_eq, Bool.not_eq_true', Bool.and_eq_false_iff, beq_eq_false_iff_ne, and_assoc]

/-- The clock at the predicted boundary (R21, R23). -/
def Clock.predicted (c : Clock) : Clock := (Clock.reduce { c.openWindow with k := c.k + 1 }).openFrame .predicted

theorem predictedBoundary_due {s : State} (h : predictedDue s = true) :
    predictedBoundary s = handOut (setClock s.clock.predicted s) := by
  unfold predictedBoundary
  exact if_pos h

theorem predicted_keeps (c : Clock) : c.predicted = { c.openWindow with
    k := c.predicted.k, epoch := c.predicted.epoch, frame := c.frame + 1
    boundary := some { frame := c.frame + 1, sample := c.showTime, cause := .predicted } } := by
  have h := congrArg (Clock.openFrame .predicted) (reduce_keeps { c.openWindow with k := c.k + 1 })
  exact h

theorem predicted_boundaryAt (c : Clock) (n : Nat) : c.predicted.boundaryAt (c.predicted.k + n) = c.boundaryAt (c.k + 1 + n) :=
  reduce_boundaryAt { c.openWindow with k := c.k + 1 } n

/-- Settles O15. -/
theorem predictedBoundaryKeepsPattern : Obligations.PredictedBoundaryKeepsPattern := by
  intro s
  refine ⟨fun here fresh free => ⟨_, rfl, ?_⟩, fun other => ⟨_, rfl, ?_⟩⟩
  · have due := (predictedDue_iff s).mpr ⟨here, fresh, free⟩
    have kept := consumed_answered (setClock s.clock.predicted s)
    rw [← predictedBoundary_due due] at kept
    have clock := kept.clock.trans (predicted_keeps s.clock)
    have last : s.clock.predicted.last = s.clock.showTime := (predicted_boundaryAt s.clock 0).trans here.symm
    refine ⟨?_, ?_, ?_, kept.clock ▸ last, ?_, fun n => kept.clock ▸ predicted_boundaryAt s.clock n, ?_, ?_, ?_,
      kept.mem, kept.part⟩ <;> rw [clock] <;> rfl
  · have idle : predictedBoundary s = s := by
      unfold predictedBoundary
      refine if_neg fun due => ?_
      obtain ⟨here, fresh, free⟩ := (predictedDue_iff s).mp due
      rcases other with away | made | ⟨pulse, seeking⟩
      · exact away here
      · exact Bool.noConfusion (fresh.symm.trans made)
      · exact free.elim (fun none_ => Bool.noConfusion (none_.symm.trans pulse)) fun ne => ne seeking
    rw [idle]
    exact portBut_arbitrate s

end Sys2Proof.Machine
end

section
/-! The reference pulse and the windows (R24 to R31). -/

namespace Sys2Proof.Machine

/-! ### The consumers of a boundary, as the port and the Report Unit see them -/

section
variable {new : Job → Prop}

theorem acts_closeClips (s : State) : Acts new s (closeClips s) := by
  unfold closeClips
  dsimp only
  split
  · exact (acts_emit _ _).then .still
  · exact .still

theorem acts_closeMeter (s : State) : Acts new s (closeMeter s) := by
  unfold closeMeter
  repeat' split
  · exact (acts_emit _ _).then .still
  · exact .still
  · exact .refl

theorem acts_readReturnedTo (hr : ∀ j, j.kind = .returnedTo → new j) (s : State) : Acts new s (readReturnedTo s) := by
  unfold readReturnedTo
  split
  · exact .refl
  · exact .single (.place _ _ (hr _ rfl))

theorem acts_boundarySlate (hs : ∀ j i, j.kind = .slateRead i → new j) (hm : ∀ j, j.kind = .mirror → new j) (s : State) :
    Acts new s (boundarySlate s) := by
  have scan : Acts new s (startScan s) := by
    unfold startScan scanFrom
    split
    · exact .still
    · exact .tail (.single .still) (.place _ _ (hs _ 0 rfl))
  have mirrored (u : State) : Acts new u (mirror u) := by
    unfold mirror placeMirror
    dsimp only
    split
    · exact .still
    · exact .tail (.single .still) (.place _ _ (hm _ rfl))
  unfold boundarySlate
  split
  · exact scan.trans (mirrored _)
  · exact .refl

theorem acts_boundaryVoice (s : State) (v : Fin 24) : Acts new s (boundaryVoice s v) := by
  unfold boundaryVoice
  dsimp only
  repeat' split
  · exact acts_enterSounding _ _ _ _ _
  · exact acts_missVoice _ _ _ _ _ _
  · exact acts_enterSounding _ _ _ _ _
  · exact .refl
  · exact acts_missVoice _ _ _ _ _ _
  · exact .still
  · exact .refl
  · exact acts_missVoice _ _ _ _ _ _
  · exact .still
  · exact .refl
  · exact .refl

theorem acts_boundarySchedule (hh : ∀ j, j.kind.cls = .head → new j) (s : State) : Acts new s (boundarySchedule s) := by
  unfold boundarySchedule
  split
  · exact acts_scheduleWalk hh s
  · exact .refl

end

/-- The consumers of a boundary keep what waits in the HOUSEKEEPING line. -/
theorem keepsLine_handOut (s : State) : keepsLine s (handOut s) := by
  have reports (u : State) : Acts (fun _ => True) u (boundaryReports u) := by
    unfold boundaryReports
    split
    · exact acts_readReturnedTo (fun _ _ => trivial) u
    · exact .refl
  have all : Acts (fun _ => True) s (handOut s) :=
    (acts_boundarySchedule (fun _ _ => trivial) _).then ((acts_foldl _ acts_boundaryVoice _ _).then
      ((acts_boundarySlate (fun _ _ _ => trivial) (fun _ _ => trivial) _).then ((reports _).then
        ((acts_closeMeter _).then (acts_closeClips _)))))
  exact all.keepsLine

/-! ### A change of lock state (R31) -/

/-- The clock after a change of lock state. -/
def Clock.relocked (new : LockState) (c : Clock) : Clock := { c with lock := new, stray := 0, missing := 0 }

/-- The REF_STATE report of a change of lock state. -/
theorem changeLock_running {s : State} (h : isRunning s = true) (new : LockState) (cause : RefCause) :
    changeLock new cause s = emit (aboutNone .refState Selector.null
      (toBytes 1 s.clock.lock.code ++ toBytes 1 new.code ++ toBytes 1 cause.code) s) (setClock (s.clock.relocked new) s) := by
  unfold changeLock
  exact if_pos h

theorem changeLock_idle {s : State} (h : isRunning s = false) (new : LockState) (cause : RefCause) :
    changeLock new cause s = setClock (s.clock.relocked new) s := by
  unfold changeLock
  exact if_neg (Bool.eq_false_iff.mp h)

/-- A change of lock state behind a change of the clock that keeps show time (R31). -/
theorem lockChanges_of {s : State} {c : Clock} {new : LockState} {cause : RefCause} {detail : List Byte}
    (time : c.showTime = s.clock.showTime)
    (hd : toBytes 1 c.lock.code ++ toBytes 1 new.code ++ toBytes 1 cause.code = detail) :
    lockChanges detail s (c.relocked new) (arbitrate (changeLock new cause (setClock c s))) := by
  refine ⟨fun running => ?_, fun idle => ?_⟩
  · rw [changeLock_running (s := setClock c s) running, show (setClock c s).clock = c from rfl, hd]
    have report : aboutNone .refState Selector.null detail (setClock c s) = aboutNone .refState Selector.null detail s := by
      unfold aboutNone
      rw [show (setClock c s).clock = c from rfl, time]
    rw [report]
    exact ⟨reportBut_emitted _ _, (firstReport_emitted _ _).of_same rfl rfl rfl⟩
  · rw [changeLock_idle (s := setClock c s) idle]
    exact portBut_arbitrate _

/-! ### The pulse (R24 to R30) -/

/-- The clock whose pulse of this sample is taken. -/
def Clock.pulseTaken (c : Clock) : Clock := { c with refEdge := false }

theorem takePulse_due {s : State} (h : s.clock.refEdge = true) :
    takePulse s = judgePulse (setClock s.clock.pulseTaken s) := by
  unfold takePulse
  exact if_pos h

/-- The clock that a re-epoch at this sample leaves, but for the boundary event (R30). -/
def Clock.reEpoched (c : Clock) : Clock := { c.epochHere with lastHeld := true, lastOpen := true }

theorem reEpoch_made {s : State} (h : s.clock.madeHere = true) :
    reEpoch s = setClock (s.clock.reEpoched.event .reEpoch) s := by
  unfold reEpoch
  exact if_pos h

theorem reEpoch_new {s : State} (h : s.clock.madeHere = false) :
    reEpoch s = handOut (setClock (s.clock.reEpoched.openFrame .reEpoch) s) := by
  unfold reEpoch
  exact if_neg (Bool.eq_false_iff.mp h)

/-- The state behind the change of lock state that a re-epoch makes. -/
def relock (s : State) : State :=
  changeLock .locked (if s.clock.lock = .seeking then .referenceFound else .referenceMoved) (setClock s.clock.pulseTaken s)

/-- A pulse that re-epochs the clock (R25, R30). -/
theorem takePulse_reEpochs {s : State} (edge : s.clock.refEdge = true)
    (h : s.clock.lock = .seeking ∨ s.clock.lock = .holdover ∧ s.clock.inside = false) : takePulse s = reEpoch (relock s) := by
  rw [takePulse_due edge]
  unfold judgePulse relock
  rcases h with seeking | ⟨holdover, outside⟩
  · rw [show (setClock s.clock.pulseTaken s).clock.lock = s.clock.lock from rfl, seeking]
    rfl
  · rw [show (setClock s.clock.pulseTaken s).clock.lock = s.clock.lock from rfl, holdover]
    exact if_neg (Bool.eq_false_iff.mp outside)

/-- What the change of lock state of a re-epoch does. -/
theorem relock_eq (s : State) : relock s = { setClock (s.clock.pulseTaken.relocked .locked) s with
    port := (relock s).port, reports := (relock s).reports, fault := (relock s).fault
    regs := { s.regs with flags := (relock s).regs.flags } } := by
  unfold relock
  cases h : isRunning s with
  | false => rw [changeLock_idle (s := setClock s.clock.pulseTaken s) h]; rfl
  | true => rw [changeLock_running (s := setClock s.clock.pulseTaken s) h]; exact emit_eq _ _

theorem relock_clock (s : State) : (relock s).clock = s.clock.pulseTaken.relocked .locked := by
  rw [relock_eq]
  rfl

theorem relock_idle {s : State} (h : isRunning s = false) : relock s = setClock (s.clock.pulseTaken.relocked .locked) s :=
  changeLock_idle (s := setClock s.clock.pulseTaken s) h _ _

/-- The REF_STATE report of a re-epoch. -/
def relockReport (s : State) : Report :=
  aboutNone .refState Selector.null (if s.clock.lock = .seeking then [0, 1, 0] else [2, 1, 4]) s

theorem relock_running {s : State} (h : isRunning s = true) (state : s.clock.lock = .seeking ∨ s.clock.lock = .holdover) :
    relock s = emit (relockReport s) (setClock (s.clock.pulseTaken.relocked .locked) s) := by
  unfold relock relockReport
  rw [changeLock_running (s := setClock s.clock.pulseTaken s) h,
    show (setClock s.clock.pulseTaken s).clock.lock = s.clock.lock from rfl]
  rcases state with e | e <;> rw [e] <;> rfl

/-- In RUNNING the REF_STATE report of a re-epoch comes first (R31). -/
theorem relock_told {s : State} (h : isRunning s = true) (state : s.clock.lock = .seeking ∨ s.clock.lock = .holdover) :
    recorded (relockReport s) s (relock s) := by
  rw [relock_running h state]
  exact recorded_emit ⟨rfl, rfl, rfl, keepsLine_of_port rfl⟩

/-- A re-epoch, as PulseAndWindowJudged tells it (R30). -/
theorem reEpoch_leaves {s t : State} (edge : s.clock.refEdge = true)
    (h : s.clock.lock = .seeking ∨ s.clock.lock = .holdover ∧ s.clock.inside = false) (ht : t = arbitrate (takePulse s)) :
    t.clock = { s.clock with
        frame := if s.clock.madeHere then s.clock.frame else s.clock.frame + 1
        epoch := s.clock.showTime, k := 0, lock := .locked, stray := 0, missing := 0
        held := false, lastHeld := true, lastOpen := true, refEdge := false
        boundary := some { frame := if s.clock.madeHere then s.clock.frame else s.clock.frame + 1, sample := s.clock.showTime
                           cause := .reEpoch } }
      ∧ t.mem = s.mem ∧ t.regs.part = s.regs.part ∧ t.tally = s.tally ∧ t.resolver.vars = s.resolver.vars
      ∧ keepsLine (relock s) t := by
  rw [takePulse_reEpochs edge h] at ht
  have clock := relock_clock s
  have made : (relock s).clock.madeHere = s.clock.madeHere := by rw [clock]; rfl
  obtain ⟨mem, part, tally, vars⟩ : (relock s).mem = s.mem ∧ (relock s).regs.part = s.regs.part
      ∧ (relock s).tally = s.tally ∧ (relock s).resolver.vars = s.resolver.vars := by
    rw [relock_eq]
    exact ⟨rfl, rfl, rfl, rfl⟩
  generalize relock s = b at ht clock made mem part tally vars ⊢
  by_cases here : s.clock.madeHere = true
  · rw [reEpoch_made (made.trans here)] at ht
    have port := portOnly_arbitrate (setClock (b.clock.reEpoched.event .reEpoch) b)
    have line := keepsLine_arbitrate (setClock (b.clock.reEpoched.event .reEpoch) b)
    rw [← ht] at port line
    refine ⟨?_, port.mem.trans mem, ?_, port.tally.trans tally, ?_, line.after rfl⟩
    · rw [port.clock, here]
      exact congrArg (fun c : Clock => c.reEpoched.event .reEpoch) clock
    · rw [port.regs]
      exact part
    · rw [port.resolver]
      exact vars
  · rw [reEpoch_new (made.trans (Bool.eq_false_iff.mpr here))] at ht
    have kept := consumed_answered (setClock (b.clock.reEpoched.openFrame .reEpoch) b)
    have line := (keepsLine_handOut (setClock (b.clock.reEpoched.openFrame .reEpoch) b)).trans (keepsLine_arbitrate _)
    rw [← ht] at kept line
    refine ⟨?_, kept.mem.trans mem, kept.part.trans part, kept.tally.trans tally, kept.vars.trans vars, line.after rfl⟩
    rw [kept.clock, if_neg here]
    exact congrArg (fun c : Clock => c.reEpoched.openFrame .reEpoch) clock

/-! ### The pulse in LOCKED and HOLDOVER (R26 to R29) -/

section
variable {s : State} (edge : s.clock.refEdge = true)
include edge

theorem takePulse_locked (locked : s.clock.lock = .locked) : takePulse s =
    if s.clock.inside then setClock { s.clock.pulseTaken.markPulse with stray := 0, missing := 0 } s
    else strayPulse (setClock s.clock.pulseTaken s) := by
  rw [takePulse_due edge]
  unfold judgePulse
  rw [show (setClock s.clock.pulseTaken s).clock.lock = s.clock.lock from rfl, locked]
  rfl

theorem takePulse_holdover (holdover : s.clock.lock = .holdover) (inside : s.clock.inside = true) :
    takePulse s = changeLock .locked .referenceReturned (setClock s.clock.pulseTaken.markPulse s) := by
  rw [takePulse_due edge]
  unfold judgePulse
  rw [show (setClock s.clock.pulseTaken s).clock.lock = s.clock.lock from rfl, holdover]
  exact if_pos inside

end

theorem strayPulse_few {s : State} (h : s.clock.stray < 2) :
    strayPulse s = setClock { s.clock with stray := s.clock.stray + 1 } s := by
  unfold strayPulse
  exact if_neg (by omega)

theorem strayPulse_third {s : State} (h : s.clock.stray = 2) : strayPulse s = changeLock .seeking .strayLimit s := by
  unfold strayPulse
  exact if_pos (by omega)

/-! ### The window (R28) -/

theorem closeWindow_due {s : State} (locked : s.clock.lock = .locked) (isOpen : s.clock.lastOpen = true)
    (empty : s.clock.lastHeld = false) (quiet : s.clock.refEdge = false)
    (last : s.clock.showTime = s.clock.last + BitVec.ofNat 40 Config.windowReach) : closeWindow s = missedWindow s := by
  unfold closeWindow
  refine if_pos ?_
  unfold windowCloseDue
  rw [locked, isOpen, empty, quiet, beq_iff_eq.mpr last]
  rfl

theorem missedWindow_few {s : State} (h : s.clock.missing < 9) :
    missedWindow s = setClock { s.clock with lastOpen := false, missing := s.clock.missing + 1 } s := by
  unfold missedWindow
  exact if_neg (by dsimp only [setClock]; omega)

theorem missedWindow_tenth {s : State} (h : s.clock.missing = 9) :
    missedWindow s = changeLock .holdover .missingLimit (setClock { s.clock with lastOpen := false } s) := by
  unfold missedWindow
  exact if_pos (by dsimp only [setClock]; omega)

/-- Settles O14. -/
theorem pulseAndWindowJudged : Obligations.PulseAndWindowJudged := by
  refine ⟨fun s edge => ⟨fun state f hf => ⟨_, rfl, ?_⟩, fun locked inside => ⟨_, rfl, ?_⟩,
    fun locked outside few => ⟨_, rfl, ?_⟩, fun locked outside two => ⟨_, rfl, ?_⟩,
    fun holdover inside => ⟨_, rfl, ?_⟩⟩,
    fun s locked isOpen empty quiet last => ⟨fun few => ⟨_, rfl, ?_⟩, fun nine => ⟨_, rfl, ?_⟩⟩⟩
  · obtain ⟨clock, mem, part, tally, vars, line⟩ := reEpoch_leaves edge state rfl
    subst hf
    exact ⟨clock, mem, part, tally, vars, fun running => ((relock_told running (state.imp_right And.left)).keeps line).first⟩
  · rw [takePulse_locked edge locked, if_pos inside]
    exact portBut_arbitrate _
  · rw [takePulse_locked edge locked, if_neg (Bool.eq_false_iff.mp outside),
      strayPulse_few (s := setClock s.clock.pulseTaken s) few]
    exact portBut_arbitrate _
  · rw [takePulse_locked edge locked, if_neg (Bool.eq_false_iff.mp outside),
      strayPulse_third (s := setClock s.clock.pulseTaken s) two]
    exact lockChanges_of (c := s.clock.pulseTaken) rfl
      (by rw [show s.clock.pulseTaken.lock = s.clock.lock from rfl, locked]; rfl)
  · rw [takePulse_holdover edge holdover inside]
    exact lockChanges_of (c := s.clock.pulseTaken.markPulse) rfl
      (by rw [show s.clock.pulseTaken.markPulse.lock = s.clock.lock from rfl, holdover]; rfl)
  · rw [closeWindow_due locked isOpen empty quiet last]
    rw [missedWindow_few few]
    exact portBut_arbitrate _
  · rw [closeWindow_due locked isOpen empty quiet last]
    rw [missedWindow_tenth nine]
    exact lockChanges_of (c := { s.clock with lastOpen := false }) rfl
      (by rw [show ({ s.clock with lastOpen := false } : Clock).lock = s.clock.lock from rfl, locked]; rfl)

end Sys2Proof.Machine
end

section
/-! What a boundary hands to the slate, the mirror, the strip and the mix (R42, R45, R160, R161, R181). -/

namespace Sys2Proof.Machine

/-! ### The HOUSEKEEPING line (R139) -/

section
variable {p : JobKind → Bool} (hp : ∀ j : Job, p j.kind = true → j.stays = true)
include hp

theorem houseHas_line (s : State) : houseHas p s = (line s).any fun j => p j.kind := by
  have kept (l : List Job) : (l.filter Job.stays).any (fun j => p j.kind) = l.any fun j => p j.kind := by
    rw [Bool.eq_iff_iff]
    simp only [List.any_eq_true, List.mem_filter]
    exact ⟨fun ⟨j, h, k⟩ => ⟨j, h.1, k⟩, fun ⟨j, h, k⟩ => ⟨j, ⟨h, hp j k⟩, k⟩⟩
  unfold houseHas line
  rw [kept, List.any_append, Bool.or_comm]
  cases s.port.inFlight <;> simp

theorem houseHas_place {k : Job} (hk : p k.kind = false) (s : State) : houseHas p (place k s) = houseHas p s := by
  rw [houseHas_line hp, houseHas_line hp, line_place, List.any_append]
  cases h : k.stays <;> simp [h, hk]

theorem houseHas_emit (hr : ∀ n, p (.reportRecord n) = false) (r : Report) (s : State) :
    houseHas p (emit r s) = houseHas p s := by
  have written (u : State) : houseHas p (writeReport r u) = houseHas p u := by
    rw [houseHas_line hp, houseHas_line hp, line_writeReport, List.any_append]
    have record : p (recordJob u.reports.writtenTo r u).kind = false := hr _
    simp [record]
  unfold emit
  repeat' split
  · rfl
  · exact written s
  · rfl
  · rfl
  · rw [houseHas_line hp, line_capture, houseHas_line hp]
    rfl
  · exact written s
  · rfl

end

theorem mirror_stays (j : Job) (h : (j.kind == .mirror) = true) : j.stays = true := by
  unfold Job.stays
  rw [beq_iff_eq.mp h]
  rfl

theorem returnedTo_stays (j : Job) (h : (j.kind == .returnedTo) = true) : j.stays = true := by
  unfold Job.stays
  rw [beq_iff_eq.mp h]
  rfl

/-- A report that is not essential adds nothing to the lost count (R180). -/
theorem emit_lost_kept {r : Report} (h : r.kind.essential = false) (s : State) : (emit r s).reports.lost = s.reports.lost := by
  unfold emit
  rw [h]
  simp only [Bool.false_eq_true, if_false]
  repeat' split
  · rfl
  · rw [writeReport_reports]
  · rfl

/-! ### Clip counts and meters (R160, R161) -/

/-- The clip flags become counts. -/
def clipsClosed (s : State) : State := { s with mix := { s.mix with buses := s.mix.buses.map Bus.closeClip } }

/-- The CLIP report of a boundary. -/
def clipReport (s : State) : Report :=
  aboutNone .clip Selector.null (toBytes 1 (clipMask s).toNat ++ [0] ++ toBytes 2 (s.clock.frame - 1).toNat) s

theorem closeClips_eq (s : State) :
    closeClips s = if isRunning s && clipMask s != 0 then emit (clipReport s) (clipsClosed s) else clipsClosed s := rfl

/-- The METER report of a boundary. -/
def meterReport (s : State) : Report :=
  aboutNone .meter Selector.null (s.mix.buses.toList.map fun b => BitVec.ofNat 8 b.meter) s

theorem closeMeter_eq (s : State) : closeMeter s =
    if isRunning s && s.mix.meterInterval != 0 then
      if s.mix.meterInterval ≤ s.mix.meterCount + 1 then emit (meterReport s) (clearMeters s)
      else { s with mix := { s.mix with meterCount := s.mix.meterCount + 1 } }
    else s := rfl

/-- What the mix at a boundary leaves alone. -/
structure MixOnly (s t : State) : Prop where
  frame : t = { s with mix := t.mix, port := t.port, reports := t.reports, fault := t.fault
                       regs := { s.regs with flags := t.regs.flags } }
  ducks : t.mix.ducks = s.mix.ducks
  interval : t.mix.meterInterval = s.mix.meterInterval
  lost : t.reports.lost = s.reports.lost
  house : ∀ p : JobKind → Bool, (∀ j : Job, p j.kind = true → j.stays = true) → (∀ n, p (.reportRecord n) = false) →
    houseHas p t = houseHas p s

theorem MixOnly.trans {s t u : State} (h : MixOnly s t) (h' : MixOnly t u) : MixOnly s u := by
  refine ⟨?_, h'.ducks.trans h.ducks, h'.interval.trans h.interval, h'.lost.trans h.lost,
    fun p hp hr => (h'.house p hp hr).trans (h.house p hp hr)⟩
  have frame := h'.frame
  rw [h.frame] at frame
  exact frame

theorem mixOnly_mix {s : State} {m : Mix} (ducks : m.ducks = s.mix.ducks)
    (interval : m.meterInterval = s.mix.meterInterval) : MixOnly s { s with mix := m } :=
  ⟨rfl, ducks, interval, rfl, fun _ _ _ => rfl⟩

theorem mixOnly_emit {r : Report} (h : r.kind.essential = false) (s : State) : MixOnly s (emit r s) :=
  ⟨(emit_eq r s).trans (by rw [emit_mix]), by rw [emit_mix], by rw [emit_mix], emit_lost_kept h s,
    fun _ hp hr => houseHas_emit hp hr r s⟩

theorem mixOnly_closeClips (s : State) : MixOnly s (closeClips s) := by
  rw [closeClips_eq]
  have closed : MixOnly s (clipsClosed s) := mixOnly_mix rfl rfl
  split
  · exact closed.trans (mixOnly_emit rfl _)
  · exact closed

theorem mixOnly_closeMeter (s : State) : MixOnly s (closeMeter s) := by
  rw [closeMeter_eq]
  split
  · split
    · exact (mixOnly_mix rfl rfl : MixOnly s (clearMeters s)).trans (mixOnly_emit rfl _)
    · exact mixOnly_mix rfl rfl
  · exact mixOnly_mix rfl rfl

theorem closeClips_mix (s : State) : (closeClips s).mix = (clipsClosed s).mix := by
  rw [closeClips_eq]
  split
  · exact emit_mix _ _
  · rfl

theorem clipMask_eq {s : State} {mask : BitVec 4} (h : ∀ g : Fin 4, mask.getLsbD g = s.mix.buses[g].clipFlag) :
    clipMask s = mask := by
  refine BitVec.eq_of_getLsbD_eq fun i hi => ?_
  rw [h ⟨i, hi⟩]
  unfold clipMask
  rw [BitVec.getLsbD_ofFnLE, dif_pos hi]

theorem closeMeter_off {s : State} (h : isRunning s = false ∨ s.mix.meterInterval = 0) : closeMeter s = s := by
  rw [closeMeter_eq]
  refine if_neg fun on => ?_
  rw [Bool.and_eq_true, bne_iff_ne] at on
  exact h.elim (fun idle => Bool.noConfusion (idle.symm.trans on.1)) fun none_ => on.2 none_

theorem closeMeter_counts {s : State} (running : isRunning s = true) (h : s.mix.meterCount + 1 < s.mix.meterInterval) :
    closeMeter s = { s with mix := { s.mix with meterCount := s.mix.meterCount + 1 } } := by
  rw [closeMeter_eq, running, if_pos (by simp only [Bool.true_and, bne_iff_ne]; omega), if_neg (by omega)]

theorem closeMeter_tells {s : State} (running : isRunning s = true) (on : s.mix.meterInterval ≠ 0)
    (h : s.mix.meterInterval ≤ s.mix.meterCount + 1) : closeMeter s = emit (meterReport s) (clearMeters s) := by
  rw [closeMeter_eq, running, if_pos (by simp only [Bool.true_and, bne_iff_ne]; exact on), if_pos h]

/-- The buses and the meter count behind a boundary (R160, R161). -/
theorem closed_buses (s : State) (g : Fin 4) (m : Mix) (hm : m = (closeMeter (closeClips s)).mix) :
    m.buses[g].clipFlag = false ∧ m.buses[g].trim = s.mix.buses[g].trim
      ∧ m.buses[g].clipCount =
          if s.mix.buses[g].clipFlag then min 65535 (s.mix.buses[g].clipCount + 1) else s.mix.buses[g].clipCount := by
  have bus : (closeClips s).mix.buses[g] = s.mix.buses[g].closeClip := by
    rw [closeClips_mix]
    exact Vector.getElem_map ..
  have meter (u : State) : (closeMeter u).mix.buses[g] = u.mix.buses[g]
      ∨ (closeMeter u).mix.buses[g] = { u.mix.buses[g] with peak := 0 } := by
    by_cases off : isRunning u = false ∨ u.mix.meterInterval = 0
    · rw [closeMeter_off off]
      exact .inl rfl
    · obtain ⟨running, on⟩ := not_or.mp off
      have running := Bool.eq_true_of_not_eq_false running
      rcases Nat.lt_or_ge (u.mix.meterCount + 1) u.mix.meterInterval with few | full
      · rw [closeMeter_counts running few]
        exact .inl rfl
      · right
        have mix : (closeMeter u).mix = (clearMeters u).mix := by
          rw [closeMeter_tells running on full]
          exact emit_mix _ _
        rw [mix]
        exact Vector.getElem_ofFn ..
  subst hm
  rcases meter (closeClips s) with e | e <;> rw [e, bus] <;> exact ⟨rfl, rfl, rfl⟩

theorem closeClips_running (s : State) : isRunning (closeClips s) = isRunning s := by
  unfold isRunning
  rw [(mixOnly_closeClips s).frame]

theorem closeClips_silent {s : State} (h : clipMask s = 0) : closeClips s = clipsClosed s := by
  rw [closeClips_eq, h]
  exact if_neg (by simp)

theorem clipsClosed_peak (s : State) (g : Fin 4) : (clipsClosed s).mix.buses[g].peak = s.mix.buses[g].peak := by
  have bus : (clipsClosed s).mix.buses[g] = s.mix.buses[g].closeClip := Vector.getElem_map ..
  rw [bus]
  rfl

end Sys2Proof.Machine
end

section
/-! A boundary as its consumers find it, predicted or of a re-epoch (R30), and what it hands to the units. -/

namespace Sys2Proof.Machine

/-! ### The state a boundary starts from -/

/-- The boundary of this sample opens from `b`, which is `s` but for its change of lock state, with the clock `k`. -/
structure Opens (s b : State) (k : Clock) : Prop where
  frame : b = { s with clock := b.clock, port := b.port, reports := b.reports, fault := b.fault
                       regs := { s.regs with flags := b.regs.flags } }
  counter : b.clock.frame = s.clock.frame
  time : b.clock.showTime = s.clock.showTime
  next : k.frame = b.clock.frame + 1
  now : k.showTime = b.clock.showTime
  lock : k.lock = b.clock.lock

theorem makesBoundary_opens {s : State} {c : Instr} (h : makesBoundary c s) :
    ∃ b k, boundaryFrom c s b ∧ exec c s = .next (arbitrate (handOut (setClock k b))) ∧ Opens s b k := by
  obtain ⟨fresh, ⟨rfl, here, free⟩ | ⟨rfl, edge, state⟩⟩ := h
  · have due := (predictedDue_iff s).mpr ⟨here, fresh, free⟩
    have keeps := predicted_keeps s.clock
    refine ⟨s, s.clock.predicted, ⟨fun _ => rfl, fun h => by cases h⟩,
      congrArg (fun u => Host.Outcome.next (arbitrate u)) (predictedBoundary_due due), rfl, rfl, rfl, ?_, ?_, ?_⟩
      <;> rw [keeps] <;> rfl
  · have clock := relock_clock s
    have made : (relock s).clock.madeHere = false := by rw [clock]; exact fresh
    refine ⟨relock s, (relock s).clock.reEpoched.openFrame .reEpoch, ⟨fun h => (by cases h), fun _ => ⟨clock, fun idle => ?_,
        fun running => ⟨?_, ?_⟩⟩⟩,
      congrArg (fun u => Host.Outcome.next (arbitrate u)) ((takePulse_reEpochs edge state).trans (reEpoch_new made)),
      ?_, ?_, ?_, rfl, rfl, rfl⟩
    · rw [clock]
      exact relock_idle idle
    · rw [clock, relock_running running (state.imp_right And.left)]
      exact reportBut_emit _ _
    · exact (relock_told running (state.imp_right And.left)).first
    · exact (relock_eq s).trans (by rw [relock_clock s]; rfl)
    · rw [clock]; rfl
    · rw [clock]; rfl

/-! ### The Slate Unit through a boundary -/

theorem testFollow_slate (v : Fin 24) (s : State) : (testFollow v s).slate = s.slate := by
  rcases testFollow_cases v s with h | ⟨p, f, -, h⟩ <;> rw [h]
  rfl

theorem completeEntry_slate (v : Fin 24) (s : State) : (completeEntry v s).slate = s.slate := by
  unfold completeEntry
  repeat' split
  · unfold entryEffects
    dsimp only
    rw [testFollow_slate, (releaseOnly_emitLate _ _ _ _ _).slate, emit_slate, (releaseOnly_keyDucks _ _ _).slate,
      (releaseOnly_kickOthers _ _ _).slate]
    rfl
  · rfl
  · rfl

theorem enterSounding_slate (v : Fin 24) (i : Incoming) (b : Bool) (l : Option Nat) (s : State) :
    (enterSounding v i b l s).slate = s.slate := by
  unfold enterSounding
  dsimp only
  split
  · rfl
  · exact completeEntry_slate v _

theorem boundaryVoice_slate (s : State) (v : Fin 24) : (boundaryVoice s v).slate = s.slate := by
  unfold boundaryVoice
  dsimp only
  repeat' split
  · exact enterSounding_slate _ _ _ _ _
  · exact (releaseOnly_missVoice _ _ _ _ _ _).slate
  · exact enterSounding_slate _ _ _ _ _
  · rfl
  · exact (releaseOnly_missVoice _ _ _ _ _ _).slate
  · rfl
  · rfl
  · exact (releaseOnly_missVoice _ _ _ _ _ _).slate
  · rfl
  · rfl
  · rfl

theorem foldl_slate {α : Type} (f : State → α → State) (h : ∀ t a, (f t a).slate = t.slate) (l : List α) :
    ∀ s, (l.foldl f s).slate = s.slate := by
  induction l with
  | nil => intro s; rfl
  | cons a l ih => intro s; exact (ih _).trans (h s a)

/-! ### The voices and the schedule, as the units see them -/

theorem no_returnedTo_of_head (j : Job) (h : j.kind.cls = .head) : j.kind ≠ .returnedTo := fun e => by
  rw [e] at h
  cases h

theorem owned_no_returnedTo : Owned fun j => j.kind ≠ .returnedTo := fun j h e => by
  unfold JobKind.reports JobKind.completes at h
  rw [e] at h
  exact h.elim id id

/-- What the voices, the schedule and the arbiter leave to the units at a boundary. -/
structure UnitsKept (s t : State) : Prop where
  scan : t.slate.scan = s.slate.scan
  scanWaiting : t.slate.scanWaiting = s.slate.scanWaiting
  mirrorWaiting : t.slate.mirrorWaiting = s.slate.mirrorWaiting
  buses : t.mix.buses = s.mix.buses
  meterCount : t.mix.meterCount = s.mix.meterCount
  line : keepsLine s t
  idle : isRunning s = false → t.slate = s.slate
  returnedTo : ∀ j, atPort j t → j.kind = .returnedTo → atPort j s

/-- The units' values are quiet ones, and so is the part state. -/
theorem units_of_quiet {s t : State} {es : List Entry} (h : t.quiet = { s.quiet with entries := es }) :
    t.slate.scan = s.slate.scan ∧ t.slate.scanWaiting = s.slate.scanWaiting ∧ t.slate.mirrorWaiting = s.slate.mirrorWaiting
      ∧ t.mix.buses = s.mix.buses ∧ t.mix.meterCount = s.mix.meterCount ∧ t.regs.part = s.regs.part :=
  ⟨congrArg Quiet.scan h, congrArg Quiet.scanWaiting h, congrArg Quiet.mirrorWaiting h, congrArg Quiet.buses h,
    congrArg Quiet.meterCount h, congrArg Quiet.part h⟩

theorem isRunning_of_part {s t : State} (h : t.regs.part = s.regs.part) : isRunning t = isRunning s := by
  unfold isRunning
  rw [h]

theorem unitsKept (s : State) : UnitsKept s (arbitrate (boundarySchedule (allVoices.foldl boundaryVoice s))) := by
  have voices := quiet_foldl _ quiet_boundaryVoice allVoices s
  obtain ⟨es, schedule⟩ := quiet_boundarySchedule (allVoices.foldl boundaryVoice s)
  rw [voices] at schedule
  have port := portOnly_arbitrate (boundarySchedule (allVoices.foldl boundaryVoice s))
  have acts (new : Job → Prop) (hh : ∀ j : Job, j.kind.cls = .head → new j) :
      Acts new s (boundarySchedule (allVoices.foldl boundaryVoice s)) :=
    (acts_boundarySchedule hh _).then (acts_foldl _ acts_boundaryVoice _ _)
  obtain ⟨scan, scanWaiting, mirrorWaiting, buses, meterCount, -⟩ := units_of_quiet schedule
  have part : (allVoices.foldl boundaryVoice s).regs.part = s.regs.part := (units_of_quiet (es := s.schedule.entries) voices).2.2.2.2.2
  refine ⟨by rw [port.slate, scan], by rw [port.slate, scanWaiting], by rw [port.slate, mirrorWaiting], by rw [port.mix, buses],
    by rw [port.mix, meterCount], ((acts (fun _ => True) fun _ _ => trivial).keepsLine).trans (keepsLine_arbitrate _),
    fun idle => ?_, fun j hj kind => ?_⟩
  · rw [port.slate]
    unfold boundarySchedule
    rw [isRunning_of_part part, idle, if_neg Bool.false_ne_true]
    exact foldl_slate _ boundaryVoice_slate _ s
  · have before := ((portGoesOn_arbitrate (new := fun _ => False) _).2.2.2.1 j hj).resolve_right id
    exact ((acts _ no_returnedTo_of_head).only owned_no_returnedTo j before).resolve_right fun no => no kind

/-! ### The mirror write (R45, R52) -/

theorem length_toBytes (k : Nat) : ∀ n, (toBytes k n).length = k := by
  induction k with
  | zero => intro n; rfl
  | succ k ih => intro n; exact congrArg Nat.succ (ih _)

theorem length_flatten_toBytes {α : Type} (k : Nat) (f : α → Nat) (l : List α) :
    ((l.map fun x => toBytes k (f x)).flatten).length = l.length * k := by
  induction l with
  | nil => simp
  | cons a l ih =>
    rw [List.map_cons, List.flatten_cons, List.length_append, ih, length_toBytes, List.length_cons]
    ring

theorem pad_of_length {n : Nat} {l : List Byte} (h : l.length = n) : pad n l = l := by
  unfold pad
  rw [← h, List.take_left]

/-- The mirror's values fill its 94 bytes (R45). -/
theorem mirrorBytes_eq (s : State) : mirrorBytes s =
    toBytes 2 s.reports.drops ++ toBytes 1 s.reports.lost ++ toBytes 1 s.clock.lock.code
      ++ toBytes 1 s.run.hold.code ++ [sceneByte s s.run.current] ++ toBytes 4 s.clock.frame.toNat
      ++ toBytes 4 (now32 s).toNat ++ toBytes 2 (sensed s).toNat ++ toBytes 2 s.tally.latch.toNat
      ++ (s.mix.buses.toList.map fun b => toBytes 2 b.clipCount).flatten ++ toBytes 4 0
      ++ (s.resolver.vars.toList.map fun v => toBytes 2 v.toNat).flatten := by
  unfold mirrorBytes
  refine pad_of_length ?_
  simp only [List.length_append, length_toBytes, length_flatten_toBytes, List.length_singleton, Vector.length_toList]

theorem sensed_congr {s t : State} (tally : t.tally = s.tally) (voices : t.voices = s.voices) : sensed t = sensed s := by
  unfold sensed tallyDriven tallyDemands
  rw [tally, voices]

/-- The mirror write of a boundary is at the port, or waits for the one before it (R45). -/
theorem mirror_places (s : State) :
    (mirror s).slate.scan = s.slate.scan ∧ (mirror s).slate.scanWaiting = s.slate.scanWaiting ∧ (mirror s).mix = s.mix
      ∧ keepsLine s (mirror s)
      ∧ (houseHas (fun k => k == .mirror) s = false →
        writeJob .mirror ((header s).base + 34) (mirrorBytes s) ∈ line (mirror s)
          ∧ (mirror s).slate.mirrorWaiting = s.slate.mirrorWaiting)
      ∧ (houseHas (fun k => k == .mirror) s = true → (mirror s).slate.mirrorWaiting = some (mirrorBytes s)) := by
  unfold mirror
  dsimp only
  have next : houseHas (fun k => k == .mirror) (nextFree s) = houseHas (fun k => k == .mirror) s := rfl
  rw [next]
  cases h : houseHas (fun k => k == .mirror) s with
  | true =>
    rw [if_pos rfl]
    exact ⟨rfl, rfl, rfl, keepsLine_of_port rfl, fun no => (by cases no), fun _ => rfl⟩
  | false =>
    rw [if_neg Bool.false_ne_true]
    unfold placeMirror
    refine ⟨rfl, rfl, rfl, .trans (t := nextFree s) (keepsLine_of_port rfl) (keepsLine_place _ _), fun _ => ⟨?_, rfl⟩,
      fun no => (by cases no)⟩
    rw [line_place_stays rfl]
    exact List.mem_append_right _ (List.mem_singleton_self _)

/-- A slate scan starts at a boundary, or waits (R42). -/
theorem startScan_starts (s : State) :
    startScan s = { s with port := (startScan s).port, slate := { s.slate with
        scan := (startScan s).slate.scan, scanWaiting := (startScan s).slate.scanWaiting } }
      ∧ houseHas (fun k => k == .mirror) (startScan s) = houseHas (fun k => k == .mirror) s
      ∧ keepsLine s (startScan s)
      ∧ (s.slate.scan = none → (startScan s).slate.scan = some 0 ∧ (startScan s).slate.scanWaiting = s.slate.scanWaiting
        ∧ slotRead 0 s ∈ line (startScan s))
      ∧ ∀ i, s.slate.scan = some i → (startScan s).slate.scan = some i ∧ (startScan s).slate.scanWaiting = true := by
  unfold startScan
  cases h : s.slate.scan with
  | some i =>
    exact ⟨rfl, rfl, keepsLine_of_port rfl, fun no => (by cases no),
      fun k hk => ⟨h.trans hk, rfl⟩⟩
  | none =>
    rw [Option.isSome_none, if_neg Bool.false_ne_true]
    obtain ⟨-, scan, waiting, member⟩ := scanFrom_scanned 0 s
    refine ⟨rfl, ?_, ?_, fun _ => ⟨scan, waiting, member⟩, fun k hk => (by cases hk)⟩
    · exact houseHas_place mirror_stays rfl (setScan (some 0) s)
    · exact .trans (t := setScan (some 0) s) (keepsLine_of_port rfl) (keepsLine_place _ _)

end Sys2Proof.Machine
end

section
/-! Settling what a boundary hands to the units (R42, R45, R160, R161, R181). -/

namespace Sys2Proof.Machine

theorem mirrorBytes_slate (s : State) (p : Port) (x : SlateUnit) : mirrorBytes { s with port := p, slate := x } = mirrorBytes s :=
  rfl

theorem header_scan (s : State) (p : Port) (scan : Option Nat) (b : Bool) :
    header { s with port := p, slate := { s.slate with scan := scan, scanWaiting := b } } = header s := rfl

/-- What the Slate Unit does at a boundary in RUNNING (R42, R45). -/
structure SlateBoundary (s t : State) : Prop where
  starts : s.slate.scan = none → t.slate.scan = some 0 ∧ t.slate.scanWaiting = s.slate.scanWaiting ∧ slotRead 0 s ∈ line t
  waits : ∀ i, s.slate.scan = some i → t.slate.scan = some i ∧ t.slate.scanWaiting = true
  mirrors : houseHas (fun k => k == .mirror) s = false →
    writeJob .mirror ((Machine.header s).base + 34) (mirrorBytes s) ∈ line t ∧ t.slate.mirrorWaiting = s.slate.mirrorWaiting
  mirrorWaits : houseHas (fun k => k == .mirror) s = true → t.slate.mirrorWaiting = some (mirrorBytes s)

theorem boundarySlate_idle {s : State} (h : isRunning s = false) : boundarySlate s = s := by
  unfold boundarySlate
  exact if_neg (Bool.eq_false_iff.mp h)

theorem boundarySlate_running {s : State} (h : isRunning s = true) : SlateBoundary s (boundarySlate s) := by
  have act : boundarySlate s = mirror (startScan s) := by
    unfold boundarySlate
    exact if_pos h
  obtain ⟨frame, house, -, starts, waits⟩ := startScan_starts s
  obtain ⟨scan, waiting, -, line, mirrors, mirrorWaits⟩ := mirror_places (startScan s)
  have mirrored : (startScan s).slate.mirrorWaiting = s.slate.mirrorWaiting := by rw [frame]
  have data : mirrorBytes (startScan s) = mirrorBytes s := by rw [frame, mirrorBytes_slate]
  have head : header (startScan s) = header s := by rw [frame, header_scan]
  rw [house, data] at mirrors mirrorWaits
  rw [head, mirrored] at mirrors
  rw [act]
  refine ⟨fun none_ => ?_, fun i hi => ?_, mirrors, mirrorWaits⟩
  · obtain ⟨first, same, member⟩ := starts none_
    exact ⟨scan.trans first, waiting.trans same, line.subset member⟩
  · exact ⟨scan.trans (waits i hi).1, waiting.trans (waits i hi).2⟩

/-- What the Report Unit does at a boundary (R181). -/
theorem boundaryReports_reads (s : State) :
    boundaryReports s = { s with port := (boundaryReports s).port }
      ∧ houseHas (fun k => k == .mirror) (boundaryReports s) = houseHas (fun k => k == .mirror) s
      ∧ (isActive s = true → houseHas (fun k => k == .returnedTo) s = false →
        readJob .returnedTo ((header s).base + 28) 2 ∈ line (boundaryReports s))
      ∧ (isActive s = false ∨ houseHas (fun k => k == .returnedTo) s = true → boundaryReports s = s) := by
  unfold boundaryReports
  cases active : isActive s with
  | false =>
    rw [if_neg Bool.false_ne_true]
    exact ⟨rfl, rfl, fun no => (by cases no), fun _ => rfl⟩
  | true =>
    rw [if_pos rfl]
    unfold readReturnedTo
    cases outstanding : houseHas (fun k => k == .returnedTo) s with
    | true =>
      rw [if_pos rfl]
      exact ⟨rfl, rfl, fun _ no => (by cases no), fun _ => rfl⟩
    | false =>
      rw [if_neg Bool.false_ne_true]
      refine ⟨rfl, houseHas_place mirror_stays rfl s, fun _ _ => ?_, fun no => (by rcases no with no | no <;> cases no)⟩
      rw [line_place_stays rfl]
      exact List.mem_append_right _ (List.mem_singleton_self _)

/-! ### The units behind the boundary that opens from `b` -/

/-- The units behind the mix and the reports of a boundary: `m` behind the mix, `t` the end. -/
theorem behindMix {m t : State} (ht : t = arbitrate (boundarySchedule (allVoices.foldl boundaryVoice
      (boundarySlate (boundaryReports m))))) :
    (isRunning m = true → SlateBoundary (boundaryReports m) (boundarySlate (boundaryReports m)))
      ∧ UnitsKept (boundarySlate (boundaryReports m)) t ∧ keepsLine m t
      ∧ keepsLine (boundarySlate (boundaryReports m)) t ∧ keepsLine (boundaryReports m) t
      ∧ (boundarySlate (boundaryReports m)).mix = m.mix ∧ (isRunning m = false → t.slate = m.slate) := by
  have kept : UnitsKept (boundarySlate (boundaryReports m)) t := ht ▸ unitsKept _
  obtain ⟨frame, -⟩ := boundaryReports_reads m
  have running : isRunning (boundaryReports m) = isRunning m := by rw [frame]; rfl
  have slate : keepsLine (boundaryReports m) (boundarySlate (boundaryReports m)) :=
    (acts_boundarySlate (new := fun _ => True) (fun _ _ _ => trivial) (fun _ _ => trivial) _).keepsLine
  have reports : keepsLine m (boundaryReports m) := by
    unfold boundaryReports
    split
    · exact (acts_readReturnedTo (new := fun _ => True) (fun _ _ => trivial) m).keepsLine
    · exact keepsLine_refl m
  have mix : (boundarySlate (boundaryReports m)).mix = (boundaryReports m).mix := by
    cases h : isRunning m with
    | false => rw [boundarySlate_idle (running.trans h)]
    | true =>
      unfold boundarySlate
      rw [running, h, if_pos rfl, (mirror_places _).2.2.1, (startScan_starts _).1]
  refine ⟨fun h => boundarySlate_running (running.trans h), kept, reports.trans (slate.trans kept.line), kept.line,
    slate.trans kept.line, mix.trans (by rw [frame]), fun h => ?_⟩
  have same := boundarySlate_idle (running.trans h)
  rw [kept.idle (by rw [same, running, h]), same, frame]

/-- The state behind the mix, as the state the boundary opens from. -/
structure Mixed (b m : State) (k : Clock) : Prop where
  slate : m.slate = b.slate
  clock : m.clock = k
  run : m.run = b.run
  tally : m.tally = b.tally
  voices : m.voices = b.voices
  vars : m.resolver.vars = b.resolver.vars
  part : m.regs.part = b.regs.part
  lost : m.reports.lost = b.reports.lost
  house : ∀ p : JobKind → Bool, (∀ j : Job, p j.kind = true → j.stays = true) → (∀ n, p (.reportRecord n) = false) →
    houseHas p m = houseHas p b

theorem mixed_of {b m : State} {k : Clock} (h : MixOnly (setClock k b) m) : Mixed b m k := by
  refine ⟨?_, ?_, ?_, ?_, ?_, ?_, ?_, h.lost, h.house⟩ <;> rw [h.frame] <;> rfl

/-- The mirror's values at a boundary (R45). -/
theorem mirrorBytes_boundary {s b m : State} {k : Clock} (opens : Opens s b k) (h : Mixed b m k) {buses : Vector Bus 4}
    (hb : m.mix.buses = buses) (p : Port) : mirrorBytes { m with port := p } =
      toBytes 2 m.reports.drops ++ toBytes 1 b.reports.lost ++ toBytes 1 b.clock.lock.code ++ toBytes 1 b.run.hold.code
        ++ [sceneByte m b.run.current] ++ toBytes 4 (b.clock.frame + 1).toNat ++ toBytes 4 (b.clock.showTime.setWidth 32).toNat
        ++ toBytes 2 (sensed b).toNat ++ toBytes 2 b.tally.latch.toNat
        ++ (buses.toList.map fun x => toBytes 2 x.clipCount).flatten ++ toBytes 4 0
        ++ (b.resolver.vars.toList.map fun v => toBytes 2 v.toNat).flatten := by
  rw [mirrorBytes_slate m p m.slate, mirrorBytes_eq, h.lost, h.run, h.tally, h.vars, hb, sensed_congr h.tally h.voices]
  unfold now32
  rw [h.clock, opens.lock, opens.next, opens.now]

/-- A boundary with no clip flag set and no meter has no report of the mix. -/
theorem closed_quiet {u : State} (clips : ∀ g : Fin 4, u.mix.buses[g].clipFlag = false) (off : u.mix.meterInterval = 0) :
    closeMeter (closeClips u) = clipsClosed u := by
  have mask : clipMask u = 0 := clipMask_eq fun g => by rw [clips g]; exact BitVec.getLsbD_zero
  rw [closeClips_silent mask]
  exact closeMeter_off (.inr off)

/-- Settles O16. -/
theorem boundaryReachesUnits : Obligations.BoundaryReachesUnits := by
  intro s c makes
  obtain ⟨b, k, from_, ends, opens⟩ := makesBoundary_opens makes
  obtain ⟨u, hu⟩ : ∃ u, u = setClock k b := ⟨_, rfl⟩
  obtain ⟨m, hm⟩ : ∃ m, m = closeMeter (closeClips u) := ⟨_, rfl⟩
  obtain ⟨t, ht⟩ : ∃ t, t = arbitrate (handOut u) := ⟨_, rfl⟩
  have mixOnly : MixOnly u m := hm ▸ (mixOnly_closeClips u).trans (mixOnly_closeMeter _)
  have mixed : Mixed b m k := mixed_of (hu ▸ mixOnly)
  have behind := ht
  unfold handOut at behind
  rw [← hm] at behind
  obtain ⟨slate, kept, line, slateLine, reportLine, mix, idle⟩ := behindMix behind
  obtain ⟨frame, house, reads, none_⟩ := boundaryReports_reads m
  have running_ : isRunning m = isRunning b := isRunning_of_part mixed.part
  have active_ : isActive m = isActive b := isActive_of_part mixed.part
  have head : header m = header b := header_of_slate (by rw [mixed.slate])
  have buses : t.mix.buses = m.mix.buses := kept.buses.trans (by rw [mix])
  have count : t.mix.meterCount = m.mix.meterCount := kept.meterCount.trans (by rw [mix])
  have mirrorHouse : houseHas (fun k => k == .mirror) m = houseHas (fun k => k == .mirror) b :=
    mixed.house _ mirror_stays fun _ => rfl
  have returnedHouse : houseHas (fun k => k == .returnedTo) m = houseHas (fun k => k == .returnedTo) b :=
    mixed.house _ returnedTo_stays fun _ => rfl
  have acts (new : Job → Prop) : Acts new u m := hm ▸ (acts_closeMeter _).then (acts_closeClips u)
  have mixU : u.mix = b.mix := by rw [hu]; rfl
  have silentU : Silent b u := hu ▸ ⟨rfl, rfl, rfl, keepsLine_of_port rfl⟩
  have runningU : isRunning u = isRunning b := by rw [hu]; rfl
  refine ⟨b, t, from_, by rw [ends, ht, hu], fun running => ?_, fun still => ?_, fun active outstanding => ?_,
    fun no j hj kind => ?_, fun g => ?_, fun mask hmask running nonzero => ?_, fun off => ?_, fun running on => ⟨fun few => ?_,
    fun full => ?_⟩⟩
  · obtain ⟨starts, waits, mirrors, mirrorWaits⟩ := slate (running_.trans running)
    have slateR : (boundaryReports m).slate = b.slate := by rw [frame, mixed.slate]
    have headR : header (boundaryReports m) = header b := header_of_slate (by rw [slateR])
    have data := mirrorBytes_boundary opens mixed buses.symm (boundaryReports m).port
    rw [← frame] at data
    unfold slotRead at starts
    rw [slateR] at starts waits mirrors
    rw [headR] at starts mirrors
    rw [house, mirrorHouse, data] at mirrors mirrorWaits
    refine ⟨fun none_ => ?_, fun i hi => ?_, m.reports.drops, sceneByte m b.run.current, _, rfl,
      fun i hi => ?_, fun clips off => ?_, fun free => ?_, fun full => ?_⟩
    · obtain ⟨scan, waiting, member⟩ := starts none_
      exact ⟨kept.scan.trans scan, kept.scanWaiting.trans waiting, atPort_of_keepsLine member slateLine⟩
    · exact ⟨kept.scan.trans (waits i hi).1, kept.scanWaiting.trans (waits i hi).2⟩
    · rw [hi]
      rfl
    · rw [hm, closed_quiet (fun g => by rw [mixU]; exact clips g) (by rw [mixU]; exact off), hu]
      rfl
    · exact ⟨atPort_of_keepsLine (mirrors free).1 slateLine, kept.mirrorWaiting.trans (mirrors free).2⟩
    · exact kept.mirrorWaiting.trans (mirrorWaits full)
  · rw [idle (running_.trans still), mixed.slate]
  · rw [← head]
    exact atPort_of_keepsLine (reads (active_.trans active) (returnedHouse.trans outstanding)) reportLine
  · have before := kept.returnedTo j hj kind
    have inReports := ((acts_boundarySlate (new := fun j => j.kind ≠ .returnedTo) (fun j i h e => by rw [h] at e; cases e)
      (fun j h e => by rw [h] at e; cases e) _).only owned_no_returnedTo j before).resolve_right fun no => no kind
    rw [none_ (by rw [active_, returnedHouse]; exact no)] at inReports
    have first := ((acts _).only owned_no_returnedTo j inReports).resolve_right fun no => no kind
    rw [hu] at first
    exact first
  · obtain ⟨flag, trim, clip⟩ := closed_buses u g m.mix (by rw [hm])
    rw [buses, ← mixU]
    exact ⟨flag, trim, clip⟩
  · have same : clipMask u = mask := clipMask_eq fun g => by rw [mixU]; exact hmask g
    have tells : closeClips u = emit (clipReport u) (clipsClosed u) := by
      rw [closeClips_eq, same, runningU, running]
      exact if_pos (by simpa using nonzero)
    have report : clipReport u = aboutNone .clip Selector.null (toBytes 1 mask.toNat ++ [0] ++ toBytes 2 b.clock.frame.toNat) b := by
      unfold clipReport
      rw [same, hu]
      unfold aboutNone setClock
      rw [opens.next, opens.now, BitVec.add_sub_cancel]
    have told : recorded (clipReport u) b (closeClips u) := by
      rw [tells]
      exact recorded_emit (silentU.trans ⟨rfl, rfl, rfl, keepsLine_of_port rfl⟩)
    have on : keepsLine (closeClips u) m := hm ▸ (acts_closeMeter (new := fun _ => True) _).keepsLine
    exact (report ▸ told.keeps (on.trans line)).first
  · have same : m = closeClips u := by
      rw [hm]
      exact closeMeter_off (off.imp (fun h => (closeClips_running u).trans (runningU.trans h))
        fun h => by rw [closeClips_mix]; exact (congrArg Mix.meterInterval mixU).trans h)
    have whole : m.mix = (clipsClosed u).mix := by rw [same, closeClips_mix]
    refine ⟨?_, fun g => ?_⟩
    · rw [count, whole, ← mixU]
      rfl
    · rw [buses, whole, clipsClosed_peak, mixU]
  · have same : m.mix = { (clipsClosed u).mix with meterCount := (clipsClosed u).mix.meterCount + 1 } := by
      rw [hm, closeMeter_counts ((closeClips_running u).trans (runningU.trans running))
        (by rw [closeClips_mix]; unfold clipsClosed; rw [mixU]; exact few), closeClips_mix]
    refine ⟨?_, fun g => ?_⟩
    · rw [count, same, ← mixU]
      rfl
    · rw [buses, same]
      exact (clipsClosed_peak u g).trans (by rw [mixU])
  · have tells : m = emit (meterReport (closeClips u)) (clearMeters (closeClips u)) := by
      rw [hm]
      exact closeMeter_tells ((closeClips_running u).trans (runningU.trans running))
        (by rw [closeClips_mix]; unfold clipsClosed; rw [mixU]; exact on)
        (by rw [closeClips_mix]; unfold clipsClosed; rw [mixU]; exact full)
    have whole : m.mix = (clearMeters (closeClips u)).mix := by rw [tells, emit_mix]
    refine ⟨?_, fun g => ?_, fun clips => ?_⟩
    · rw [count, whole]
      rfl
    · have bus : (clearMeters (closeClips u)).mix.buses[g] = { (closeClips u).mix.buses[g] with peak := 0 } :=
        Vector.getElem_ofFn ..
      rw [buses, whole, bus]
    · have mask : clipMask u = 0 := clipMask_eq fun g => by rw [mixU, clips g]; exact BitVec.getLsbD_zero
      rw [closeClips_silent mask] at tells
      have told : recorded (meterReport (clipsClosed u)) b m := by
        rw [tells]
        exact recorded_emit (silentU.trans ⟨rfl, rfl, rfl, keepsLine_of_port rfl⟩)
      have report : meterReport (clipsClosed u) = aboutNone .meter Selector.null
          (b.mix.buses.toList.map fun x => BitVec.ofNat 8 (min 255 (x.peak / 32768))) b := by
        have levels : (clipsClosed u).mix.buses.toList.map (fun x => BitVec.ofNat 8 x.meter) =
            b.mix.buses.toList.map fun x => BitVec.ofNat 8 (min 255 (x.peak / 32768)) := by
          unfold clipsClosed
          rw [mixU]
          simp only [Vector.toList_map, List.map_map]
          rfl
        unfold meterReport
        rw [levels, hu]
        unfold aboutNone clipsClosed setClock
        dsimp only
        rw [opens.now]
      exact (report ▸ told.keeps line).first

end Sys2Proof.Machine
end

section
/-! SUPPORT. What an entry into SOUNDING does (R82, R141, R156): the head, the kicks, the duck groups and the reports. -/

namespace Sys2Proof.Machine

/-! ### Duck groups (R156, R157) -/

theorem keyDucks_duck (v : Fin 24) (groups : BitVec 4) (s : State) (g : Fin 4) :
    (keyDucks v (.key groups) s).mix.ducks[g] =
      (if groups.getLsbD g.val then s.mix.ducks[g].join v else s.mix.ducks[g]).rejudge s.trigger.lines := by
  unfold keyDucks
  dsimp only
  rw [rejudge_mapDucks]
  exact Vector.getElem_ofFn ..

theorem unkeyDucks_duck (v : Fin 24) (s : State) (g : Fin 4) :
    (unkeyDucks v s).mix.ducks[g] = (s.mix.ducks[g].leave v).rejudge s.trigger.lines := by
  unfold unkeyDucks
  rw [rejudge_mapDucks]
  exact Vector.getElem_ofFn ..

theorem keyDucks_none {role : DuckRole} (h : ∀ groups, role ≠ .key groups) (v : Fin 24) (s : State) : keyDucks v role s = s := by
  unfold keyDucks
  split
  · next groups => exact absurd rfl (h groups)
  · rfl

theorem join_bit (v : Fin 24) (d : Duck) : (d.join v).keying.getLsbD v = true := by
  unfold Duck.join voiceBit
  simp

theorem rejudge_keying (lines : Vector Qualifier 16) (d : Duck) : (d.rejudge lines).keying = d.keying := by rw [rejudge_eq]

/-- A group that a voice keys is keyed (R156). -/
theorem rejudge_keyed {lines : Vector Qualifier 16} {d : Duck} {v : Fin 24} (h : d.keying.getLsbD v = true) :
    (d.rejudge lines).keyed = true := by
  rw [rejudge_eq]
  refine (judged_iff lines d).mpr (.inl fun none_ => ?_)
  rw [none_] at h
  exact Bool.noConfusion (h.symm.trans BitVec.getLsbD_zero)

/-- A group that is not keyed, or that has no step due and its count at 0 (R157). -/
def Duck.calm (d : Duck) : Prop := d.keyed = true → d.sub = 0 ∧ d.due = false

theorem calm_rejudge {d : Duck} (h : d.calm) (lines : Vector Qualifier 16) : (d.rejudge lines).calm := by
  rw [rejudge_eq]
  intro keyed
  dsimp only at keyed ⊢
  by_cases same : d.judged lines = d.keyed
  · rw [if_pos same, if_pos same]
    exact h (same.symm.trans keyed)
  · rw [if_neg same, if_neg same]
    exact ⟨rfl, rfl⟩

/-- A group that is calm stays so. -/
def calmAlike (s t : State) : Prop := ∀ g : Fin 4, s.mix.ducks[g].calm → t.mix.ducks[g].calm

section
variable {s t u : State}

theorem calmAlike.trans (h : calmAlike s t) (h' : calmAlike t u) : calmAlike s u := fun g calm => h' g (h g calm)

theorem calmAlike_of_mix (h : t.mix = s.mix) : calmAlike s t := fun g calm => by rw [h]; exact calm

theorem calmAlike_foldl {α : Type} (f : State → α → State) (h : ∀ t a, calmAlike t (f t a)) (l : List α) :
    ∀ s, calmAlike s (l.foldl f s) := by
  induction l with
  | nil => intro s g calm; exact calm
  | cons a l ih => intro s; exact (h s a).trans (ih _)

end

theorem calmAlike_keyDucks (v : Fin 24) (role : DuckRole) (s : State) : calmAlike s (keyDucks v role s) := fun g calm => by
  cases role with
  | key groups =>
    rw [keyDucks_duck]
    refine calm_rejudge ?_ _
    split
    · exact calm
    · exact calm
  | _ => exact calm

theorem calmAlike_unkeyDucks (v : Fin 24) (s : State) : calmAlike s (unkeyDucks v s) := fun g calm => by
  rw [unkeyDucks_duck]
  exact calm_rejudge (d := s.mix.ducks[g].leave v) calm _

theorem calmAlike_goIdle (v : Fin 24) (e : Half × Bool) (s : State) : calmAlike s (goIdle v e s) :=
  (calmAlike_of_mix rfl).trans (calmAlike_unkeyDucks v _)

theorem calmAlike_setVoice (v : Fin 24) (x : Voice) (s : State) : calmAlike s (setVoice v x s) := calmAlike_of_mix rfl

theorem calmAlike_withdraw (v : Fin 24) (s : State) : calmAlike s (withdraw v s) := by
  unfold withdraw
  dsimp only
  split
  · exact calmAlike_goIdle _ _ _
  · exact calmAlike_goIdle _ _ _
  · exact (calmAlike_setVoice _ _ _).trans (calmAlike_keyDucks _ _ _)
  · exact calmAlike_of_mix rfl

theorem calmAlike_cancelFollowers (v : Fin 24) (n : Half) (s : State) : calmAlike s (cancelFollowers v n s) := by
  refine calmAlike_foldl _ (fun t w => ?_) _ _
  unfold cancelFollower
  repeat' split
  · exact (calmAlike_withdraw _ _).trans (calmAlike_of_mix (emit_mix _ _))
  · exact calmAlike_of_mix rfl
  · exact calmAlike_of_mix rfl

theorem calmAlike_releaseSounding (v : Fin 24) (p : Playing) (l : Nat) (r : EndReason) (s : State) :
    calmAlike s (releaseSounding v p l r s) := by
  unfold releaseSounding
  dsimp only
  split
  · exact .trans (t := leaveOrder v s) (calmAlike_of_mix rfl) ((calmAlike_goIdle _ _ _).trans
      ((calmAlike_cancelFollowers _ _ _).trans (calmAlike_of_mix (emit_mix _ _))))
  · exact .trans (t := leaveOrder v s) (calmAlike_of_mix rfl) ((calmAlike_setVoice _ _ _).trans (calmAlike_cancelFollowers _ _ _))

/-! ### The kicks (R82) -/

/-- The cue on voice `w` that the entry of a cue of group `g` on voice `v` kicks, if there is one. -/
def kicked (v : Fin 24) (g : Nat) (s : State) (w : Fin 24) : Option Playing :=
  match (s.voice w).content with
  | .sounding q => if w ≠ v ∧ q.entry = none ∧ q.sound.group = g then some q else none
  | _ => none

theorem kicked_eq_some {v : Fin 24} {g : Nat} {s : State} {w : Fin 24} {q : Playing} : kicked v g s w = some q ↔
    (s.voice w).content = .sounding q ∧ w ≠ v ∧ q.entry = none ∧ q.sound.group = g := by
  unfold kicked
  cases hc : (s.voice w).content with
  | sounding p =>
    simp only [Option.ite_none_right_eq_some, Option.some.injEq, Content.sounding.injEq]
    constructor
    · rintro ⟨h, rfl⟩
      exact ⟨rfl, h⟩
    · rintro ⟨rfl, h⟩
      exact ⟨h, rfl⟩
  | _ => exact ⟨fun h => (by cases h), fun h => (by cases h.1)⟩

theorem kicked_congr {v : Fin 24} {g : Nat} {s t : State} {w : Fin 24} (h : ∀ q, (t.voice w).content = .sounding q ↔
    (s.voice w).content = .sounding q) : kicked v g t w = kicked v g s w :=
  Option.ext fun q => by rw [kicked_eq_some, kicked_eq_some, h]

/-- The release that a kick makes (R82). -/
def kickRelease (w : Fin 24) (q : Playing) (s : State) : State :=
  releaseSounding w q (max q.sound.fadeOut cutLength) .kicked s

theorem kick_eq (v : Fin 24) (g : Nat) (s : State) (w : Fin 24) : kick v g s w =
    match kicked v g s w with
    | some q => kickRelease w q s
    | none => s := by
  unfold kick kicked kickRelease
  by_cases e : w = v
  · rw [if_pos e]
    cases (s.voice w).content <;> simp [e]
  · rw [if_neg e]
    cases (s.voice w).content with
    | sounding q => cases h : q.entry <;> by_cases hg : q.sound.group = g <;> simp [h, hg, e]
    | _ => rfl

/-- A voice record whose SOUNDING cue `q` is kicked (R82). -/
def Voice.kicked (x : Voice) (q : Playing) : Voice :=
  { x with content := .releasing { q with fade := .release q.fadeValue (max q.sound.fadeOut 96) 0, endReason := some .kicked } }

theorem kickRelease_voice (u : Fin 24) (q : Playing) (s : State) (w : Fin 24) : (kickRelease u q s).voice w =
    if w = u then (s.voice u).kicked q else (s.voice w).cancelled u q.claim.number := by
  unfold kickRelease
  rw [releaseSounding_voice]
  unfold Voice.stopped
  rw [if_neg (show max q.sound.fadeOut cutLength ≠ 0 by unfold cutLength; omega)]
  rfl

/-- A cancelled follow-on leaves the SOUNDING voices as they are. -/
theorem cancelled_sounding {x : Voice} {v : Fin 24} {n : Half} {q : Playing} :
    (x.cancelled v n).content = .sounding q ↔ x.content = .sounding q := by
  rcases cancelled_content (x := x) (v := v) (n := n) with e | e <;> rw [e]
  cases x.content <;> simp [Content.afterWithdraw]

/-- What the kicks of the voices in `l` have done to the voices. -/
structure Kicks (v : Fin 24) (g : Nat) (l : List (Fin 24)) (s t : State) : Prop where
  kicked : ∀ w ∈ l, ∀ q, Machine.kicked v g s w = some q → t.voice w = (s.voice w).kicked q
  sounding : ∀ w q, (s.voice w).content = .sounding q → (w ∈ l → Machine.kicked v g s w = none) → t.voice w = s.voice w
  other : ∀ w, (∀ q, (s.voice w).content ≠ .sounding q) →
    (∀ i x q, (s.voice w).content.incoming = some i → x ∈ l → Machine.kicked v g s x = some q →
      i.follows x q.claim.number = false) → t.voice w = s.voice w
  order : ∀ a : List (Fin 24), a.Nodup → s.startOrder = a ++ [v] →
    t.startOrder = (a.filter fun w => !(decide (w ∈ l) && (Machine.kicked v g s w).isSome)) ++ [v]

theorem kicks_foldl (v : Fin 24) (g : Nat) (l : List (Fin 24)) (hl : l.Nodup) :
    ∀ s, Kicks v g l s (l.foldl (kick v g) s) := by
  induction l with
  | nil =>
    intro s
    exact ⟨fun w hw => absurd hw List.not_mem_nil, fun w q _ _ => rfl, fun w _ _ => rfl, fun a _ ha => by simpa using ha⟩
  | cons u l ih =>
    intro s
    rw [List.nodup_cons] at hl
    rw [List.foldl_cons, kick_eq]
    cases hu : kicked v g s u with
    | none =>
      have rest := ih hl.2 s
      refine ⟨fun w hw q hq => ?_, fun w q hq hk => rest.sounding w q hq fun hw => hk (List.mem_cons_of_mem u hw),
        fun w hw follows => rest.other w hw fun i x q hi hx => follows i x q hi (List.mem_cons_of_mem u hx), fun a ha ho => ?_⟩
      · rcases List.mem_cons.mp hw with rfl | hw
        · rw [hu] at hq
          cases hq
        · exact rest.kicked w hw q hq
      · rw [rest.order a ha ho]
        congr 1
        refine List.filter_congr fun w _ => ?_
        by_cases e : w = u
        · subst e
          simp [hu]
        · simp [e]
    | some p =>
      obtain ⟨content, ne, -, -⟩ := kicked_eq_some.mp hu
      have rest := ih hl.2 (kickRelease u p s)
      have voice := kickRelease_voice u p s
      have beside : ∀ w, w ≠ u → (kickRelease u p s).voice w = (s.voice w).cancelled u p.claim.number := fun w e => by
        rw [voice, if_neg e]
      have same : ∀ w, w ≠ u → kicked v g (kickRelease u p s) w = kicked v g s w := fun w e =>
        kicked_congr fun q => by rw [beside w e, cancelled_sounding]
      have still : ∀ w q, w ≠ u → (s.voice w).content = .sounding q → (kickRelease u p s).voice w = s.voice w :=
        fun w q e hq => by rw [beside w e, cancelled_of_none (by rw [hq]; rfl)]
      refine ⟨fun w hw q hq => ?_, fun w q hq hk => ?_, fun w hw follows => ?_, fun a ha ho => ?_⟩
      · rcases List.mem_cons.mp hw with rfl | hw
        · rw [hu] at hq
          cases hq
          have after : (kickRelease w p s).voice w = (s.voice w).kicked p := by rw [voice, if_pos rfl]
          rw [rest.other w (fun q hc => ?_) (fun i x q hi => ?_), after]
          · rw [after] at hc
            cases hc
          · rw [after] at hi
            cases hi
        · have e : w ≠ u := fun e => hl.1 (e ▸ hw)
          rw [rest.kicked w hw q ((same w e).trans hq), still w q e (kicked_eq_some.mp hq).1]
      · have e : w ≠ u := fun e => by
          rw [e] at hk
          exact absurd (hu.symm.trans (hk List.mem_cons_self)) (by simp)
        have here := still w q e hq
        rw [rest.sounding w q (by rw [here]; exact hq) fun hw => (same w e).trans (hk (List.mem_cons_of_mem u hw)), here]
      · have e : w ≠ u := fun e => hw p (e ▸ content)
        have here : (kickRelease u p s).voice w = s.voice w := by
          rw [beside w e, cancelled_of_other fun i hi => follows i u p hi List.mem_cons_self hu]
        rw [rest.other w (by rw [here]; exact hw) fun i x q hi hx hq => ?_, here]
        rw [here] at hi
        exact follows i x q hi (List.mem_cons_of_mem u hx) ((same x fun e => hl.1 (e ▸ hx)).symm.trans hq)
      · have erased : (kickRelease u p s).startOrder = (a.filter (· != u)) ++ [v] := by
          unfold kickRelease
          rw [releaseSounding_startOrder, ho, ← ha.erase_eq_filter]
          by_cases hm : u ∈ a
          · exact List.erase_append_left _ hm
          · rw [List.erase_append_right _ hm, List.erase_of_not_mem hm, List.erase_of_not_mem (by simpa using ne)]
        rw [rest.order _ (ha.filter _) erased, List.filter_filter]
        congr 1
        refine List.filter_congr fun w _ => ?_
        by_cases e : w = u
        · subst e
          simp [hu]
        · simp [e, same w e]

end Sys2Proof.Machine
end

section
/-! An entry into SOUNDING, settled as a whole, and the EXACT start (R69, R82, R141, R156). -/

namespace Sys2Proof.Machine

/-! ### The kicks of an entry -/

theorem kicks_eq_true {v : Fin 24} {p : Playing} {s : State} {w : Fin 24} : kicks v p s w = true ↔
    p.sound.group ≠ 0 ∧ ∃ q, kicked v p.sound.group s w = some q := by
  unfold kicks
  simp only [kicked_eq_some]
  cases hc : (s.voice w).content with
  | sounding q =>
    simp only [Bool.and_eq_true, bne_iff_ne, beq_iff_eq, Option.isNone_iff_eq_none, Content.sounding.injEq]
    constructor
    · rintro ⟨⟨⟨ne, group⟩, entered⟩, same⟩
      exact ⟨group, q, rfl, ne, entered, same⟩
    · rintro ⟨group, _, rfl, ne, entered, same⟩
      exact ⟨⟨⟨ne, group⟩, entered⟩, same⟩
  | _ => exact ⟨fun h => (by cases h), fun ⟨_, q, h, _⟩ => (by cases h)⟩

theorem kicks_ne {v : Fin 24} {p : Playing} {s : State} {w : Fin 24} (h : kicks v p s w = true) : w ≠ v := by
  obtain ⟨_, q, hq⟩ := kicks_eq_true.mp h
  exact (kicked_eq_some.mp hq).2.1

theorem kicks_self (v : Fin 24) (p : Playing) (s : State) : kicks v p s v = false :=
  Bool.eq_false_iff.mpr fun h => kicks_ne h rfl

theorem kicks_congr {v : Fin 24} {p : Playing} {s t : State} {w : Fin 24} (h : w ≠ v → (t.voice w).content = (s.voice w).content) :
    kicks v p t w = kicks v p s w := by
  by_cases e : w = v
  · rw [e, kicks_self, kicks_self]
  · unfold kicks
    rw [h e]

/-- What the kicks of an entry do. -/
structure Kicking (v : Fin 24) (p : Playing) (s t : State) : Prop where
  kicked : ∀ w q, (s.voice w).content = .sounding q → kicks v p s w = true → t.voice w = (s.voice w).kicked q
  sounding : ∀ w q, (s.voice w).content = .sounding q → kicks v p s w = false → t.voice w = s.voice w
  other : ∀ w, (∀ q, (s.voice w).content ≠ .sounding q) →
    (∀ i x q, (s.voice w).content.incoming = some i → kicks v p s x = true → (s.voice x).content = .sounding q →
      i.follows x q.claim.number = false) → t.voice w = s.voice w
  order : ∀ a : List (Fin 24), a.Nodup → s.startOrder = a ++ [v] → t.startOrder = (a.filter fun w => !kicks v p s w) ++ [v]
  none : (∀ w, kicks v p s w = false) → t = s

theorem kickOthers_kicking (v : Fin 24) (p : Playing) (s : State) : Kicking v p s (kickOthers v p.sound.group s) := by
  by_cases group : p.sound.group = 0
  · have no : ∀ w, kicks v p s w = false := fun w => Bool.eq_false_iff.mpr fun h => (kicks_eq_true.mp h).1 group
    have same : kickOthers v p.sound.group s = s := by
      unfold kickOthers
      exact if_pos group
    rw [same]
    refine ⟨fun w q _ h => ?_, fun _ _ _ _ => rfl, fun _ _ _ => rfl, fun a _ ha => ?_, fun _ => rfl⟩
    · rw [no w] at h
      cases h
    · simp [ha, no]
  · have fold : kickOthers v p.sound.group s = allVoices.foldl (kick v p.sound.group) s := by
      unfold kickOthers
      exact if_neg group
    have all := kicks_foldl v p.sound.group allVoices (List.nodup_finRange 24) s
    rw [fold]
    have some_ : ∀ w, kicks v p s w = (Machine.kicked v p.sound.group s w).isSome := fun w => by
      rw [Bool.eq_iff_iff, kicks_eq_true, Option.isSome_iff_exists]
      exact and_iff_right group
    refine ⟨fun w q hc h => ?_, fun w q hc h => ?_, fun w hc follows => ?_, fun a ha ho => ?_, fun no => ?_⟩
    · rw [some_, Option.isSome_iff_exists] at h
      obtain ⟨q', hq⟩ := h
      have same := (kicked_eq_some.mp hq).1
      rw [hc] at same
      cases same
      exact all.kicked w (List.mem_finRange w) q hq
    · rw [some_, Option.isSome_eq_false_iff, Option.isNone_iff_eq_none] at h
      exact all.sounding w q hc fun _ => h
    · refine all.other w hc fun i x q hi _ hq => follows i x q hi ?_ (kicked_eq_some.mp hq).1
      rw [some_, hq]
      rfl
    · rw [all.order a ha ho]
      congr 1
      refine List.filter_congr fun w _ => ?_
      have member : w ∈ allVoices := List.mem_finRange w
      rw [some_ w, decide_eq_true member, Bool.true_and]
    · have still : ∀ (l : List (Fin 24)), l.foldl (kick v p.sound.group) s = s := fun l => by
        induction l with
        | nil => rfl
        | cons w l ih =>
          have none_ : Machine.kicked v p.sound.group s w = none := by
            have h := no w
            rwa [some_, Option.isSome_eq_false_iff, Option.isNone_iff_eq_none] at h
          rw [List.foldl_cons, kick_eq, none_]
          exact ih
      exact still allVoices

/-! ### The reports of an entry (R53, R69, R82, R113) -/

/-- The LATE reports that follow FIRED are handed on in their order. -/
theorem told_emitLate (v : Fin 24) (p : Playing) (l : Lateness) (s u : State) :
    Told (lateHere v p l s.clock.frame u) s (emitLate v p.claim l ((firstSample p u).setWidth 32) s) := by
  have mark : Told (match l.mark with
        | some target => [({ aboutClaim .late v p.claim
            (toBytes 4 (min 65535 (s.clock.frame - target).toNat) ++ [0] ++ toBytes 1 p.sound.lateAllowance) u with
            time := (firstSample p u).setWidth 32 } : Report)]
        | none => []) s (match l.mark with
        | some t => emit (lateReport v p.claim p.claim.req.tag (saturate 65535 (s.clock.frame - t).toNat) 0
            p.claim.req.cue.sound.lateAllowance ((firstSample p u).setWidth 32)) s
        | none => s) := by
    cases l.mark with
    | none => exact .of_silent (.refl s)
    | some target => exact .emit s rfl
  have samples (w : State) : Told (match l.samples with
        | some n => [({ aboutClaim .late v p.claim (toBytes 4 (min 4294967295 n) ++ [1, 0]) u with
            time := (firstSample p u).setWidth 32, tag := 0 } : Report)]
        | none => []) w (match l.samples with
        | some n => emit (lateReport v p.claim 0 (saturate 4294967295 n) 1 0 ((firstSample p u).setWidth 32)) w
        | none => w) := by
    cases l.samples with
    | none => exact .of_silent (.refl w)
    | some n =>
      have same : lateReport v p.claim 0 (saturate 4294967295 n) 1 0 ((firstSample p u).setWidth 32) =
          { aboutClaim .late v p.claim (toBytes 4 (min 4294967295 n) ++ [1, 0]) u with
            time := (firstSample p u).setWidth 32, tag := 0 } := by
        unfold lateReport claimReport aboutClaim
        rw [List.append_assoc]
        rfl
      dsimp only
      rw [same]
      exact .emit w rfl
  exact mark.trans (samples _)

theorem emitLate_mix (v : Fin 24) (c : Claim) (l : Lateness) (t : Word) (s : State) : (emitLate v c l t s).mix = s.mix := by
  unfold emitLate
  dsimp only
  repeat' split
  all_goals simp only [emit_mix]

theorem testFollow_mix (v : Fin 24) (s : State) : (testFollow v s).mix = s.mix := by
  rcases testFollow_cases v s with h | ⟨p, f, -, h⟩ <;> rw [h]
  rfl

theorem testFollow_startOrder (v : Fin 24) (s : State) : (testFollow v s).startOrder = s.startOrder := by
  rcases testFollow_cases v s with h | ⟨p, f, -, h⟩ <;> rw [h]
  rfl

theorem silent_testFollow (v : Fin 24) (s : State) : Silent s (testFollow v s) := by
  rcases testFollow_cases v s with h | ⟨p, f, -, h⟩ <;> rw [h]
  · exact .refl s
  · exact ⟨rfl, rfl, rfl, keepsLine_of_port rfl⟩

/-- The follow-on lead marks its request placed on the voice, and leaves every record otherwise alone (R73). -/
theorem testFollow_voice (v w : Fin 24) (s : State) : (testFollow v s).voice w = s.voice w
    ∨ w = v ∧ ∃ p, (s.voice v).content = .sounding p
      ∧ (testFollow v s).voice w = { s.voice v with content := .sounding { p with followPlaced := true } } := by
  rcases testFollow_cases v s with h | ⟨p, f, hp, h⟩ <;> rw [h]
  · exact .inl rfl
  · have voice : ({ setContent v (.sounding { p with followPlaced := true }) s with
        resolver := { s.resolver with follows := placeFollow f s.resolver.follows } } : State).voice w =
        if w = v then { s.voice v with content := .sounding { p with followPlaced := true } } else s.voice w := setVoice_at _ _ _ _
    by_cases e : w = v
    · exact .inr ⟨e, p, hp, voice.trans (if_pos e)⟩
    · exact .inl (voice.trans (if_neg e))

theorem silent_keyDucks (v : Fin 24) (r : DuckRole) (s : State) : Silent s (keyDucks v r s) := by
  unfold keyDucks
  split
  · exact ⟨rfl, rfl, rfl, keepsLine_of_port rfl⟩
  · exact .refl s

/-! ### The entry as a whole (R82) -/

theorem takeUp_eq (c : SoundCue) (h : List Frame) : takeUp c h =
    match c.loop with
    | some l => if l.stop < h.length then (h.take l.stop, l.start) else (h, h.length)
    | none => (h, h.length) := rfl

/-- The effects of an entry that is still to come (R82, R141, R156). -/
theorem entryEffects_enters {v : Fin 24} {p : Playing} {l : Lateness} {s : State} (hl : p.entry = some l) :
    entersSounding v p s (entryEffects v p l s) := by
  obtain ⟨x, hx⟩ : ∃ x, x = (s.voice v).takeUpHead p := ⟨_, rfl⟩
  obtain ⟨a, ha⟩ : ∃ a : State, a = { setVoice v x s with startOrder := s.startOrder ++ [v] } := ⟨_, rfl⟩
  obtain ⟨b, hb⟩ : ∃ b, b = kickOthers v p.sound.group a := ⟨_, rfl⟩
  obtain ⟨c, hk⟩ : ∃ c, c = keyDucks v p.sound.duck b := ⟨_, rfl⟩
  obtain ⟨d, hd⟩ : ∃ d, d = emit (firedHere v p s) c := ⟨_, rfl⟩
  obtain ⟨e, he⟩ : ∃ e, e = emitLate v p.claim l ((firstSample p s).setWidth 32) d := ⟨_, rfl⟩
  have whole : entryEffects v p l s = testFollow v e := by
    rw [he, hd, hk, hb, ha, hx]
    rfl
  have kicking : Kicking v p a b := hb ▸ kickOthers_kicking v p a
  have voiceA : ∀ w, a.voice w = if w = v then x else s.voice w := fun w => by
    rw [ha]
    exact setVoice_at v w x s
  have besideA : ∀ w, w ≠ v → a.voice w = s.voice w := fun w ne => by rw [voiceA, if_neg ne]
  have kicks_ : ∀ w, kicks v p a w = kicks v p s w := fun w => kicks_congr fun ne => by rw [besideA w ne]
  have contentX : x.content = .sounding { p with entry := none } := by rw [hx]; rfl
  have selfB : b.voice v = x := by
    rw [kicking.sounding v _ (by rw [voiceA, if_pos rfl]; exact contentX) (kicks_self v p a), voiceA, if_pos rfl]
  have voicesE : e.voices = b.voices := by
    rw [he, emitLate_voices, hd, emit_voices, hk, keyDucks_voices]
  have voiceE : ∀ w, e.voice w = b.voice w := fun w => voice_of_voices voicesE w
  have besideT : ∀ w, w ≠ v → (testFollow v e).voice w = b.voice w := fun w ne =>
    (testFollow_voice v w e).elim (fun h => h.trans (voiceE w)) fun h => absurd h.1 ne
  have selfT : ∃ q, (testFollow v e).voice v = { x with content := .sounding q }
      ∧ { q with followPlaced := p.followPlaced } = { p with entry := none } := by
    rcases testFollow_voice v v e with h | ⟨-, q, hq, h⟩
    · refine ⟨{ p with entry := none }, ?_, rfl⟩
      rw [h, voiceE, selfB, ← contentX]
    · rw [voiceE, selfB, contentX] at hq
      cases hq
      exact ⟨_, by rw [h, voiceE, selfB], rfl⟩
  have mixT : (testFollow v e).mix = c.mix := by
    rw [testFollow_mix, he, emitLate_mix, hd, emit_mix]
  have orderT : (testFollow v e).startOrder = b.startOrder := by
    rw [testFollow_startOrder, he]
    unfold emitLate
    dsimp only
    cases l.mark <;> cases l.samples <;> simp only [emit_startOrder] <;> rw [hd, emit_startOrder, hk, keyDucks_startOrder]
  rw [whole]
  obtain ⟨q, selfQ, sameQ⟩ := selfT
  refine ⟨⟨q, by rw [selfQ], sameQ⟩, ⟨?_, ?_, ?_, ?_⟩, fun nodup => ?_, fun w r ne hr => ?_, fun w ne quiet follows => ?_,
    fun groups g hg bit => ⟨?_, ?_, fun unkeyed => ?_⟩, fun no => ?_⟩
  · rw [selfQ, hx]
    rfl
  · rw [selfQ, hx]
    rfl
  · rw [selfQ, hx]
    rfl
  · rw [selfQ, hx]
    exact takeUp_eq p.sound (s.voice v).head
  · rw [orderT, kicking.order s.startOrder nodup (by rw [ha])]
    simp only [kicks_]
  · rw [besideT w ne]
    cases hw : kicks v p s w with
    | true =>
      rw [kicking.kicked w r (by rw [besideA w ne]; exact hr) ((kicks_ w).trans hw)]
      exact (if_pos rfl).symm
    | false =>
      rw [kicking.sounding w r (by rw [besideA w ne]; exact hr) ((kicks_ w).trans hw), besideA w ne, hr]
      exact (if_neg Bool.false_ne_true).symm
  · rw [besideT w ne, kicking.other w (fun r hr => ?_) (fun i y r hi hy hr => ?_), besideA w ne]
    · rw [besideA w ne] at hr
      rw [hr] at quiet
      cases quiet
    · rw [besideA w ne] at hi
      rw [kicks_] at hy
      rw [besideA y (kicks_ne hy)] at hr
      exact follows i y r hi hy hr
  · rw [mixT, hk, hg, keyDucks_duck, if_pos bit, rejudge_keying]
    exact join_bit v _
  · rw [mixT, hk, hg, keyDucks_duck, if_pos bit]
    exact rejudge_keyed (join_bit v _)
  · have calm : (s.mix.ducks[g]).calm := fun keyed => absurd (unkeyed.symm.trans keyed) (by decide)
    have toB : calmAlike a b := hb ▸ (by
      unfold kickOthers
      split
      · exact calmAlike_of_mix rfl
      · refine calmAlike_foldl _ (fun t w => ?_) _ _
        rw [kick_eq]
        split
        · exact calmAlike_releaseSounding _ _ _ _ _
        · exact calmAlike_of_mix rfl)
    have toC : calmAlike b c := hk ▸ calmAlike_keyDucks _ _ _
    have calmC : (c.mix.ducks[g]).calm := toC g (toB g (by rw [ha]; exact calm))
    rw [mixT]
    refine calmC ?_
    rw [hk, hg, keyDucks_duck, if_pos bit]
    exact rejudge_keyed (join_bit v _)
  · have same : b = a := kicking.none fun w => (kicks_ w).trans (no w)
    have silentA : Silent s a := ha ▸ ⟨rfl, rfl, rfl, keepsLine_of_port rfl⟩
    have silentC : Silent s c := hk ▸ same ▸ silentA.trans (silent_keyDucks v p.sound.duck a)
    have clock : (testFollow v e).clock = s.clock := by
      rw [← whole]
      exact congrArg Quiet.clock (quiet_entryEffects v p l s)
    have lateTold : Told (lateHere v p l d.clock.frame s) d e := he ▸ told_emitLate v p l d s
    have clockD : d.clock = s.clock := by
      rw [hd, emit_clock, hk, (releaseOnly_keyDucks _ _ _).clock, same, ha]
      rfl
    refine ⟨fun none_ => ?_, ?_, fun m hm => ?_⟩
    · rw [mixT, hk, keyDucks_none none_, same, ha]
      rfl
    · have told : recorded (firedHere v p s) s d := hd ▸ recorded_emit silentC
      exact (told.keeps (lateTold.line.trans (silent_testFollow v e).line)).first
    · rw [hl] at hm
      cases hm
      have fired : Told [firedHere v p s] c d := hd ▸ .emit c rfl
      have all := ((Told.of_silent silentC).trans fired).trans lateTold
      rw [clockD] at all
      rw [clock]
      exact all.inOrder (silent_testFollow v e).line

/-! ### From another state, and to another -/

/-- An entry on voice `v` that begins in `s` finds what it finds in `u`. -/
structure StartsAlike (v : Fin 24) (s u : State) : Prop where
  beside : ∀ w, w ≠ v → (u.voice w).content = (s.voice w).content
  head : (u.voice v).head = (s.voice v).head
  number : (u.voice v).claimNo = (s.voice v).claimNo
  order : u.startOrder = s.startOrder
  ducks : u.mix.ducks = s.mix.ducks
  header : u.slate.header = s.slate.header
  part : u.regs.part = s.regs.part
  reports : u.reports = s.reports
  time : u.clock.showTime = s.clock.showTime

/-- Reports in their order are those of every state with the same Report Unit, header and part state. -/
theorem reportsInOrder.of_same {rs : List Report} {s u t : State} (h : reportsInOrder rs u t)
    (header : u.slate.header = s.slate.header) (part : u.regs.part = s.regs.part) (reports : u.reports = s.reports) :
    reportsInOrder rs s t := by
  intro active hold small room k n r hr hn
  rw [← recordJob_of header]
  refine h (by rw [isActive_of_part part]; exact active) (by rw [reports]; exact hold)
    (by rw [reports, header_of_slate header]; exact small) (by rw [freeRoom_of header reports]; exact room) k n r hr ?_
  rw [reports, header_of_slate header]
  exact hn

theorem entersSounding.of_start {v : Fin 24} {p : Playing} {s u t : State} (h : entersSounding v p u t)
    (a : StartsAlike v s u) : entersSounding v p s t := by
  obtain ⟨self, ⟨head, feeding, number, stream⟩, order, sounding, other, ducks, quiet⟩ := h
  have kicks_ : ∀ w, kicks v p u w = kicks v p s w := fun w => kicks_congr (a.beside w)
  have fired : firedHere v p u = firedHere v p s := by
    unfold firedHere firstSample aboutClaim
    rw [a.time]
  have late (l : Lateness) (frame : Word) : lateHere v p l frame u = lateHere v p l frame s := by
    unfold lateHere firstSample aboutClaim
    rw [a.time]
  simp only [kicks_] at order sounding other quiet
  rw [a.order] at order
  rw [a.number] at feeding number
  rw [a.head] at stream
  refine ⟨self, ⟨head, feeding, number, stream⟩, order, fun w q ne hq => sounding w q ne (by rw [a.beside w ne]; exact hq),
    fun w ne quiet follows => ?_, fun groups g hg bit => ?_, fun no => ?_⟩
  · rw [other w ne (by rw [a.beside w ne]; exact quiet) fun i x q hi hx hq => ?_, a.beside w ne]
    rw [a.beside w ne] at hi
    rw [a.beside x (kicks_ne hx)] at hq
    exact follows i x q hi hx hq
  · obtain ⟨keying, keyed, calm⟩ := ducks groups g hg bit
    rw [a.ducks] at calm
    exact ⟨keying, keyed, calm⟩
  · obtain ⟨same, first, all⟩ := quiet no
    rw [a.ducks] at same
    rw [fired] at first
    refine ⟨same, first.of_same a.header a.part a.reports, fun l hl => ?_⟩
    have these := all l hl
    rw [fired, late] at these
    exact these.of_same a.header a.part a.reports

/-- A report record at the port of `s` is at that of `t`. -/
def recordsStay (s t : State) : Prop := ∀ n r u, atPort (recordJob n r u) s → atPort (recordJob n r u) t

theorem recordsStay_arbitrate (s : State) : recordsStay s (arbitrate s) := fun _ _ _ h => atPort_arbitrate h rfl rfl

theorem firstReport.stays {r : Report} {s t u : State} (h : firstReport r s t) (k : recordsStay t u) : firstReport r s u :=
  fun room => k _ _ _ (h room)

theorem reportsInOrder.stays {rs : List Report} {s t u : State} (h : reportsInOrder rs s t) (k : recordsStay t u) :
    reportsInOrder rs s u := fun active hold small room i n r hr hn =>
  ⟨(h active hold small room i n r hr hn).1, k _ _ _ (h active hold small room i n r hr hn).2⟩

theorem entersSounding.answered {v : Fin 24} {p : Playing} {s t u : State} (h : entersSounding v p s t)
    (port : portOnly t u) (records : recordsStay t u) : entersSounding v p s u := by
  obtain ⟨⟨q, self, same⟩, ⟨head, feeding, number, stream⟩, order, sounding, other, ducks, quiet⟩ := h
  refine ⟨⟨q, (port.2.content v).trans self, same⟩, ⟨?_, ?_, ?_, ?_⟩, fun nodup => port.startOrder.trans (order nodup),
    fun w q ne hq => (port.2.content w).trans (sounding w q ne hq),
    fun w ne still follows => (port.2.content w).trans (other w ne still follows), fun groups g hg bit => ?_, fun no => ?_⟩
  · rw [port.2.head, head]
  · rw [port.2.feeding, feeding]
  · rw [port.2.claimNo, number]
  · rw [port.2.stream, port.2.fetchPosition, stream]
  · rw [port.mix]
    exact ducks groups g hg bit
  · obtain ⟨same, first, all⟩ := quiet no
    rw [port.mix, port.clock]
    exact ⟨same, first.stays records, fun l hl => (all l hl).stays records⟩

/-! ### Entering SOUNDING -/

theorem completeEntry_enters {v : Fin 24} {p : Playing} {l : Lateness} {s : State} (hc : (s.voice v).content = .sounding p)
    (hl : p.entry = some l) : completeEntry v s = entryEffects v p l s := by
  unfold completeEntry
  rw [hc]
  dsimp only
  rw [hl]

/-- A claim that waits on voice `v` enters SOUNDING at this sample (R69, R82). -/
theorem enterSounding_enters {v : Fin 24} {i : Incoming} {s : State} (late : Option Nat) :
    entersSounding v (i.begin false late) s (enterSounding v i false late s) := by
  have content : ((setContent v (.sounding (i.begin false late)) s).voice v).content = .sounding (i.begin false late) := by
    rw [setContent_at, if_pos rfl]
  have act : enterSounding v i false late s =
      entryEffects v (i.begin false late) { mark := i.lateMark, samples := late } (setContent v (.sounding (i.begin false late)) s) := by
    unfold enterSounding
    exact completeEntry_enters content rfl
  rw [act]
  refine (entryEffects_enters rfl).of_start ⟨fun w ne => ?_, ?_, ?_, rfl, rfl, rfl, rfl, rfl, rfl⟩
  · rw [setContent_at, if_neg ne]
  · unfold setContent
    rw [setVoice_self]
  · unfold setContent
    rw [setVoice_self]

/-- Settles O41. -/
theorem exactStartSounds : Obligations.ExactStartSounds := by
  refine ⟨fun v s i stop hc start => ⟨fun due => ⟨_, rfl, ?_⟩, fun early => ⟨_, rfl, ?_⟩⟩,
    fun v s => ⟨fun p l hc hl => ?_, completeEntry_of_entered⟩⟩
  · have act : exactStart v s = enterSounding v i false none s := by
      unfold exactStart
      rw [hc]
      dsimp only
      rw [start]
      exact if_neg (Bool.eq_false_iff.mp due)
    rw [act]
    exact (enterSounding_enters none).answered (portOnly_arbitrate _) (recordsStay_arbitrate _)
  · have act : exactStart v s = s := by
      unfold exactStart
      rw [hc]
      dsimp only
      rw [start]
      exact if_pos early
    rw [act]
    exact portBut_arbitrate s
  · rw [completeEntry_enters hc hl]
    exact entryEffects_enters hl

end Sys2Proof.Machine
end

section
/-! What a boundary hands to the voices (R69, R91, R111). -/

namespace Sys2Proof.Machine

/-! ### The units, where no bus clips and no meter runs -/

/-- The units' work at a boundary leaves to the voices the state `x`, with the clock `k`. -/
structure Reaches (s b : State) (k : Clock) (x : State) : Prop where
  voices : x.voices = s.voices
  order : x.startOrder = s.startOrder
  ducks : x.mix.ducks = s.mix.ducks
  run : x.run = s.run
  schedule : x.schedule = s.schedule
  resolver : x.resolver = s.resolver
  cache : x.cache = s.cache
  trigger : x.trigger = s.trigger
  clock : x.clock = k
  header : x.slate.header = s.slate.header
  part : x.regs.part = s.regs.part
  reports : x.reports = b.reports
  silent : Silent b x

theorem boundarySlate_frame (s : State) : boundarySlate s =
    { s with port := (boundarySlate s).port, slate := (boundarySlate s).slate, free := (boundarySlate s).free } := by
  have mirrored (u : State) : mirror u = { u with port := (mirror u).port, slate := (mirror u).slate, free := (mirror u).free } := by
    unfold mirror
    dsimp only
    split <;> rfl
  have whole : mirror (startScan s) = { s with
      port := (mirror (startScan s)).port, slate := (mirror (startScan s)).slate, free := (mirror (startScan s)).free } := by
    refine (mirrored (startScan s)).trans ?_
    generalize (mirror (startScan s)).port = p
    generalize (mirror (startScan s)).slate = y
    generalize (mirror (startScan s)).free = n
    rw [(startScan_starts s).1]
  unfold boundarySlate
  split
  · exact whole
  · rfl

theorem boundary_reaches {s : State} {c : Instr} (makes : makesBoundary c s)
    (clips : ∀ b : Fin 4, s.mix.buses[b].clipFlag = false) (off : s.mix.meterInterval = 0) :
    ∃ b k x, boundaryFrom c s b ∧ Opens s b k ∧ Reaches s b k x
      ∧ exec c s = .next (arbitrate (boundarySchedule (allVoices.foldl boundaryVoice x))) := by
  obtain ⟨b, k, from_, ends, opens⟩ := makesBoundary_opens makes
  have frame := opens.frame
  have mix : b.mix = s.mix := by rw [frame]
  obtain ⟨m, hm⟩ : ∃ m, m = clipsClosed (setClock k b) := ⟨_, rfl⟩
  have act : handOut (setClock k b) = boundarySchedule (allVoices.foldl boundaryVoice (boundarySlate (boundaryReports m))) := by
    have mixU : (setClock k b).mix = s.mix := mix
    unfold handOut
    rw [closed_quiet (fun g => by rw [mixU]; exact clips g) (by rw [mixU]; exact off), hm]
  rw [act] at ends
  have framed : boundarySlate (boundaryReports m) = { m with
      port := (boundarySlate (boundaryReports m)).port, slate := (boundarySlate (boundaryReports m)).slate
      free := (boundarySlate (boundaryReports m)).free } := by
    refine (boundarySlate_frame _).trans ?_
    generalize (boundarySlate (boundaryReports m)).port = p
    generalize (boundarySlate (boundaryReports m)).slate = y
    generalize (boundarySlate (boundaryReports m)).free = n
    rw [(boundaryReports_reads m).1]
  have headed : (boundarySlate (boundaryReports m)).slate.header = m.slate.header := by
    have slate := congrArg Quiet.header (quiet_boundarySlate (boundaryReports m))
    exact slate.trans (congrArg Quiet.header (quiet_boundaryReports m))
  have lined : keepsLine m (boundarySlate (boundaryReports m)) := by
    have slate := (acts_boundarySlate (new := fun _ => True) (fun _ _ _ => trivial) (fun _ _ => trivial) (boundaryReports m)).keepsLine
    refine .trans ?_ slate
    unfold boundaryReports
    split
    · exact (acts_readReturnedTo (new := fun _ => True) (fun _ _ => trivial) m).keepsLine
    · exact keepsLine_refl m
  refine ⟨b, k, boundarySlate (boundaryReports m), from_, opens, ⟨?_, ?_, ?_, ?_, ?_, ?_, ?_, ?_, ?_, ?_, ?_, ?_, ?_⟩, ends⟩
  · rw [framed, hm]; unfold clipsClosed setClock; rw [frame]
  · rw [framed, hm]; unfold clipsClosed setClock; rw [frame]
  · rw [framed, hm]; unfold clipsClosed setClock; rw [frame]
  · rw [framed, hm]; unfold clipsClosed setClock; rw [frame]
  · rw [framed, hm]; unfold clipsClosed setClock; rw [frame]
  · rw [framed, hm]; unfold clipsClosed setClock; rw [frame]
  · rw [framed, hm]; unfold clipsClosed setClock; rw [frame]
  · rw [framed, hm]; unfold clipsClosed setClock; rw [frame]
  · rw [framed, hm]; rfl
  · rw [headed, hm]; unfold clipsClosed setClock; rw [frame]
  · rw [framed, hm]; unfold clipsClosed setClock; rw [frame]
  · rw [framed, hm]; rfl
  · have silentM : Silent b m := hm ▸ ⟨rfl, rfl, rfl, keepsLine_of_port rfl⟩
    refine silentM.trans ⟨headed, ?_, ?_, lined⟩ <;> rw [framed]

/-! ### One voice at a boundary (R69, R111) -/

theorem boundaryVoice_none {s : State} {v : Fin 24} (h : (s.voice v).content.incoming = none) : boundaryVoice s v = s := by
  unfold boundaryVoice
  cases hc : (s.voice v).content with
  | armed i => rw [hc] at h; cases h
  | priming i => rw [hc] at h; cases h
  | handover p i l => rw [hc] at h; cases h
  | _ => rfl

theorem targetNow_iff (i : Incoming) (f : Word) : i.targetNow f = true ↔ i.start = .atFrame f false := by
  unfold Incoming.targetNow
  cases i.start with
  | atFrame t overdue => simp
  | _ => simp

section
variable {s : State} {v : Fin 24} {i : Incoming} {f : Word} (clock : s.clock.frame = f)
include clock

theorem boundaryVoice_enters (hc : (s.voice v).content = .armed i)
    (h : i.start = .frame ∨ i.start = .atFrame f false ∧ s.run.hold ≠ .light) :
    boundaryVoice s v = enterSounding v i false none s := by
  unfold boundaryVoice
  rw [hc, clock]
  dsimp only
  rcases h with frame | ⟨now, hold⟩
  · rw [if_pos frame]
  · rw [if_neg (by rw [now]; exact fun e => (by cases e)), if_pos ((targetNow_iff i f).mpr now), if_neg hold]

theorem boundaryVoice_overdue (now : i.start = .atFrame f false) (hold : s.run.hold ≠ .light) :
    ((s.voice v).content = .priming i → boundaryVoice s v = setContent v (.priming { i with start := .atFrame f true }) s)
      ∧ ∀ p l, (s.voice v).content = .handover p i l →
        boundaryVoice s v = setContent v (.handover p { i with start := .atFrame f true } l) s := by
  refine ⟨fun hc => ?_, fun p l hc => ?_⟩
  all_goals
    unfold boundaryVoice
    rw [hc, clock]
    dsimp only
    rw [if_pos ((targetNow_iff i f).mpr now), if_neg hold]
    rfl

theorem boundaryVoice_missed (hi : (s.voice v).content.incoming = some i) (now : i.start = .atFrame f false)
    (hold : s.run.hold = .light) : boundaryVoice s v = missVoice v i 1 f 0 s := by
  have target := (targetNow_iff i f).mpr now
  unfold boundaryVoice
  rw [clock]
  cases hc : (s.voice v).content with
  | armed j =>
    rw [hc] at hi
    cases hi
    dsimp only
    rw [if_neg (by rw [now]; exact fun e => (by cases e)), if_pos target, if_pos hold]
    rfl
  | priming j =>
    rw [hc] at hi
    cases hi
    dsimp only
    rw [if_pos target, if_pos hold]
    rfl
  | handover p j l =>
    rw [hc] at hi
    cases hi
    dsimp only
    rw [if_pos target, if_pos hold]
    rfl
  | _ => rw [hc] at hi; cases hi

theorem boundaryVoice_waits (hi : (s.voice v).content.incoming = some i) (later : i.start ≠ .atFrame f false)
    (waits : (s.voice v).content = .armed i → i.start ≠ .frame) : boundaryVoice s v = s := by
  have target : ¬ i.targetNow f = true := fun h => later ((targetNow_iff i f).mp h)
  unfold boundaryVoice
  rw [clock]
  cases hc : (s.voice v).content with
  | armed j =>
    rw [hc] at hi
    cases hi
    dsimp only
    rw [if_neg (waits hc), if_neg target]
  | priming j =>
    rw [hc] at hi
    cases hi
    dsimp only
    rw [if_neg target]
  | handover p j l =>
    rw [hc] at hi
    cases hi
    dsimp only
    rw [if_neg target]
  | _ => rfl

end

/-- A voice at a boundary leaves no other voice with an unsounded claim where there was none. -/
theorem boundaryVoice_incoming {s : State} {v w : Fin 24} (ne : w ≠ v) (none_ : ∀ u, u ≠ v → (s.voice u).content.incoming = none) :
    ((boundaryVoice s v).voice w).content.incoming = none := by
  have entering (i : Incoming) : ((enterSounding v i false none s).voice w).content.incoming = none := by
    obtain ⟨-, -, -, sounding, other, -⟩ := enterSounding_enters (v := v) (i := i) (s := s) none
    cases hc : (s.voice w).content with
    | sounding q =>
      rw [sounding w q ne hc]
      split <;> rfl
    | _ =>
      rw [other w ne (by rw [hc]; rfl) fun i x q hi _ _ => absurd ((none_ w ne).symm.trans hi) (by simp)]
      exact none_ w ne
  have missing (i : Incoming) (r : Nat) (f : Word) (l : Nat) : ((missVoice v i r f l s).voice w).content.incoming = none := by
    unfold missVoice
    rw [emit_voice, withdraw_other s ne]
    exact none_ w ne
  have marked (c : Content) : ((setContent v c s).voice w).content.incoming = none := by
    rw [setContent_at, if_neg ne]
    exact none_ w ne
  unfold boundaryVoice
  dsimp only
  repeat' split
  · exact entering _
  · exact missing _ _ _ _
  · exact entering _
  · exact none_ w ne
  · exact missing _ _ _ _
  · exact marked _
  · exact none_ w ne
  · exact missing _ _ _ _
  · exact marked _
  · exact none_ w ne
  · exact none_ w ne

/-- Where one voice has an unsounded claim, the voices act at a boundary as that one does. -/
theorem boundaryVoices_one {s : State} {v : Fin 24} (none_ : ∀ w, w ≠ v → (s.voice w).content.incoming = none) :
    allVoices.foldl boundaryVoice s = boundaryVoice s v := by
  have beyond (l : List (Fin 24)) : ∀ t : State, (∀ w ∈ l, (t.voice w).content.incoming = none) → l.foldl boundaryVoice t = t := by
    induction l with
    | nil => intro t _; rfl
    | cons w l ih =>
      intro t h
      rw [List.foldl_cons, boundaryVoice_none (h w List.mem_cons_self)]
      exact ih t fun u hu => h u (List.mem_cons_of_mem w hu)
  have split_ (l : List (Fin 24)) (hl : l.Nodup) (hv : v ∈ l) : l.foldl boundaryVoice s = boundaryVoice s v := by
    obtain ⟨a, b, rfl⟩ := List.append_of_mem hv
    rw [List.nodup_append, List.nodup_cons] at hl
    obtain ⟨-, ⟨notB, -⟩, apart⟩ := hl
    rw [List.foldl_append, List.foldl_cons,
      beyond a s fun w hw => none_ w (apart w hw v List.mem_cons_self)]
    exact beyond b _ fun w hw => boundaryVoice_incoming (fun e => notB (e ▸ hw)) none_
  exact split_ allVoices (List.nodup_finRange 24) (List.mem_finRange v)

theorem scheduleWalk_empty {s : State} (h : s.schedule.entries = []) : scheduleWalk s = s := by
  have same : setEntries [] s = s := by
    have self : setEntries s.schedule.entries s = s := rfl
    rwa [h] at self
  unfold scheduleWalk dueEntries farEntries
  rw [h]
  simp only [List.takeWhile_nil, List.dropWhile_nil, List.filter_nil, List.append_nil, List.foldl_nil, same, ite_self]

theorem boundarySchedule_empty {s : State} (h : s.schedule.entries = []) : boundarySchedule s = s := by
  unfold boundarySchedule
  rw [scheduleWalk_empty h, ite_self]

/-- A state that the units' work leaves to the voices starts an entry as the state the boundary opens from. -/
theorem Reaches.starts {s b x : State} {k : Clock} (h : Reaches s b k x) (opens : Opens s b k) (v : Fin 24) :
    StartsAlike v b x := by
  have frame := opens.frame
  have voices : x.voices = b.voices := by rw [h.voices, frame]
  refine ⟨fun w _ => by rw [voice_of_voices voices], by rw [voice_of_voices voices], by rw [voice_of_voices voices], ?_, ?_, ?_, ?_,
    h.reports, by rw [h.clock, opens.now]⟩
  · rw [h.order, frame]
  · rw [h.ducks, frame]
  · rw [h.header, frame]
  · rw [h.part, frame]

/-- Settles O17. -/
theorem boundaryReachesVoices : Obligations.BoundaryReachesVoices := by
  intro s c v i f makes hf empty hi none_ clips off
  obtain ⟨b, k, x, from_, opens, x_, ends⟩ := boundary_reaches makes clips off
  have voice : ∀ w, x.voice w = s.voice w := voice_of_voices x_.voices
  have frame : x.clock.frame = f := by rw [x_.clock, opens.next, opens.counter, hf]
  have one : boundarySchedule (allVoices.foldl boundaryVoice x) = boundaryVoice x v := by
    rw [boundaryVoices_one fun w ne => by rw [voice]; exact none_ w ne]
    refine boundarySchedule_empty ?_
    have entries := congrArg Quiet.entries (quiet_boundaryVoice x v)
    exact entries.trans (by rw [show x.quiet.entries = x.schedule.entries from rfl, x_.schedule, empty])
  rw [one] at ends
  have hold : x.run.hold = s.run.hold := by rw [x_.run]
  have port := portOnly_arbitrate (boundaryVoice x v)
  have missed (now : i.start = .atFrame f false) (light : s.run.hold = .light) : boundaryVoice x v = missVoice v i 1 f 0 x :=
    boundaryVoice_missed frame (by rw [voice]; exact hi) now (by rw [hold]; exact light)
  refine ⟨b, _, from_, ends, fun hc start => ?_, fun now free => ⟨fun hc => ?_, fun p l hc => ?_⟩, fun now light => ⟨?_, ?_, ?_⟩,
    fun later waits => ?_, fun rests => ?_⟩
  · have act := boundaryVoice_enters frame (by rw [voice]; exact hc) (by rw [hold]; exact start)
    rw [act]
    exact ((enterSounding_enters none).of_start (x_.starts opens v)).answered (portOnly_arbitrate _) (recordsStay_arbitrate _)
  · rw [port.2.content, (boundaryVoice_overdue frame now (by rw [hold]; exact free)).1 (by rw [voice]; exact hc), setContent_at,
      if_pos rfl]
  · rw [port.2.content, (boundaryVoice_overdue frame now (by rw [hold]; exact free)).2 p l (by rw [voice]; exact hc),
      setContent_at, if_pos rfl]
  · rw [port.2.content, missed now light, missVoice, emit_voice, withdraw_content, if_pos rfl, voice]
  · rw [port.2.claimNo, missed now light, missVoice, emit_voice, withdraw_claimNo, voice]
  · have report : missedReport v i.claim 1 f 0 (now32 x) = aboutClaim .missed v i.claim
        ([1, 0] ++ toBytes 2 i.claim.number.toNat ++ toBytes 4 f.toNat ++ [0, 0]) s := by
      unfold missedReport now32
      rw [x_.clock, opens.now, opens.time]
      rfl
    rw [missed now light, ← report]
    exact ((recorded_emit (x_.silent.trans (silent_withdraw v x))).keeps (keepsLine_arbitrate _)).first
  · have act := boundaryVoice_waits frame (by rw [voice]; exact hi) later (by rw [voice]; exact waits)
    rw [port.2.content, act, voice]
  · have marks (c : Content) (act : boundaryVoice x v = setContent v c x) :
        (boundaryVoice x v).startOrder = s.startOrder ∧ ∀ w, w ≠ v → (boundaryVoice x v).voice w = s.voice w := by
      rw [act]
      exact ⟨x_.order, fun w ne => (setVoice_other _ _ ne).trans (voice w)⟩
    have still : (boundaryVoice x v).startOrder = s.startOrder ∧ ∀ w, w ≠ v → (boundaryVoice x v).voice w = s.voice w := by
      by_cases now : i.start = .atFrame f false
      · by_cases light : s.run.hold = .light
        · rw [missed now light]
          unfold missVoice
          exact ⟨by rw [emit_startOrder, withdraw_startOrder, x_.order],
            fun w ne => by rw [emit_voice, withdraw_other x ne, voice]⟩
        · obtain ⟨primes, hands⟩ := boundaryVoice_overdue (v := v) frame now (by rw [hold]; exact light)
          rw [voice] at primes hands
          cases hc : (s.voice v).content with
          | armed j =>
            rw [hc] at hi
            cases hi
            exact ((rests hc).2.elim (fun no => no now) light).elim
          | priming j =>
            rw [hc] at hi
            cases hi
            exact marks _ (primes hc)
          | handover p j l =>
            rw [hc] at hi
            cases hi
            exact marks _ (hands p l hc)
          | _ => rw [hc] at hi; cases hi
      · rw [boundaryVoice_waits frame (by rw [voice]; exact hi) now (by rw [voice]; exact fun hc => (rests hc).1)]
        exact ⟨x_.order, fun w _ => voice w⟩
    refine ⟨port.startOrder.trans still.1, fun w ne => ?_⟩
    have alike := port.2 w
    rw [still.2 w ne] at alike
    exact alike

end Sys2Proof.Machine
end

section
/-! The walk of the Fire Schedule at a boundary (R110, R115). -/

namespace Sys2Proof.Machine

theorem isAhead_iff (target frame : Word) : isAhead target frame = true ↔
    1 ≤ (target - frame).toNat ∧ (target - frame).toNat < 2 ^ 31 := by
  unfold isAhead distance
  simp only [Bool.and_eq_true, decide_eq_true_eq]
  omega

theorem isFar_iff (target frame : Word) : isFar target frame = true ↔
    3 ≤ (target - frame).toNat ∧ (target - frame).toNat < 2 ^ 31 := by
  unfold isFar
  rw [Bool.and_eq_true, isAhead_iff]
  unfold distance
  simp only [decide_eq_true_eq]
  omega

/-- The entries that a boundary finds due, and those behind them (R110). -/
theorem due_far {x : State} {due far : List Entry} (entries : x.schedule.entries = due ++ far)
    (near : ∀ e ∈ due, isFar e.target x.clock.frame = false) (head : ∀ e, far.head? = some e → isFar e.target x.clock.frame = true) :
    dueEntries x = due ∧ farEntries x = far := by
  have keep : ∀ e ∈ due, (!isFar e.target x.clock.frame) = true := fun e he => by rw [near e he]; rfl
  unfold dueEntries farEntries
  rw [entries, List.takeWhile_append_of_pos keep, List.dropWhile_append_of_pos keep]
  cases far with
  | nil => exact ⟨List.append_nil due, rfl⟩
  | cons e es =>
    have stop : ¬ (!isFar e.target x.clock.frame) = true := by rw [head e rfl]; exact Bool.false_ne_true
    rw [List.takeWhile_cons_of_neg (p := fun a : Entry => !isFar a.target x.clock.frame) stop,
      List.dropWhile_cons_of_neg (p := fun a : Entry => !isFar a.target x.clock.frame) stop]
    exact ⟨List.append_nil due, rfl⟩

/-! ### One entry after another (R110) -/

section
variable {s : State} {e : Entry} {f : Word} (clock : s.clock.frame = f)
include clock

theorem primeEntry_ahead (h : isAhead e.target f = true) : primeEntry s e =
    claim (scheduled e.cue .schedule e.origin e.tag (.atFrame e.target false) none) (some e.target) s := by
  unfold primeEntry
  rw [clock]
  exact if_pos h

theorem primeEntry_late (h : isAhead e.target f = false) (late : (f - e.target).toNat ≤ e.cue.sound.lateAllowance) :
    primeEntry s e = claim (scheduled e.cue .schedule e.origin e.tag .frame (some e.target)) (some e.target) s := by
  unfold primeEntry
  rw [clock]
  exact (if_neg (Bool.eq_false_iff.mp h)).trans (if_pos late)

theorem primeEntry_missed (h : isAhead e.target f = false) (late : ¬ (f - e.target).toNat ≤ e.cue.sound.lateAllowance) :
    primeEntry s e = emit (missedEntry e 0 f s) s := by
  unfold primeEntry
  rw [clock]
  exact (if_neg (Bool.eq_false_iff.mp h)).trans (if_neg late)

end

theorem primeEntry_clock (s : State) (e : Entry) : (primeEntry s e).clock = s.clock :=
  congrArg Quiet.clock (quiet_primeEntry s e)

theorem walked_foldl {f : Word} {ahead : Entry → Bool} (h : ∀ e, ahead e = true ↔ isAhead e.target f = true) (due : List Entry) :
    ∀ s : State, s.clock.frame = f → walked f ahead due s (due.foldl primeEntry s) := by
  have not_ : ∀ e, ahead e = false → isAhead e.target f = false := fun e no =>
    Bool.eq_false_iff.mpr fun yes => Bool.noConfusion (no.symm.trans ((h e).mpr yes))
  induction due with
  | nil => intro s _; rfl
  | cons e es ih =>
    intro s clock
    refine ⟨primeEntry s e, fun yes => primeEntry_ahead clock ((h e).mp yes), fun no late => primeEntry_late clock (not_ e no) late,
      fun no late => ?_, ih _ (by rw [primeEntry_clock, clock])⟩
    rw [primeEntry_missed clock (not_ e no) late]
    exact ⟨reportBut_emit _ s, (recorded_emit (.refl s)).first⟩

/-! ### In a LIGHT hold (R115) -/

theorem told_missLate (f : Word) (u : State) (l : List Entry) : ∀ s : State,
    Told (l.map fun e => missedEntry e 1 f u) s (l.foldl (fun t e => emit (missedEntry e 1 f u) t) s) := by
  induction l with
  | nil => intro s; exact .of_silent (.refl s)
  | cons e l ih =>
    intro s
    exact (Told.emit s rfl).trans (ih _)

theorem foldl_emit_frame (f : Word) (u : State) (l : List Entry) : ∀ s : State,
    (l.foldl (fun t e => emit (missedEntry e 1 f u) t) s).voices = s.voices
      ∧ (l.foldl (fun t e => emit (missedEntry e 1 f u) t) s).schedule = s.schedule := by
  induction l with
  | nil => intro s; exact ⟨rfl, rfl⟩
  | cons e l ih =>
    intro s
    obtain ⟨voices, schedule⟩ := ih (emit (missedEntry e 1 f u) s)
    exact ⟨voices.trans (emit_voices _ _), schedule.trans (emit_schedule _ _)⟩

/-- The reports of the walk name the frame and the sample of its boundary throughout. -/
theorem foldl_missedHeld {f : Word} {u : State} (l : List Entry) : ∀ s : State, s.clock.frame = f →
    s.clock.showTime = u.clock.showTime →
    l.foldl (fun t e => emit (entryMissed e missedHeld (t.clock.frame - e.target).toNat (now32 t)) t) s =
      l.foldl (fun t e => emit (missedEntry e 1 f u) t) s := by
  induction l with
  | nil => intro s _ _; rfl
  | cons e l ih =>
    intro s frame time
    have same : entryMissed e missedHeld (s.clock.frame - e.target).toNat (now32 s) = missedEntry e 1 f u := by
      unfold entryMissed now32
      rw [frame, time]
      rfl
    rw [List.foldl_cons, List.foldl_cons, same]
    exact ih _ (by rw [emit_clock]; exact frame) (by rw [emit_clock]; exact time)

theorem missedEntry_congr {s t : State} (h : t.clock.showTime = s.clock.showTime) (e : Entry) (r : Byte) (f : Word) :
    missedEntry e r f t = missedEntry e r f s := by
  unfold missedEntry aboutNone
  rw [h]

/-- Settles O18. -/
theorem boundaryWalksSchedule : Obligations.BoundaryWalksSchedule := by
  intro s c due far ahead makes running none_ clips off entries near head hahead
  obtain ⟨b, k, x, from_, opens, x_, ends⟩ := boundary_reaches makes clips off
  have frame : x.clock.frame = s.clock.frame + 1 := by rw [x_.clock, opens.next, opens.counter]
  have time : x.clock.showTime = s.clock.showTime := by rw [x_.clock, opens.now, opens.time]
  generalize hf : s.clock.frame + 1 = f at *
  have voices : allVoices.foldl boundaryVoice x = x := by
    rw [boundaryVoices_one (v := 0) fun w _ => by rw [voice_of_voices x_.voices]; exact none_ w]
    exact boundaryVoice_none (by rw [voice_of_voices x_.voices]; exact none_ 0)
  have walk : boundarySchedule x = scheduleWalk x := by
    unfold boundarySchedule
    exact if_pos ((isRunning_of_part x_.part).trans running)
  rw [voices, walk] at ends
  have isAhead_ : ∀ e, ahead e = true ↔ isAhead e.target f = true := fun e => (hahead e).trans (isAhead_iff _ _).symm
  obtain ⟨due_, far_⟩ := due_far (x := x) (by rw [x_.schedule]; exact entries)
    (fun e he => Bool.eq_false_iff.mpr fun yes => by
      rw [frame, isFar_iff] at yes
      rcases near e he with few | wrapped
      · omega
      · omega)
    (fun e he => by rw [frame]; exact (isFar_iff _ _).mpr (head e he))
  have hold : x.run.hold = s.run.hold := by rw [x_.run]
  obtain ⟨u, hu⟩ : ∃ u, u = setEntries far x := ⟨_, rfl⟩
  have free : s.run.hold ≠ .light → scheduleWalk x = due.foldl primeEntry u := fun no => by
    unfold scheduleWalk
    rw [due_, far_, hold, hu]
    exact if_neg no
  have quietU : (due.foldl primeEntry u).quiet = u.quiet := quiet_foldl _ quiet_primeEntry due u
  refine ⟨b, _, from_, ends, fun no => ?_, fun light => ?_, fun no => ?_, fun e late hd hl no behind over_ => ?_⟩
  · have port := portOnly_arbitrate (scheduleWalk x)
    rw [port.schedule, free no]
    exact (congrArg Quiet.entries quietU).trans (by rw [hu]; rfl)
  · have late : due.filter (fun e => !isAhead e.target x.clock.frame) = due.filter fun e => !ahead e :=
      List.filter_congr fun e _ => by rw [frame, Bool.eq_iff_iff.mpr (isAhead_ e)]
    have kept : due.filter (fun e => isAhead e.target x.clock.frame) = due.filter ahead :=
      List.filter_congr fun e _ => by rw [frame, Bool.eq_iff_iff.mpr (isAhead_ e)]
    obtain ⟨w, hw⟩ : ∃ w, w = setEntries (due.filter ahead ++ far) x := ⟨_, rfl⟩
    have act : scheduleWalk x = (due.filter fun e => !ahead e).foldl (fun t e => emit (missedEntry e 1 f s) t) w := by
      rw [← foldl_missedHeld _ w (by rw [hw]; exact frame) (by rw [hw]; exact time), hw]
      unfold scheduleWalk
      dsimp only
      rw [due_, far_, late, kept, hold]
      exact if_pos light
    have port := portOnly_arbitrate (scheduleWalk x)
    obtain ⟨voicesW, scheduleW⟩ := foldl_emit_frame f s (due.filter fun e => !ahead e) w
    have told := told_missLate f s (due.filter fun e => !ahead e) w
    rw [← act] at voicesW scheduleW told
    refine ⟨?_, fun v => ?_, ?_⟩
    · rw [port.schedule, scheduleW, hw]
      rfl
    · have still : (scheduleWalk x).voices = s.voices := voicesW.trans (by rw [hw]; exact x_.voices)
      have alike := port.2 v
      rw [voice_of_voices still] at alike
      exact alike
    · have silentW : Silent x w := hw ▸ ⟨rfl, rfl, rfl, keepsLine_of_port rfl⟩
      exact ((Told.of_silent (x_.silent.trans silentW)).trans told).inOrder (keepsLine_arbitrate _)
  · refine ⟨u, due.foldl primeEntry u, ?_, ?_, ?_, ?_, ?_, ?_, ?_, ?_, ?_, ?_, ?_, ?_, walked_foldl isAhead_ due u ?_, ?_⟩
    · rw [hu]; exact x_.voices
    · rw [hu]; exact x_.order
    · rw [hu]; exact x_.run
    · rw [hu]; exact x_.resolver
    · rw [hu]; exact x_.cache
    · rw [hu]; exact x_.ducks
    · rw [hu]; exact x_.trigger
    · rw [hu]; exact x_.reports
    · rw [(portOnly_arbitrate (scheduleWalk x)).clock, free no]
      exact (congrArg Quiet.clock quietU).symm
    · rw [hu]; exact x_.header
    · rw [hu]; exact x_.part
    · rw [hu]
      unfold setEntries
      rw [x_.schedule]
    · rw [hu]; exact frame
    · rw [free no]
      exact portBut_arbitrate _
  · have act : scheduleWalk x = emit (missedEntry e 0 f u) u := by
      rw [free no, hd, List.foldl_cons, List.foldl_nil]
      refine primeEntry_missed (by rw [hu]; exact frame) ?_ (by rw [← hl]; exact Nat.not_le.mpr over_)
      exact Bool.eq_false_iff.mpr fun yes => Bool.noConfusion (behind.symm.trans ((isAhead_ e).mpr yes))
    have port := portOnly_arbitrate (scheduleWalk x)
    refine ⟨fun v => ?_, ?_⟩
    · have still : (scheduleWalk x).voices = s.voices := by rw [act, emit_voices, hu]; exact x_.voices
      have alike := port.2 v
      rw [voice_of_voices still] at alike
      exact alike
    · have silentU : Silent x u := hu ▸ ⟨rfl, rfl, rfl, keepsLine_of_port rfl⟩
      rw [act, ← missedEntry_congr (s := s) (t := u) (by rw [hu]; exact time)]
      exact ((recorded_emit (x_.silent.trans silentU)).keeps (keepsLine_arbitrate _)).first

end Sys2Proof.Machine
end

section
/-! The ends of clips, releases and handover fades (R83 to R90, R100, R156). -/

namespace Sys2Proof.Machine

/-- A voice that an operation leaves as it is, and then at most the arbiter touches. -/
theorem voiceAlike.of_eq {w : Fin 24} {s u t : State} (same : u.voice w = s.voice w) (port : portOnly u t) : voiceAlike w s t := by
  have alike := port.2 w
  rw [same] at alike
  exact alike

theorem silent_of_record {s t : State} (header : t.slate.header = s.slate.header) (part : t.regs.part = s.regs.part)
    (reports : t.reports = s.reports) (port : t.port = s.port) : Silent s t :=
  ⟨header, part, reports, keepsLine_of_port port⟩

theorem silent_goIdle (v : Fin 24) (e : Half × Bool) (s : State) : Silent s (goIdle v e s) := silent_of_record rfl rfl rfl rfl

theorem silent_leaveOrder (v : Fin 24) (s : State) : Silent s (leaveOrder v s) := silent_of_record rfl rfl rfl rfl

theorem silent_setVoice (v : Fin 24) (x : Voice) (s : State) : Silent s (setVoice v x s) := silent_of_record rfl rfl rfl rfl

/-- A content put where it stands already. -/
theorem setContent_same {v : Fin 24} {c : Content} {s : State} (h : (s.voice v).content = c) : setContent v c s = s := by
  subst h
  have same : s.voices.set v.val (s.voices[v.val]) v.isLt = s.voices := Vector.set_getElem_self v.isLt
  exact congrArg (fun x => { s with voices := x }) same

theorem leave_keying (v w : Fin 24) (d : Duck) : (d.leave v).keying.getLsbD w = (d.keying.getLsbD w && decide (w ≠ v)) := by
  have apart : decide (w.val = v.val) = decide (w = v) := decide_eq_decide.mpr Fin.ext_iff.symm
  unfold Duck.leave voiceBit
  simp [w.isLt]
  grind

/-- The bits of a group after a voice has left it and it has been re-judged (R156). -/
theorem unkeyDucks_keying (v w : Fin 24) (s : State) (g : Fin 4) :
    (unkeyDucks v s).mix.ducks[g].keying.getLsbD w = (s.mix.ducks[g].keying.getLsbD w && decide (w ≠ v)) := by
  rw [unkeyDucks_duck, rejudge_keying, leave_keying]

theorem goIdle_ducks (v w : Fin 24) (e : Half × Bool) (s : State) (g : Fin 4) :
    (goIdle v e s).mix.ducks[g].keying.getLsbD w = (s.mix.ducks[g].keying.getLsbD w && decide (w ≠ v)) :=
  unkeyDucks_keying v w _ g

/-! ### Natural ends (R87) -/

/-- A SOUNDING voice that has played its clip. -/
theorem naturalEnd_sounding {v : Fin 24} {s : State} {p : Playing} (hp : (s.voice v).content = .sounding p)
    (played : p.sound.length ≤ p.position) :
    naturalEnd v s = emitEnded v p.claim .natural true (goIdle v (p.claim.number, true) (leaveOrder v s)) := by
  unfold naturalEnd
  rw [hp]
  exact if_pos (decide_eq_true played)

theorem naturalEnd_waits {v : Fin 24} {s : State} {p : Playing}
    (hp : (s.voice v).content = .sounding p ∨ (s.voice v).content = .releasing p)
    (plays : p.position < p.sound.length) : naturalEnd v s = s := by
  have more : ¬ p.finished = true := fun h => absurd (of_decide_eq_true h) (Nat.not_le.mpr plays)
  unfold naturalEnd
  rcases hp with hp | hp <;> rw [hp] <;> exact if_neg more

/-! ### The end of a release (R87, R89) -/

/-- A release ends with its clip or its length. -/
theorem release_ends {v : Fin 24} {s : State} {p : Playing} {f : Int} {l m : Nat} (hp : (s.voice v).content = .releasing p)
    (fade : p.fade = .release f l m) {c : Instr}
    (due : c = .naturalEnd v ∧ p.sound.length ≤ p.position ∨ c = .releaseComplete v ∧ l ≤ m) :
    exec c s = .next (arbitrate (endRelease v p s)) := by
  rcases due with ⟨rfl, played⟩ | ⟨rfl, run⟩
  · have act : naturalEnd v s = endRelease v p s := by
      unfold naturalEnd
      rw [hp]
      exact if_pos (decide_eq_true played)
    rw [← act]
    rfl
  · have act : releaseComplete v s = endRelease v p s := by
      unfold releaseComplete Fade.over
      rw [hp]
      dsimp only
      rw [fade]
      exact if_pos (decide_eq_true run)
    rw [← act]
    rfl

theorem release_goes_on {v : Fin 24} {s : State} {p : Playing} {f : Int} {l m : Nat} (hp : (s.voice v).content = .releasing p)
    (fade : p.fade = .release f l m) {c : Instr}
    (early : c = .naturalEnd v ∧ p.position < p.sound.length ∨ c = .releaseComplete v ∧ m < l) :
    exec c s = .next (arbitrate s) := by
  rcases early with ⟨rfl, plays⟩ | ⟨rfl, run⟩
  · have act := naturalEnd_waits (.inr hp) plays
    exact congrArg (fun t => Host.Outcome.next (arbitrate t)) act
  · have act : releaseComplete v s = s := by
      unfold releaseComplete Fade.over
      rw [hp]
      dsimp only
      rw [fade]
      exact if_neg fun h => absurd (of_decide_eq_true h) (Nat.not_le.mpr run)
    exact congrArg (fun t => Host.Outcome.next (arbitrate t)) act

/-- The end of a release reports as the end reason says, and never after a steal or a quiet cut. -/
theorem endRelease_cases (v : Fin 24) (p : Playing) (s : State) :
    (∃ r, p.endReason = some r ∧ p.quiet = false ∧ endRelease v p s =
        emit (endedReport v p.claim r true (now32 s)) (goIdle v (p.claim.number, false) s))
      ∨ (p.endReason = none ∨ p.quiet = true) ∧ endRelease v p s = goIdle v (p.claim.number, false) s := by
  unfold endRelease tell
  cases reason : p.endReason with
  | none => exact .inr ⟨.inl rfl, rfl⟩
  | some r =>
    cases quiet : p.quiet with
    | false => exact .inl ⟨r, rfl, rfl, rfl⟩
    | true => exact .inr ⟨.inr rfl, rfl⟩

theorem endRelease_ducks (v w : Fin 24) (p : Playing) (s : State) (g : Fin 4) :
    (endRelease v p s).mix.ducks[g].keying.getLsbD w = (s.mix.ducks[g].keying.getLsbD w && decide (w ≠ v)) := by
  rcases endRelease_cases v p s with ⟨r, _, _, act⟩ | ⟨_, act⟩
  · have mix : (endRelease v p s).mix = (goIdle v (p.claim.number, false) s).mix := by rw [act, emit_mix]
    rw [mix, goIdle_ducks]
  · rw [act, goIdle_ducks]

theorem endRelease_order (v : Fin 24) (p : Playing) (s : State) : (endRelease v p s).startOrder = s.startOrder := by
  rcases endRelease_cases v p s with ⟨r, _, _, act⟩ | ⟨_, act⟩
  · rw [act, emit_startOrder]; rfl
  · rw [act]; rfl

/-! ### The end of a handover fade (R90) -/

/-- The voice whose outgoing cue has been discarded. -/
def Voice.discarded (x : Voice) (p : Playing) (i : Incoming) : Voice :=
  { x with
    content := .priming i, lastEnd := some (p.claim.number, false), stream := [], fetchPosition := 0, feeding := none
    refillFailed := false }

theorem discardOutgoing_voice (v w : Fin 24) (p : Playing) (i : Incoming) (s : State) :
    (discardOutgoing v p i s).voice w = if w = v then (s.voice v).discarded p i else s.voice w := by
  unfold discardOutgoing
  dsimp only
  split
  · rw [tell_voice, setVoice_at]; rfl
  · rw [setVoice_at]; rfl

theorem releaseOnly_discardOutgoing (v : Fin 24) (p : Playing) (i : Incoming) (s : State) :
    releaseOnly s (discardOutgoing v p i s) := by
  unfold discardOutgoing
  dsimp only
  split
  · exact (releaseOnly_setVoice v _ s).trans (releaseOnly_tell p _ _)
  · exact releaseOnly_setVoice v _ s

theorem discardOutgoing_order (v : Fin 24) (p : Playing) (i : Incoming) (s : State) :
    (discardOutgoing v p i s).startOrder = s.startOrder := by
  unfold discardOutgoing
  dsimp only
  split
  · unfold tell; split
    · rfl
    · rw [emit_startOrder]; rfl
  · rfl

/-- The ENDED of the outgoing cue is the first report. -/
theorem discardOutgoing_tells {v : Fin 24} {p : Playing} {i : Incoming} {s : State} {r : EndReason}
    (reason : p.endReason = some r) (loud : p.quiet = false) :
    recorded (endedReport v p.claim r true (now32 s)) s (discardOutgoing v p i s) := by
  unfold discardOutgoing tell
  dsimp only
  rw [reason]
  dsimp only
  rw [loud]
  exact recorded_emit (silent_setVoice v _ s)

theorem handoverFadeEnd_due {v : Fin 24} {s : State} {p : Playing} {i : Incoming} {landed : Bool} {f : Int} {l m : Nat}
    (hc : (s.voice v).content = .handover p i landed) (fade : p.fade = .release f l m)
    (due : l ≤ m ∨ p.sound.length ≤ p.position) :
    handoverFadeEnd v s = if landed then actOnStart v i (discardOutgoing v p i s) else discardOutgoing v p i s := by
  have ends : (p.fade.over || p.finished) = true := by
    unfold Playing.finished Fade.over
    rw [fade, Bool.or_eq_true, decide_eq_true_iff, decide_eq_true_iff]
    exact due
  unfold handoverFadeEnd
  rw [hc]
  exact if_pos ends

theorem handoverFadeEnd_waits {v : Fin 24} {s : State} {p : Playing} {i : Incoming} {landed : Bool} {f : Int} {l m : Nat}
    (hc : (s.voice v).content = .handover p i landed) (fade : p.fade = .release f l m) (runs : m < l)
    (plays : p.position < p.sound.length) : handoverFadeEnd v s = s := by
  have more : ¬ (p.fade.over || p.finished) = true := by
    unfold Playing.finished Fade.over
    rw [fade, Bool.or_eq_true, decide_eq_true_iff, decide_eq_true_iff]
    omega
  unfold handoverFadeEnd
  rw [hc]
  exact if_neg more

/-- What the incoming claim becomes when nothing else awaits its start. -/
theorem handoverFadeEnd_stands {v : Fin 24} {s : State} {p : Playing} {i : Incoming} {landed : Bool} {f : Int} {l m : Nat}
    (hc : (s.voice v).content = .handover p i landed) (fade : p.fade = .release f l m)
    (due : l ≤ m ∨ p.sound.length ≤ p.position) {c : Content}
    (start : landed = false ∧ c = .priming i ∨ landed = true ∧ i.start = .frame ∧ c = .armed i
      ∨ landed = true ∧ i.start = .immediate ∧ c = .sounding (i.begin true none)) :
    handoverFadeEnd v s = setContent v c (discardOutgoing v p i s) := by
  rw [handoverFadeEnd_due hc fade due]
  rcases start with ⟨rfl, rfl⟩ | ⟨rfl, start, rfl⟩ | ⟨rfl, start, rfl⟩
  · have content : ((discardOutgoing v p i s).voice v).content = .priming i := by
      rw [discardOutgoing_voice, if_pos rfl]
      rfl
    exact (setContent_same content).symm
  · exact actOnStart_stands (.inl ⟨.inl start, rfl⟩)
  · exact actOnStart_stands (.inr (.inl ⟨start, rfl⟩))

/-- The ENDED of the outgoing cue comes before what the landed head does. -/
theorem handoverFadeEnd_tells {v : Fin 24} {s : State} {p : Playing} {i : Incoming} {landed : Bool} {f : Int} {l m : Nat}
    (hc : (s.voice v).content = .handover p i landed) (fade : p.fade = .release f l m)
    (due : l ≤ m ∨ p.sound.length ≤ p.position) {r : EndReason} (reason : p.endReason = some r) (loud : p.quiet = false) :
    recorded (endedReport v p.claim r true (now32 s)) s (handoverFadeEnd v s) := by
  have told := discardOutgoing_tells (v := v) (i := i) (s := s) reason loud
  rw [handoverFadeEnd_due hc fade due]
  cases landed with
  | false => exact told
  | true => exact told.keeps (acts_actOnStart (new := fun _ => True) v i _).keepsLine

/-- Settles O43. -/
theorem clipsAndFadesEnd : Obligations.ClipsAndFadesEnd := by
  refine ⟨fun v s p hp => ⟨fun played => ⟨_, rfl, ?_⟩, fun plays => ⟨_, rfl, ?_⟩⟩,
    fun v s p f l m c hp fade => ⟨fun due => ⟨_, release_ends hp fade due, ?_⟩, fun early => ⟨_, release_goes_on hp fade early, ?_⟩⟩,
    fun v s p i landed f l m hc fade => ⟨fun due => ⟨_, rfl, ?_⟩, fun runs plays => ⟨_, rfl, ?_⟩⟩⟩
  · rw [naturalEnd_sounding hp played]
    obtain ⟨u, hu⟩ : ∃ u, u = emitEnded v p.claim .natural true (goIdle v (p.claim.number, true) (leaveOrder v s)) := ⟨_, rfl⟩
    have voice : ∀ w, u.voice w = if w = v then (s.voice v).ended (p.claim.number, true) else s.voice w := by
      intro w
      rw [hu, emitEnded_voice, goIdle_at]
      rfl
    have order : u.startOrder = s.startOrder.erase v := by rw [hu, emitEnded_startOrder]; rfl
    have ducks : u.mix = (goIdle v (p.claim.number, true) (leaveOrder v s)).mix := by rw [hu]; exact emit_mix _ _
    have rest : u.rest = s.rest := by
      rw [hu]
      exact (((releaseOnly_leaveOrder v s).trans (releaseOnly_goIdle v _ _)).trans (releaseOnly_emitEnded v _ _ _ _)).rest
    have told : recorded (endedReport v p.claim .natural true (now32 s)) s u := by
      rw [hu]
      exact recorded_emit ((silent_leaveOrder v s).trans (silent_goIdle v _ _))
    have port := portOnly_arbitrate u
    rw [← hu]
    have at_v := voice v
    rw [if_pos rfl] at at_v
    refine ⟨?_, ?_, ?_, ?_, port.startOrder.trans order, fun g w => ?_, fun w ne => ?_, port.rest.trans rest,
      (told.keeps (keepsLine_arbitrate u)).first⟩
    · rw [port.2.content, at_v]; rfl
    · rw [port.2.lastEnd, at_v]; rfl
    · rw [port.2.stream, at_v]; rfl
    · rw [port.2.claimNo, at_v]; rfl
    · rw [port.mix, ducks]
      exact goIdle_ducks v w _ _ g
    · exact .of_eq ((voice w).trans (if_neg ne)) port
  · rw [naturalEnd_waits (.inl hp) plays]
    exact portBut_arbitrate s
  · have port := portOnly_arbitrate (endRelease v p s)
    have at_v := endRelease_voice v v p s
    rw [if_pos rfl] at at_v
    refine ⟨?_, ?_, ?_, fun g => ?_, port.startOrder.trans (endRelease_order v p s), fun w ne => ?_,
      port.rest.trans (releaseOnly_endRelease v p s).rest, fun r reason loud => ?_, fun quiet => ?_⟩
    · rw [port.2.content, at_v]; rfl
    · rw [port.2.lastEnd, at_v]; rfl
    · rw [port.2.stream, at_v]; rfl
    · rw [port.mix, endRelease_ducks, decide_eq_false (not_not.mpr rfl), Bool.and_false]
    · exact .of_eq ((endRelease_voice v w p s).trans (if_neg ne)) port
    · rcases endRelease_cases v p s with ⟨r', reason', _, act⟩ | ⟨none_ | quiet, _⟩
      · obtain rfl : r' = r := Option.some.inj (reason'.symm.trans reason)
        have told : recorded (endedReport v p.claim r' true (now32 s)) s (endRelease v p s) := by
          rw [act]
          exact recorded_emit (silent_goIdle v _ s)
        exact (told.keeps (keepsLine_arbitrate _)).first
      · exact absurd (none_.symm.trans reason) nofun
      · exact absurd (quiet.symm.trans loud) nofun
    · rw [port.reports]
      rcases endRelease_cases v p s with ⟨r', reason', loud, _⟩ | ⟨_, act⟩
      · rcases quiet with none_ | quiet
        · exact absurd (none_.symm.trans reason') nofun
        · exact absurd (quiet.symm.trans loud) nofun
      · rw [act]; rfl
  · exact portBut_arbitrate s
  · have port := portOnly_arbitrate (handoverFadeEnd v s)
    have stands := fun c start => handoverFadeEnd_stands (c := c) hc fade due start
    have content : ∀ c, (landed = false ∧ c = .priming i ∨ landed = true ∧ i.start = .frame ∧ c = .armed i
        ∨ landed = true ∧ i.start = .immediate ∧ c = .sounding (i.begin true none)) →
        ((arbitrate (handoverFadeEnd v s)).voice v).content = c := by
      intro c start
      rw [port.2.content, stands c start, setContent_at, if_pos rfl]
    refine ⟨fun start => ?_, fun here start => ?_, fun start => ?_, fun r reason loud =>
      ((handoverFadeEnd_tells hc fade due reason loud).keeps (keepsLine_arbitrate _)).first⟩
    · cases landed with
      | false => exact content _ (.inl ⟨rfl, rfl⟩)
      | true => exact content _ (.inr (.inl ⟨rfl, start.resolve_left nofun, rfl⟩))
    · exact content _ (.inr (.inr ⟨here, start, rfl⟩))
    · obtain ⟨c, act⟩ : ∃ c, handoverFadeEnd v s = setContent v c (discardOutgoing v p i s) := by
        cases landed with
        | false => exact ⟨_, stands _ (.inl ⟨rfl, rfl⟩)⟩
        | true =>
          rcases start.resolve_left nofun with frame | immediate
          · exact ⟨_, stands _ (.inr (.inl ⟨rfl, frame, rfl⟩))⟩
          · exact ⟨_, stands _ (.inr (.inr ⟨rfl, immediate, rfl⟩))⟩
      have voice : ∀ w, (handoverFadeEnd v s).voice w =
          if w = v then { (s.voice v).discarded p i with content := c } else s.voice w := by
        intro w
        rw [act]
        unfold setContent
        rw [setVoice_at, discardOutgoing_voice, discardOutgoing_voice, if_pos rfl]
        split <;> rfl
      have at_v := voice v
      rw [if_pos rfl] at at_v
      have order : (handoverFadeEnd v s).startOrder = s.startOrder := by
        rw [act]
        exact discardOutgoing_order v p i s
      have rest : (handoverFadeEnd v s).rest = s.rest := by
        rw [act]
        exact ((releaseOnly_discardOutgoing v p i s).trans (releaseOnly_setVoice v _ _)).rest
      refine ⟨?_, ?_, ?_, ?_, port.startOrder.trans order, fun w ne => .of_eq ((voice w).trans (if_neg ne)) port,
        port.rest.trans rest⟩
      · rw [port.2.lastEnd, at_v]; rfl
      · rw [port.2.stream, at_v]; rfl
      · rw [port.2.head, at_v]; rfl
      · rw [port.2.claimNo, at_v]; rfl
  · rw [handoverFadeEnd_waits hc fade runs plays]
    exact portBut_arbitrate s

end Sys2Proof.Machine
end

section
/-! Requests that act on voices: the state they act on has lost the head of the intake queue, which no voice operation reads;
and what a result and the next heads leave alone (R43, R44). -/

namespace Sys2Proof.Machine

/-! ### What the operations of the voices do not read -/

/-- Changes to what no operation of the voices reads: the intake queue, the panel keys with their links, the event queue and the
mark that this sample's event has been taken. -/
structure Unread where
  requests : List Taken → List Taken := id
  keys : Vector Qualifier 8 → Vector Qualifier 8 := id
  links : Vector (Option (Fin 24 × Half)) 8 → Vector (Option (Fin 24 × Half)) 8 := id
  events : List Event → List Event := id
  taken : Bool → Bool := id

/-- The state with those changes. -/
def Unread.put (c : Unread) (s : State) : State :=
  { s with
    slate := { s.slate with queue := c.requests s.slate.queue }
    trigger := { s.trigger with
      keys := c.keys s.trigger.keys, holdLinks := c.links s.trigger.holdLinks
      queue := c.events s.trigger.queue, queueTaken := c.taken s.trigger.queueTaken } }

/-- The state with other requests in the intake queue. -/
def withQueue (q : List Taken) (s : State) : State := { s with slate := { s.slate with queue := q } }

/-- The operation neither reads nor changes those. -/
def Beside (f : State → State) : Prop := ∀ (c : Unread) (s : State), f (c.put s) = c.put (f s)

theorem Beside.queue {f : State → State} (h : Beside f) (q : List Taken) (s : State) : f (withQueue q s) = withQueue q (f s) :=
  h { requests := fun _ => q } s

theorem Beside.after {f g : State → State} (hf : Beside f) (hg : Beside g) : Beside fun s => f (g s) :=
  fun c s => by dsimp only; rw [hg, hf]

theorem Beside.foldl {α : Type} {f : State → α → State} (h : ∀ a, Beside fun s => f s a) (l : List α) :
    Beside fun s => l.foldl f s := by
  intro c
  induction l with
  | nil => exact fun _ => rfl
  | cons a l ih =>
    intro s
    have here := h a c s
    dsimp only at here ih ⊢
    rw [List.foldl_cons, List.foldl_cons, here, ih]

theorem Beside.ite {f g : State → State} {p : State → Prop} [∀ s, Decidable (p s)] (hp : ∀ (c : Unread) s, p (c.put s) ↔ p s)
    (hf : Beside f) (hg : Beside g) : Beside fun s => if p s then f s else g s := by
  intro c s
  dsimp only
  by_cases h : p s
  · rw [if_pos h, if_pos ((hp c s).mpr h), hf]
  · rw [if_neg h, if_neg fun h' => h ((hp c s).mp h'), hg]

theorem Beside.keep : Beside fun s => s := fun _ _ => rfl

theorem beside_placeFaultRecord : Beside placeFaultRecord := by
  intro c s
  have active : isActive (c.put s) = isActive s := rfl
  have port : (c.put s).port = s.port := rfl
  unfold placeFaultRecord
  simp only [active, port]
  split_ifs <;> rfl

theorem beside_capture (a : FaultSource) (k : FaultKind) (x d : Word) : Beside (capture a k x d) := by
  intro c s
  have fault : (c.put s).fault = s.fault := rfl
  unfold capture
  simp only [fault]
  cases s.fault.record with
  | none =>
    exact beside_placeFaultRecord c (setFlags flagFault { s with fault :=
      { s.fault with record := some { source := a, kind := k, address := x, detail := d } } })
  | some r =>
    dsimp only
    split_ifs
    · exact beside_placeFaultRecord c { s with fault := { record := some r, further := s.fault.further + 1 } }
    · rfl

theorem beside_emit (r : Report) : Beside (emit r) := by
  intro c s
  have active : isActive (c.put s) = isActive s := rfl
  have reports : (c.put s).reports = s.reports := rfl
  have room : freeRoom (c.put s) = freeRoom s := rfl
  have head : header (c.put s) = header s := rfl
  unfold emit
  simp only [active, reports, room, head]
  split_ifs
  · rfl
  · rfl
  · rfl
  · rfl
  · exact beside_capture .report .reportOverflow 0 (BitVec.ofNat 32 r.kind.code) c
      { s with reports := { s.reports with lost := saturate 255 (s.reports.lost + 1) } }
  · rfl
  · rfl

/-! ### Voices, duck groups and the start order -/

theorem beside_emitEnded (v : Fin 24) (c : Claim) (r : EndReason) (b : Bool) : Beside (emitEnded v c r b) :=
  fun c s => beside_emit _ c s

theorem beside_keyDucks (v : Fin 24) (role : DuckRole) : Beside (keyDucks v role) := by
  intro c s
  unfold keyDucks
  cases role <;> rfl

theorem beside_withdraw (v : Fin 24) : Beside (withdraw v) := by
  intro c s
  have voice : (c.put s).voice v = s.voice v := rfl
  unfold withdraw
  rw [voice]
  dsimp only
  cases (s.voice v).content with
  | handover p i l =>
    exact beside_keyDucks v p.sound.duck c (setVoice v { s.voice v with
      claimNo := (s.voice v).claimNo + 1, content := .releasing p, lastEnd := some (i.claim.number, false), head := [] } s)
  | _ => rfl

theorem beside_cancelFollower (v : Fin 24) (n : Half) (w : Fin 24) : Beside fun s => cancelFollower v n s w := by
  intro c s
  have voice : (c.put s).voice w = s.voice w := rfl
  dsimp only
  unfold cancelFollower
  rw [voice]
  cases (s.voice w).content.incoming with
  | none => rfl
  | some i =>
    dsimp only
    split_ifs
    · rw [beside_withdraw w c s]
      exact beside_emit _ c _
    · rfl

theorem beside_cancelFollowers (v : Fin 24) (n : Half) : Beside (cancelFollowers v n) :=
  .foldl (beside_cancelFollower v n) allVoices

theorem beside_releaseSounding (v : Fin 24) (p : Playing) (l : Nat) (r : EndReason) :
    Beside (releaseSounding v p l r) := by
  have order : Beside (leaveOrder v) := fun _ _ => rfl
  have followers := beside_cancelFollowers v p.claim.number
  intro c s
  unfold releaseSounding
  dsimp only
  split_ifs
  · have idle : Beside (goIdle v (p.claim.number, false)) := fun _ _ => rfl
    exact ((beside_emitEnded v p.claim r true).after (followers.after (idle.after order))) c s
  · have content : Beside (setContent v (.releasing { p with fade := .release p.fadeValue l 0, endReason := some r })) :=
      fun _ _ => rfl
    exact (followers.after (content.after order)) c s

theorem beside_kick (v : Fin 24) (g : Nat) (w : Fin 24) : Beside fun s => kick v g s w := by
  intro c s
  have voice : (c.put s).voice w = s.voice w := rfl
  dsimp only
  unfold kick
  rw [voice]
  split_ifs
  · rfl
  · cases (s.voice w).content with
    | sounding p =>
      dsimp only
      split_ifs
      · exact beside_releaseSounding w p _ .kicked c s
      · rfl
    | _ => rfl

theorem beside_kickOthers (v : Fin 24) (g : Nat) : Beside (kickOthers v g) := by
  intro c s
  unfold kickOthers
  split_ifs
  · rfl
  · exact Beside.foldl (beside_kick v g) allVoices c s

/-! ### Entries -/

theorem beside_emitLate (v : Fin 24) (x : Claim) (l : Lateness) (y : Word) : Beside (emitLate v x l y) := by
  intro c s
  obtain ⟨mark, samples⟩ := l
  unfold emitLate
  cases mark with
  | none =>
    cases samples with
    | none => rfl
    | some n => exact beside_emit _ c s
  | some m =>
    have first := beside_emit (lateReport v x x.req.tag (saturate 65535 (s.clock.frame - m).toNat) 0
      x.req.cue.sound.lateAllowance y) c s
    cases samples with
    | none => exact first
    | some n => exact (congrArg (emit _) first).trans (beside_emit _ c _)

theorem beside_testFollow (v : Fin 24) : Beside (testFollow v) := by
  intro c s
  have voice : (c.put s).voice v = s.voice v := rfl
  have due : ∀ p, followDue (c.put s) p = followDue s p := fun _ => rfl
  unfold testFollow
  rw [voice]
  cases (s.voice v).content with
  | sounding p =>
    dsimp only
    rw [due]
    split_ifs <;> rfl
  | _ => rfl

theorem beside_entryEffects (v : Fin 24) (p : Playing) (l : Lateness) : Beside (entryEffects v p l) := by
  intro c s
  unfold entryEffects
  have kicks := beside_kickOthers v p.sound.group c
    { setVoice v ((s.voice v).takeUpHead p) s with startOrder := s.startOrder ++ [v] }
  have keys := (congrArg (keyDucks v p.sound.duck) kicks).trans (beside_keyDucks v p.sound.duck c _)
  have fired := (congrArg (emit (firedReport v p.claim ((p.nextSample s).setWidth 32))) keys).trans (beside_emit _ c _)
  have late := (congrArg (emitLate v p.claim l ((p.nextSample s).setWidth 32)) fired).trans (beside_emitLate v _ l _ c _)
  exact (congrArg (testFollow v) late).trans (beside_testFollow v c _)

theorem beside_completeEntry (v : Fin 24) : Beside (completeEntry v) := by
  intro c s
  have voice : (c.put s).voice v = s.voice v := rfl
  unfold completeEntry
  rw [voice]
  cases (s.voice v).content with
  | sounding p =>
    dsimp only
    cases p.entry with
    | none => rfl
    | some l => exact beside_entryEffects v p l c s
  | _ => rfl

theorem beside_completeEntries (p : Content → Bool) : Beside (completeEntries p) :=
  .foldl (fun v => .ite (fun _ _ => Iff.rfl) (beside_completeEntry v) .keep) allVoices

/-! ### A request that has been answered -/

/-- The end of a command whose request has been answered: the result, the next heads, the arbiter's turn. -/
def answered (i : Nat) (r : ResultCode) (d : List Byte) (w : State) : State :=
  arbitrate (settleQueue (giveResult i r d w).slate.queue (giveResult i r d w))

section
variable {i : Nat} {r : ResultCode} {d : List Byte} {w : State}

theorem handOn_answered {α : Type} {pick : Request → Option α} {act : Taken → α → State → State} {s : State}
    {tk : Taken} {rest : List Taken} {q : Request} {a : α} (h : headRequest s = some (tk, rest, q)) (hp : pick q = some a)
    (ha : act tk a (popHead s) = giveResult i r d w) : handOn pick act s = answered i r d w := by
  rw [handOn_eq h hp, ha]
  rfl

theorem answered_frame (i : Nat) (r : ResultCode) (d : List Byte) (w : State) :
    { answered i r d w with port := w.port, voices := w.voices, slate := w.slate } = w := by
  have port := congrArg (fun x : State => { x with port := w.port, voices := w.voices, slate := w.slate })
    (portOnly_arbitrate (settleQueue (giveResult i r d w).slate.queue (giveResult i r d w))).1
  have queue := congrArg (fun x : State => { x with port := w.port, voices := w.voices, slate := w.slate })
    (settleQueue_eq (giveResult i r d w).slate.queue (giveResult i r d w))
  have given := congrArg (fun x : State => { x with port := w.port, voices := w.voices, slate := w.slate }) (giveResult_eq i r d w)
  exact port.trans (queue.trans given)

theorem answered_voices (i : Nat) (r : ResultCode) (d : List Byte) (w : State) : voicesAlike w (answered i r d w) :=
  (voicesAlike_of_voices ((settleQueue_voices _ _).trans (giveResult_voices i r d w))).trans (portOnly_arbitrate _).2

theorem answered_startOrder (i : Nat) (r : ResultCode) (d : List Byte) (w : State) :
    (answered i r d w).startOrder = w.startOrder := by
  have same := congrArg State.startOrder (answered_frame i r d w)
  exact same

theorem answered_schedule (i : Nat) (r : ResultCode) (d : List Byte) (w : State) :
    (answered i r d w).schedule = w.schedule := by
  have same := congrArg State.schedule (answered_frame i r d w)
  exact same

theorem answered_header (i : Nat) (r : ResultCode) (d : List Byte) (w : State) :
    (answered i r d w).slate.header = w.slate.header := by
  unfold answered
  rw [(portOnly_arbitrate _).slate, settleQueue_eq]
  dsimp only
  rw [giveResult_eq]

theorem answered_rest (i : Nat) (r : ResultCode) (d : List Byte) (w : State) : (answered i r d w).rest = w.rest := by
  have frame := answered_frame i r d w
  have head := answered_header i r d w
  have same := congrArg (fun x : State => { x.rest with header := w.slate.header }) frame
  have lifted : (answered i r d w).rest = { (answered i r d w).rest with header := w.slate.header } := by
    unfold State.rest
    rw [head]
  exact lifted.trans same

theorem answered_keepsLine (i : Nat) (r : ResultCode) (d : List Byte) (w : State) : keepsLine w (answered i r d w) :=
  (keepsLine_giveResult i r d w).trans (keepsLine_settled _)

theorem answered_result {s : State} (slots : slotAt i w = slotAt i s) (h : awaiting i s) :
    resultOf i (answered i r d w) = some (r, d) := by
  unfold answered
  rw [(portOnly_arbitrate _).resultOf]
  exact settleQueue_resultOf _ _ _ _ (giveResult_resultOf _ _ (awaiting_of_slotAt slots h))

end

end Sys2Proof.Machine
end

section
/-! RELEASE, CUT and CUT LAST (R92 to R95). -/

namespace Sys2Proof.Machine

/-! ### A release of one voice -/

theorem afterRelease_claimNo (x : Voice) (r : EndReason) (f : Playing → Nat) (b : Bool) :
    (x.afterRelease r f b).claimNo = x.numberAfterWithdraw := by
  have shortened : ∀ (y : Voice) (p : Playing) (l : Nat), (y.shortened p l).claimNo = y.claimNo := by
    intro y p l
    unfold Voice.shortened
    split_ifs <;> rfl
  unfold Voice.afterRelease Voice.numberAfterWithdraw
  cases hc : x.content with
  | idle => rfl
  | priming i => rw [withdrawn_claimNo]; unfold Voice.numberAfterWithdraw; rw [hc]
  | armed i => rw [withdrawn_claimNo]; unfold Voice.numberAfterWithdraw; rw [hc]
  | sounding p =>
    dsimp only
    unfold Voice.stopped
    split_ifs <;> rfl
  | releasing p =>
    dsimp only
    split_ifs
    · exact shortened x p (f p)
    · rfl
  | handover p i l =>
    have withdrawn : x.withdrawn.claimNo = x.claimNo + 1 := by
      rw [withdrawn_claimNo]
      unfold Voice.numberAfterWithdraw
      rw [hc]
    dsimp only
    split_ifs
    · rw [shortened, withdrawn]
    · exact withdrawn

/-- The claim number through an entry that is completed first. -/
theorem completeEntry_number (v : Fin 24) (s : State) :
    ((completeEntry v s).voice v).numberAfterWithdraw = (s.voice v).numberAfterWithdraw := by
  have none_ : ∀ (x : Voice), (∃ q, x.content = .sounding q) → x.numberAfterWithdraw = x.claimNo := by
    rintro x ⟨q, hq⟩
    unfold Voice.numberAfterWithdraw
    rw [hq]
  by_cases entry : ∃ p l, (s.voice v).content = .sounding p ∧ p.entry = some l
  · obtain ⟨p, l, hp, hl⟩ := entry
    obtain ⟨⟨q, hq, _⟩, ⟨_, _, number, _⟩, _⟩ := entryEffects_enters (s := s) (v := v) hl
    rw [completeEntry_enters hp hl, none_ _ ⟨q, hq⟩, none_ _ ⟨p, hp⟩, number]
  · rw [completeEntry_of_entered fun q hq => ?_]
    cases hl : q.entry with
    | none => rfl
    | some l => exact absurd ⟨q, l, hq, hl⟩ entry

theorem silent_withQueue (q : List Taken) (s : State) : Silent s (withQueue q s) := silent_of_record rfl rfl rfl rfl

/-- The ENDED of a claim withdrawn before it sounded is the first report of a release (R91). -/
theorem releaseNow_tells {v : Fin 24} {i : Incoming} {s : State} (hi : (s.voice v).content.incoming = some i) (r : EndReason)
    (f : Playing → Nat) (b : Bool) : recorded (endedReport v i.claim r false (now32 s)) s (releaseNow v r f b s) := by
  have told : recorded (endedReport v i.claim r false (now32 s)) s (withdrawEnded v r s) := by
    have clock : (withdraw v s).clock = s.clock := by rw [withdraw_eq]
    unfold withdrawEnded emitEnded now32
    rw [hi, clock]
    exact recorded_emit (silent_withdraw v s)
  unfold releaseNow
  cases hc : (s.voice v).content with
  | priming j => exact told
  | armed j => exact told
  | handover p j l =>
    dsimp only
    split_ifs
    · exact told.keeps (acts_shortenRelease (new := fun _ => True) v p (f p) _).keepsLine
    · exact told
  | _ => rw [hc] at hi; cases hi

section
variable {v : Fin 24} {r : EndReason} {f : Playing → Nat} {b : Bool} {s u : State} {k : Nat} {c : ResultCode} {d : List Byte}

/-- A voice under a request that releases it: the entry still to come first, then the release, then the result. -/
theorem releaseVoice_popHead (v : Fin 24) (r : EndReason) (f : Playing → Nat) (b : Bool) (s : State) :
    releaseVoice v r f b (popHead s) = releaseNow v r f b (withQueue s.slate.queue.tail (completeEntry v s)) :=
  congrArg (releaseNow v r f b) ((beside_completeEntry v).queue s.slate.queue.tail s)

theorem released_others (hu : u = completeEntry v s) {p : Playing} (hp : (u.voice v).content = .sounding p) :
    othersAlike v p.claim.number u (answered k c d (releaseVoice v r f b (popHead s))) := by
  intro w ne stays
  have alike := answered_voices k c d (releaseVoice v r f b (popHead s)) w
  have same : (releaseVoice v r f b (popHead s)).voice w = u.voice w := by
    rw [releaseVoice_popHead, releaseNow_voice, if_neg ne, ← hu]
    unfold Voice.besideRelease
    rw [show (withQueue s.slate.queue.tail u).voice v = u.voice v from rfl, hp]
    exact cancelled_of_other stays
  rw [same] at alike
  exact alike

theorem released_alike (hu : u = completeEntry v s) (silent : (u.voice v).content.isSounding = false) {w : Fin 24} (ne : w ≠ v) :
    voiceAlike w u (answered k c d (releaseVoice v r f b (popHead s))) := by
  have alike := answered_voices k c d (releaseVoice v r f b (popHead s)) w
  have same : (releaseVoice v r f b (popHead s)).voice w = u.voice w := by
    rw [releaseVoice_popHead, releaseNow_voice, if_neg ne, ← hu]
    unfold Voice.besideRelease
    rw [show (withQueue s.slate.queue.tail u).voice v = u.voice v from rfl]
    cases hc : (u.voice v).content with
    | sounding p => rw [hc] at silent; cases silent
    | _ => rfl
  rw [same] at alike
  exact alike

theorem released_content (hu : u = completeEntry v s) :
    ((answered k c d (releaseVoice v r f b (popHead s))).voice v).content = (u.voice v).content.afterRelease r f b := by
  rw [(answered_voices k c d _).content, releaseVoice_popHead, releaseNow_self, ← hu]
  rfl

theorem released_startOrder (hu : u = completeEntry v s) : (answered k c d (releaseVoice v r f b (popHead s))).startOrder =
    if (u.voice v).content.isSounding then u.startOrder.erase v else u.startOrder := by
  rw [answered_startOrder, releaseVoice_popHead, releaseNow_startOrder, ← hu]
  rfl

theorem released_claimNo :
    ((answered k c d (releaseVoice v r f b (popHead s))).voice v).claimNo = (s.voice v).numberAfterWithdraw := by
  rw [(answered_voices k c d _).claimNo, releaseVoice_popHead, releaseNow_voice, if_pos rfl, afterRelease_claimNo,
    ← completeEntry_number v s]
  rfl

theorem released_rest : (answered k c d (releaseVoice v r f b (popHead s))).rest = s.rest :=
  (answered_rest k c d _).trans ((rest_of_quiet (quiet_releaseVoice v r f b (popHead s))).trans rfl)

theorem releaseVoice_slate (v : Fin 24) (r : EndReason) (f : Playing → Nat) (b : Bool) (s : State) :
    (releaseVoice v r f b s).slate = s.slate := by
  unfold releaseVoice
  rw [(releaseOnly_releaseNow v r f b _).slate, completeEntry_slate]

theorem released_result (h : awaiting k s) :
    resultOf k (answered k c d (releaseVoice v r f b (popHead s))) = some (c, d) := by
  refine answered_result (s := s) ?_ h
  unfold slotAt
  rw [releaseVoice_slate]
  rfl

/-- The ENDED of the withdrawn claim stands in the line when the result is given. -/
theorem released_tells {i : Incoming} (hi : (s.voice v).content.incoming = some i) :
    recorded (endedReport v i.claim r false (now32 s)) s (releaseVoice v r f b (popHead s)) := by
  have entered : completeEntry v s = s := completeEntry_of_entered fun q hq => by rw [hq] at hi; cases hi
  rw [releaseVoice_popHead, entered]
  intro room
  have later := releaseNow_tells (s := withQueue s.slate.queue.tail s) hi r f b
  exact later ((silent_withQueue _ s).hasRoom room)

end

/-- The first report of a release, where a claim is withdrawn before it sounded. -/
theorem endedUnsounded_of {v : Fin 24} {code : Byte} {x : Report} {s : State} (h : endedUnsounded code s v = some x) {r : EndReason}
    (hr : toBytes 1 r.code = [code]) :
    ∃ i, (s.voice v).content.incoming = some i ∧ x = endedReport v i.claim r false (now32 s) := by
  obtain ⟨i, hi, rfl⟩ := Option.map_eq_some_iff.mp h
  refine ⟨i, hi, ?_⟩
  unfold endedReport
  rw [hr]
  exact congrArg (fun d => aboutClaim .ended v i.claim d s) (List.append_assoc (toBytes 2 i.claim.number.toNat) [code] [0]).symm

/-! ### The requests -/

section
variable {t : Taken} {r : EndReason} {f : Playing → Nat} {v : Fin 24} {s : State}

theorem releaseRequest_idle (h : (s.voice v).content = .idle) :
    releaseRequest t r f v s = giveResult t.slot .badState (voiceDetail v s) s := by
  unfold releaseRequest
  exact if_pos (congrArg Content.isIdle h)

theorem releaseRequest_acts (h : (s.voice v).content ≠ .idle) :
    releaseRequest t r f v s = giveResult t.slot .ok (releaseDetail v s) (releaseVoice v r f true s) := by
  unfold releaseRequest
  refine if_neg fun idle => h ?_
  cases hc : (s.voice v).content with
  | idle => rfl
  | _ => rw [hc] at idle; cases idle

end

/-- Settles O48. -/
theorem releaseActs : Obligations.ReleaseActs := by
  intro s tk rest n useFadeOut l h hw
  refine ⟨fun hn => ⟨_, rfl, handOn_gives (pick := Request.asRelease) (u := popHead s) h rfl hw (withVoice_badArg tk hn _ _) rfl⟩,
    ?_⟩
  rintro v d rfl rfl
  refine ⟨fun idle => ⟨_, rfl, handOn_gives (pick := Request.asRelease) (u := popHead s) h rfl hw
    ((withVoice_of_val tk v _ _).trans (releaseRequest_idle (s := popHead s) idle)) rfl⟩, ?_⟩
  rintro busy u hu
  have act := handOn_answered (pick := Request.asRelease) (act := requestRelease) h rfl
    ((withVoice_of_val tk v _ _).trans (releaseRequest_acts (s := popHead s) busy))
  refine ⟨_, congrArg Host.Outcome.next act, released_result hw, released_content hu, released_startOrder hu,
    fun p hp => released_others hu hp, fun silent w ne => released_alike hu silent ne, released_claimNo, fun x hx => ?_,
    released_rest⟩
  obtain ⟨i, hi, rfl⟩ := endedUnsounded_of hx (r := .released) rfl
  have told := released_tells hi (r := .released) (f := fun p => if useFadeOut then p.sound.fadeOut else l) (b := true)
  have slate : (releaseVoice v .released (fun p => if useFadeOut then p.sound.fadeOut else l) true (popHead s)).slate =
      (popHead s).slate := releaseVoice_slate v _ _ _ _
  refine ⟨(told.keeps (answered_keepsLine _ _ _ _)).first, told.beforeResult ?_ ?_ hw (keepsLine_settled _)⟩
  · unfold slotAt
    rw [slate]
    rfl
  · rw [slate]
    rfl

/-- Settles O49. -/
theorem cutActs : Obligations.CutActs := by
  intro s tk rest hw
  refine ⟨fun n h hn => ⟨_, rfl, handOn_gives (pick := Request.asCut) (u := popHead s) h rfl hw (withVoice_badArg tk hn _ _) rfl⟩,
    fun v h idle => ⟨_, rfl, handOn_gives (pick := Request.asCut) (u := popHead s) h rfl hw
      ((withVoice_of_val tk v _ _).trans (releaseRequest_idle (s := popHead s) idle)) rfl⟩, ?_, fun h none_ => ?_⟩
  · intro v c due u hu
    have act : exec c s = .next (answered tk.slot .ok (releaseDetail v s) (cutVoice v (popHead s))) := by
      rcases due with ⟨rfl, h, busy⟩ | ⟨rfl, h, last⟩
      · exact congrArg Host.Outcome.next (handOn_answered (pick := Request.asCut) h rfl
          ((withVoice_of_val tk v _ _).trans (releaseRequest_acts (s := popHead s) busy)))
      · refine congrArg Host.Outcome.next (handOn_answered (pick := Request.asCutLast) (act := requestCutLast) (a := ()) h rfl ?_)
        unfold requestCutLast
        rw [show (popHead s).startOrder.getLast? = some v from last]
        rfl
    have content := released_content (r := .cut) (f := fun _ => cutLength) (b := true) (k := tk.slot) (c := .ok)
      (d := releaseDetail v s) hu
    refine ⟨_, act, released_result hw, content, ?_, released_startOrder hu, fun p hp => released_others hu hp,
      fun silent w ne => released_alike hu silent ne, released_claimNo, fun x hx => ?_, released_rest⟩
    · unfold cutVoice
      rw [content]
      exact silentWithin_afterCut _
    · obtain ⟨i, hi, rfl⟩ := endedUnsounded_of hx (r := .cut) rfl
      exact ((released_tells hi).keeps (answered_keepsLine _ _ _ _)).first
  · refine ⟨[0xFF] ++ toBytes 3 (Config.noVoiceDetail s.free).toNat, rfl, _, rfl,
      handOn_gives (pick := Request.asCutLast) (act := requestCutLast) (a := ())
      (u := { popHead s with free := s.free + 1 }) h rfl hw ?_ rfl⟩
    unfold requestCutLast
    rw [show (popHead s).startOrder = [] from none_]
    rfl

end Sys2Proof.Machine
end

section
/-! UNLOOP (R96, R144). The statement says that no REFILL job of the voice is left at the port but the voided one in flight. It
asks nothing of the class queues, and a REFILL job that stands in the queue of another class is not removed. -/

namespace Sys2Proof.Machine

/-- A REFILL job of voice 0. -/
def refillOfZero : Job := readJob (.refill 0 0 0 1 false) 0 0

/-- A clip of no frames. -/
def emptyClip : SoundCue :=
  { clip := 0, format := .m16, length := 0, loop := none, level := 0, fadeIn := 0, fadeOut := 0, priority := 0, group := 0
    duck := .none, buses := 0, retrigger := .layer, armOnly := false, condition := none, lateAllowance := 0
    follow := Selector.null, tally := none }

/-- The release of that clip, fired from the slate. -/
def emptyRelease : Playing :=
  { claim :=
      { req :=
          { cue := { sheet := 1, cue := 0, entry := ⟨1, 0, 0⟩, sound := emptyClip, level := 0, offset := 0, hops := 0 }
            source := .slate, origin := 0, tag := 0, start := .immediate, lateMark := none, leader := none }
        number := 0, time := 0, obtained := .idle }
    position := 0, loopActive := false, fade := .release 0 96 0, endReason := none, followPlaced := false, underrun := false
    fromNext := false, entry := none, quiet := false }

/-- UNLOOP of voice 0, taken as slot 0. -/
def unloopOfZero : Taken := { slot := 0, bytes := [1, 0, 9, 0, 0, 0, 0, 0, 0] }

/-- The part RUNNING, voice 0 RELEASING, UNLOOP of it at the head of the intake queue, its refill in flight, and another REFILL
job in the queue of the HOUSEKEEPING jobs. -/
def strayRefill : State :=
  { State.reset with
    regs := { Registers.reset with run := true, part := .running }
    slate := { SlateUnit.reset with
      queue := [unloopOfZero], held := [{ taken := unloopOfZero, written := false, result := none, detail := [] }] }
    voices := State.reset.voices.set 0 { Voice.reset with content := .releasing emptyRelease }
    port := { Port.reset with inFlight := some refillOfZero, house := [refillOfZero] } }

/-- Refutes O50: in the state above the REFILL job in the HOUSEKEEPING queue is there after UNLOOP as before. -/
theorem not_unloopClearsLoop : ¬ Obligations.UnloopClearsLoop := by
  intro h
  have asked : headRequest strayRefill = some (unloopOfZero, [], .unloop 0) := by decide
  have waits : awaiting 0 strayRefill := ⟨_, rfl, rfl⟩
  have releasing : ((completeEntry 0 strayRefill).voice 0).content = .releasing emptyRelease := rfl
  obtain ⟨t, p', step, _, _, _, _, _, _, _, _, _, _, _, tested⟩ :=
    ((h strayRefill unloopOfZero [] 0 asked waits).2 0 _ _ rfl rfl rfl).1 emptyRelease .releasing (.inr rfl) releasing
  have stays : refillOfZero ∈ t.port.house := by
    obtain rfl := Host.Outcome.next.inj step
    decide
  obtain ⟨_, none_⟩ := tested true ⟨fun _ => ⟨refillOfZero, 0, 0, 1, false, rfl, rfl⟩, fun _ => rfl⟩
  obtain ⟨j, m, first, frames, voided, _, _, stray⟩ :=
    none_ (.inl rfl) refillOfZero 0 0 1 false rfl (.inr (.inr (.inr (.inl stays))))
  have kind : refillOfZero.kind = .refill 0 m first frames true := congrArg Job.kind stray
  cases kind

end Sys2Proof.Machine
end

section
/-! RELEASE GROUP (R97), and what an event that releases several voices reports and leaves alone. -/

namespace Sys2Proof.Machine

/-! ### Claim numbers through releases (R78, R91) -/

theorem numberAfterWithdraw_of_none {x : Voice} (h : x.content.incoming = none) : x.numberAfterWithdraw = x.claimNo := by
  unfold Voice.numberAfterWithdraw
  cases hc : x.content with
  | handover p i l => rw [hc] at h; cases h
  | _ => rfl

/-- A voice that has lost its unsounded claim has no other to lose. -/
theorem withdrawn_number (x : Voice) : x.withdrawn.numberAfterWithdraw = x.numberAfterWithdraw := by
  rw [numberAfterWithdraw_of_none, withdrawn_claimNo]
  rw [withdrawn_content]
  exact afterWithdraw_incoming _

theorem cancelled_number (v : Fin 24) (n : Half) (x : Voice) : (x.cancelled v n).numberAfterWithdraw = x.numberAfterWithdraw := by
  cases hi : x.content.incoming with
  | none => rw [cancelled_of_none hi]
  | some i =>
    cases follows : i.follows v n with
    | true => rw [cancelled_of_follows hi follows, withdrawn_number]
    | false =>
      rw [cancelled_of_other]
      intro j hj
      rw [hi] at hj
      exact Option.some.inj hj ▸ follows

/-- A release of one voice leaves the number that each voice has when its unsounded claim is gone. -/
theorem releaseNow_number (v w : Fin 24) (r : EndReason) (f : Playing → Nat) (b : Bool) (s : State) :
    ((releaseNow v r f b s).voice w).numberAfterWithdraw = (s.voice w).numberAfterWithdraw := by
  by_cases e : w = v
  · subst e
    have gone : ((releaseNow w r f b s).voice w).content.incoming = none := by
      rw [releaseNow_self]
      exact afterRelease_incoming _ r f b
    rw [numberAfterWithdraw_of_none gone, releaseNow_voice, if_pos rfl, afterRelease_claimNo]
  · rw [releaseNow_voice, if_neg e]
    unfold Voice.besideRelease
    cases (s.voice v).content with
    | sounding p => exact cancelled_number v p.claim.number _
    | _ => rfl

theorem foldl_releaseNow_number (w : Fin 24) (r : EndReason) (f : Playing → Nat) (b : Bool) (l : List (Fin 24)) :
    ∀ s : State, ((l.foldl (fun t v => releaseNow v r f b t) s).voice w).numberAfterWithdraw = (s.voice w).numberAfterWithdraw := by
  induction l with
  | nil => exact fun _ => rfl
  | cons v l ih => exact fun s => (ih _).trans (releaseNow_number v w r f b s)

theorem releaseAllNow_number (w : Fin 24) (p : Content → Bool) (r : EndReason) (f : Playing → Nat) (b : Bool) (s : State) :
    ((releaseAllNow p r f b s).voice w).numberAfterWithdraw = (s.voice w).numberAfterWithdraw := by
  unfold releaseAllNow
  exact (foldl_releaseNow_number w r f b _ _).trans (foldl_releaseNow_number w r f b _ _)

/-- The claim number of a voice that the event releases. -/
theorem releaseAllNow_claimNo {w : Fin 24} {p : Content → Bool} {s : State} (h : p (s.voice w).content = true) (r : EndReason)
    (f : Playing → Nat) : ((releaseAllNow p r f false s).voice w).claimNo = (s.voice w).numberAfterWithdraw := by
  have gone : ((releaseAllNow p r f false s).voice w).content.incoming = none := by
    rw [(releaseAllNow_content p r f false s nofun w).1 h]
    exact afterRelease_incoming _ r f false
  rw [← numberAfterWithdraw_of_none gone, releaseAllNow_number]

/-- A voice that the event does not release and that has no unsounded claim. -/
theorem releaseAllNow_stays {w : Fin 24} {p : Content → Bool} {s : State} (h : p (s.voice w).content = false)
    (none_ : (s.voice w).content.incoming = none) (r : EndReason) (f : Playing → Nat) :
    ((releaseAllNow p r f false s).voice w).content = (s.voice w).content := by
  rcases (releaseAllNow_content p r f false s nofun w).2 h with same | lost
  · exact same
  · rw [lost, afterWithdraw_of_none none_]

/-! ### The reports of the withdrawn claims (R91, R100) -/

/-- The withdrawal of one unsounded claim, its cue not shortened. -/
theorem releaseNow_withdraws {v : Fin 24} {i : Incoming} {s : State} (hi : (s.voice v).content.incoming = some i) (r : EndReason)
    (f : Playing → Nat) : releaseNow v r f false s = emit (endedReport v i.claim r false (now32 s)) (withdraw v s) := by
  have act : releaseNow v r f false s = withdrawEnded v r s := by
    unfold releaseNow
    cases hc : (s.voice v).content with
    | priming j => rfl
    | armed j => rfl
    | handover p j l => rfl
    | _ => rw [hc] at hi; cases hi
  have clock : (withdraw v s).clock = s.clock := by rw [withdraw_eq]
  rw [act]
  unfold withdrawEnded emitEnded now32
  rw [hi, clock]

theorem endedUnsounded_eq {v : Fin 24} {code : Byte} {i : Incoming} {r : EndReason} {s : State}
    (hi : (s.voice v).content.incoming = some i) (hr : toBytes 1 r.code = [code]) :
    endedUnsounded code s v = some (endedReport v i.claim r false (now32 s)) := by
  have body : endedUnsounded code s v =
      some (aboutClaim .ended v i.claim (toBytes 2 i.claim.number.toNat ++ [code, 0]) s) := by
    unfold endedUnsounded
    rw [hi]
    rfl
  obtain ⟨j, hj, e⟩ := endedUnsounded_of body hr
  cases hi.symm.trans hj
  rw [body, e]

/-- The claims of the voices in `l` are withdrawn one after another, each with its ENDED. -/
theorem told_foldl_withdrawn {code : Byte} {r : EndReason} (hr : toBytes 1 r.code = [code]) (f : Playing → Nat)
    (l : List (Fin 24)) (hl : l.Nodup) : ∀ s : State, (∀ v ∈ l, (s.voice v).content.incoming ≠ none) →
      Told (l.filterMap (endedUnsounded code s)) s (l.foldl (fun t v => releaseNow v r f false t) s) := by
  induction l with
  | nil => exact fun s _ => .of_silent (.refl s)
  | cons v l ih =>
    intro s h
    obtain ⟨fresh, hl⟩ := List.nodup_cons.mp hl
    obtain ⟨i, hi⟩ := Option.ne_none_iff_exists'.mp (h v List.mem_cons_self)
    have act := releaseNow_withdraws hi r f
    have first : Told [endedReport v i.claim r false (now32 s)] s (releaseNow v r f false s) := by
      rw [act]
      exact (Told.of_silent (silent_withdraw v s)).trans (.emit _ rfl)
    have voice : ∀ w ∈ l, (releaseNow v r f false s).voice w = s.voice w := by
      intro w hw
      have ne : w ≠ v := fun e => fresh (e ▸ hw)
      rw [act, emit_voice, withdraw_voice, if_neg ne]
    have clock : (releaseNow v r f false s).clock = s.clock := (releaseOnly_releaseNow v r f false s).clock
    have rest := ih hl (releaseNow v r f false s) fun w hw => by
      rw [voice w hw]
      exact h w (List.mem_cons_of_mem _ hw)
    have same : l.filterMap (endedUnsounded code (releaseNow v r f false s)) = l.filterMap (endedUnsounded code s) := by
      refine List.filterMap_congr fun w hw => ?_
      unfold endedUnsounded aboutClaim
      rw [voice w hw, clock]
    rw [same] at rest
    rw [List.filterMap_cons, endedUnsounded_eq hi hr]
    exact first.trans rest

/-- Of all voices those that meet `p` and hold an unsounded claim. -/
theorem filterMap_unsounded (p : Content → Bool) (code : Byte) (s : State) :
    ((allVoices.filter fun v => p (s.voice v).content).filter fun v => (s.voice v).content.incoming.isSome).filterMap
        (endedUnsounded code s) =
      (List.finRange 24).filterMap fun v => if p (s.voice v).content then endedUnsounded code s v else none := by
  rw [List.filterMap_filter, List.filterMap_filter]
  refine List.filterMap_congr fun v _ => ?_
  split
  · split
    · rfl
    · next none_ =>
      have lost : (s.voice v).content.incoming = none := by simpa using none_
      unfold endedUnsounded
      rw [lost]
      rfl
  · rfl

/-- The ENDED reports of the withdrawn claims are the first of the event. -/
theorem told_releaseAllNow {code : Byte} {r : EndReason} (hr : toBytes 1 r.code = [code]) (f : Playing → Nat)
    (p : Content → Bool) (s : State) : ∃ m,
      Told ((List.finRange 24).filterMap fun v => if p (s.voice v).content then endedUnsounded code s v else none) s m
      ∧ keepsLine m (releaseAllNow p r f false s) := by
  have told := told_foldl_withdrawn hr f
    ((allVoices.filter fun v => p (s.voice v).content).filter fun v => (s.voice v).content.incoming.isSome)
    (((List.nodup_finRange 24).filter _).filter _) s fun v hv none_ => by
      have some_ := (List.mem_filter.mp hv).2
      rw [none_] at some_
      cases some_
  rw [filterMap_unsounded] at told
  unfold releaseAllNow
  exact ⟨_, told, (acts_foldl (new := fun _ => True) _ (fun _ _ => acts_releaseNow _ _ _ _ _) _ _).keepsLine⟩

/-! ### RELEASE GROUP -/

theorem groupValid_iff (g : Nat) : groupValid g = true ↔ 1 ≤ g ∧ g ≤ 15 := by
  unfold groupValid
  rw [Bool.and_eq_true, decide_eq_true_iff, decide_eq_true_iff]

theorem completeEntries_entered {p : Content → Bool} {s : State}
    (h : ∀ v q, (s.voice v).content = .sounding q → q.entry = none) : completeEntries p s = s := by
  have stays : ∀ l : List (Fin 24), l.foldl (fun t v => if p (t.voice v).content then completeEntry v t else t) s = s := by
    intro l
    induction l with
    | nil => rfl
    | cons v l ih =>
      rw [List.foldl_cons, completeEntry_of_entered (h v), ite_self]
      exact ih
  exact stays allVoices

theorem foldl_slate_completeEntries (p : Content → Bool) (s : State) : (completeEntries p s).slate = s.slate := by
  refine foldl_slate _ (fun t v => ?_) allVoices s
  split
  · exact completeEntry_slate v t
  · rfl

theorem releaseAllNow_slate (p : Content → Bool) (r : EndReason) (f : Playing → Nat) (b : Bool) (s : State) :
    (releaseAllNow p r f b s).slate = s.slate := (releaseOnly_releaseAllNow p r f b s).slate

/-- Settles O51. -/
theorem releaseGroupActs : Obligations.ReleaseGroupActs := by
  intro s tk rest g h hw
  refine ⟨fun low high u hu => ?_, fun out => ⟨_, rfl, handOn_gives (pick := Request.asReleaseGroup) (act := requestReleaseGroup)
    (u := popHead s) h rfl hw (if_neg fun valid => ?_) rfl⟩⟩
  · have entries : completeEntries (Content.inGroup g) (popHead s) = withQueue s.slate.queue.tail u := by
      rw [hu]
      exact (beside_completeEntries (Content.inGroup g)).queue s.slate.queue.tail s
    obtain ⟨w, hw'⟩ : ∃ w, w = releaseAllNow (Content.inGroup g) .released (fun p => p.sound.fadeOut) false
      (withQueue s.slate.queue.tail u) := ⟨_, rfl⟩
    have act : requestReleaseGroup tk g (popHead s) = giveResult tk.slot .ok
        (toBytes 1 ((List.finRange 24).filter fun v => (u.voice v).content.inGroup g).length) w := by
      unfold requestReleaseGroup releaseGroup releaseAll
      rw [if_pos ((groupValid_iff g).mpr ⟨low, high⟩), entries, ← hw']
      rfl
    have slate : w.slate = (withQueue s.slate.queue.tail u).slate := by rw [hw', releaseAllNow_slate]
    have uslate : u.slate = s.slate := by rw [hu, foldl_slate_completeEntries]
    have done := handOn_answered (pick := Request.asReleaseGroup) h rfl act
    have voices := answered_voices tk.slot .ok
      (toBytes 1 ((List.finRange 24).filter fun v => (u.voice v).content.inGroup g).length) w
    refine ⟨_, congrArg Host.Outcome.next done, answered_result (s := s) ?_ hw, fun entered => ?_, fun v chosen => ⟨?_, ?_⟩, ?_,
      fun v other none_ => ?_, ?_⟩
    · have before : u.slate.held = s.slate.held := by rw [uslate]
      have held : w.slate.held = s.slate.held := (congrArg SlateUnit.held slate).trans before
      unfold slotAt
      rw [held]
    · rw [hu]
      exact completeEntries_entered entered
    · rw [voices.content, hw']
      exact (releaseAllNow_content _ _ _ false (withQueue s.slate.queue.tail u) nofun v).1 chosen
    · rw [voices.claimNo, hw']
      exact releaseAllNow_claimNo (s := withQueue s.slate.queue.tail u) chosen _ _
    · obtain ⟨m, told, keeps⟩ := told_releaseAllNow (r := .released) (code := 1) rfl (fun p => p.sound.fadeOut)
        (Content.inGroup g) (withQueue s.slate.queue.tail u)
      refine ((Told.of_silent (silent_withQueue _ u)).trans told).inOrder (keeps.trans ?_)
      rw [← hw']
      exact answered_keepsLine _ _ _ w
    · rw [voices.content, hw']
      exact releaseAllNow_stays (s := withQueue s.slate.queue.tail u) other none_ _ _
    · have quiet : w.rest = (withQueue s.slate.queue.tail u).rest := by
        rw [hw']
        exact rest_of_quiet (quiet_releaseAllNow _ _ _ _ _)
      have before : u.rest = s.rest := by
        rw [hu]
        exact rest_of_quiet (quiet_completeEntries _ s)
      exact (answered_rest _ _ _ w).trans (quiet.trans before)
  · have bounds := (groupValid_iff g).mp valid
    omega

end Sys2Proof.Machine
end

section
/-! CANCEL (R53, R91, R117): the schedule links one after another. -/

namespace Sys2Proof.Machine

/-! ### One link -/

/-- The link of voice `v` carries the tag, and the withdrawal it sends acts. -/
def linkHit (tag : Half) (s : State) (v : Fin 24) : Bool :=
  match s.schedule.links[v] with
  | some l => l.tag == tag && linkActs s v l
  | none => false

/-- The CANCELLED that the link of voice `v` gives. -/
def linkTold (tag : Half) (s : State) (v : Fin 24) : Option Report :=
  if linkHit tag s v then
    match (s.voice v).content.incoming, s.schedule.links[v] with
    | some i, some l => some (cancelledVoice v i.claim l (now32 s))
    | _, _ => none
  else none

/-- The links of the voices in `l` have been handled from `s` to `t`. -/
structure Unlinked (tag : Half) (l : List (Fin 24)) (s t : State) : Prop where
  voice : ∀ w, t.voice w = if w ∈ l ∧ linkHit tag s w = true then (s.voice w).withdrawn else s.voice w
  links : ∀ w : Fin 24, t.schedule.links[w] =
    if w ∈ l ∧ (s.schedule.links[w]).any (fun x => x.tag == tag) = true then none else s.schedule.links[w]
  quiet : t.quiet = s.quiet
  slate : t.slate = s.slate
  startOrder : t.startOrder = s.startOrder
  told : Told (l.filterMap (linkTold tag s)) s t

theorem clearLink_links (v w : Fin 24) (s : State) :
    (clearLink v s).schedule.links[w] = if w = v then none else s.schedule.links[w] := by
  unfold clearLink
  dsimp only
  rw [Fin.getElem_fin, Vector.getElem_set]
  by_cases e : w = v
  · rw [if_pos e, if_pos (congrArg Fin.val e.symm)]
  · rw [if_neg e, if_neg fun h => e (Fin.ext h.symm)]
    rfl

theorem linkHit_none {tag : Half} {s : State} {v : Fin 24} (h : s.schedule.links[v] = none) : linkHit tag s v = false := by
  unfold linkHit
  rw [h]

theorem linkHit_some {tag : Half} {s : State} {v : Fin 24} {l : Link} (h : s.schedule.links[v] = some l) :
    linkHit tag s v = (l.tag == tag && linkActs s v l) := by
  unfold linkHit
  rw [h]

theorem linkTold_of_idle {tag : Half} {s : State} {v : Fin 24} (h : linkHit tag s v = false) : linkTold tag s v = none := by
  unfold linkTold
  rw [h]
  rfl

/-- A link of another tag, or none. -/
theorem unlinked_stays {tag : Half} {s : State} {v : Fin 24}
    (h : (s.schedule.links[v]).any (fun x => x.tag == tag) = false) : Unlinked tag [v] s s := by
  have idle : linkHit tag s v = false := by
    cases hl : s.schedule.links[v] with
    | none => exact linkHit_none hl
    | some l =>
      rw [hl] at h
      rw [linkHit_some hl, show (l.tag == tag) = false from h]
      rfl
  refine ⟨fun w => ?_, fun w => ?_, rfl, rfl, rfl, ?_⟩
  · rw [if_neg]
    rintro ⟨mem, hit⟩
    rw [List.mem_singleton.mp mem, idle] at hit
    cases hit
  · rw [if_neg]
    rintro ⟨mem, any⟩
    rw [List.mem_singleton.mp mem, h] at any
    cases any
  · rw [List.filterMap_cons, linkTold_of_idle idle]
    exact .of_silent (.refl s)

/-- A link whose claim has sounded, ended or passed on is emptied. -/
theorem unlinked_cleared {tag : Half} {s : State} {v : Fin 24} (idle : linkHit tag s v = false)
    (h : (s.schedule.links[v]).any (fun x => x.tag == tag) = true) : Unlinked tag [v] s (clearLink v s) := by
  refine ⟨fun w => ?_, fun w => ?_, rfl, rfl, rfl, ?_⟩
  · rw [if_neg]
    · rfl
    · rintro ⟨mem, hit⟩
      rw [List.mem_singleton.mp mem, idle] at hit
      cases hit
  · rw [clearLink_links]
    by_cases e : w = v
    · subst e
      rw [if_pos rfl, if_pos ⟨List.mem_singleton_self w, h⟩]
    · rw [if_neg e, if_neg fun c => e (List.mem_singleton.mp c.1)]
  · rw [List.filterMap_cons, linkTold_of_idle idle]
    exact .of_silent (silent_of_record rfl rfl rfl rfl)

/-- A link whose withdrawal acts. -/
theorem unlinked_withdrawn {tag : Half} {s : State} {v : Fin 24} {i : Incoming} {l : Link} (hit : linkHit tag s v = true)
    (hl : s.schedule.links[v] = some l) (hi : (s.voice v).content.incoming = some i) :
    Unlinked tag [v] s (emit (cancelledVoice v i.claim l (now32 s)) (withdraw v (clearLink v s))) := by
  have told : linkTold tag s v = some (cancelledVoice v i.claim l (now32 s)) := by
    unfold linkTold
    rw [hit, hi, hl]
    rfl
  have any : (s.schedule.links[v]).any (fun x => x.tag == tag) = true := by
    rw [linkHit_some hl, Bool.and_eq_true] at hit
    rw [hl]
    exact hit.1
  have frame := withdraw_eq v (clearLink v s)
  refine ⟨fun w => ?_, fun w => ?_, ?_, ?_, ?_, ?_⟩
  · rw [emit_voice, withdraw_voice]
    by_cases e : w = v
    · subst e
      rw [if_pos rfl, if_pos ⟨List.mem_singleton_self w, hit⟩]
      rfl
    · rw [if_neg e, if_neg fun c => e (List.mem_singleton.mp c.1)]
      rfl
  · have same : (emit (cancelledVoice v i.claim l (now32 s)) (withdraw v (clearLink v s))).schedule =
        (clearLink v s).schedule := by rw [emit_schedule, frame]
    rw [same, clearLink_links]
    by_cases e : w = v
    · subst e
      rw [if_pos rfl, if_pos ⟨List.mem_singleton_self w, any⟩]
    · rw [if_neg e, if_neg fun c => e (List.mem_singleton.mp c.1)]
  · rw [quiet_emit, quiet_withdraw]
    rfl
  · rw [emit_slate, frame]
    rfl
  · rw [emit_startOrder, frame]
    rfl
  · rw [List.filterMap_cons, told]
    have silent : Silent s (withdraw v (clearLink v s)) :=
      (silent_of_record rfl rfl rfl rfl : Silent s (clearLink v s)).trans (silent_withdraw v _)
    exact (Told.of_silent silent).trans (.emit _ rfl)

/-- One link (R117). -/
theorem cancelLink_one (tag : Half) (n : Nat) (s : State) (v : Fin 24) :
    (cancelLink tag (n, s) v).1 = n + ([v].filter (linkHit tag s)).length ∧ Unlinked tag [v] s (cancelLink tag (n, s) v).2 := by
  have count : ([v].filter (linkHit tag s)).length = if linkHit tag s v then 1 else 0 := by
    rw [List.filter_cons]
    split <;> rfl
  rw [count]
  unfold cancelLink
  dsimp only
  cases hl : s.schedule.links[v] with
  | none =>
    rw [linkHit_none hl]
    exact ⟨rfl, unlinked_stays (by rw [hl]; rfl)⟩
  | some l =>
    dsimp only
    by_cases ht : l.tag = tag
    · have any : (s.schedule.links[v]).any (fun x => x.tag == tag) = true := by
        rw [hl]
        exact beq_iff_eq.mpr ht
      have hit : linkHit tag s v = linkActs s v l := by
        rw [linkHit_some hl, beq_iff_eq.mpr ht, Bool.true_and]
      rw [if_pos ht, hit]
      cases acts : linkActs s v l with
      | false => exact ⟨rfl, unlinked_cleared (hit.trans acts) any⟩
      | true =>
        obtain ⟨i, hi⟩ : ∃ i, (s.voice v).content.incoming = some i := by
          unfold linkActs at acts
          rw [Bool.and_eq_true] at acts
          exact Option.isSome_iff_exists.mp acts.2
        rw [hi]
        exact ⟨rfl, unlinked_withdrawn (hit.trans acts) hl hi⟩
    · rw [if_neg ht]
      have other : (s.schedule.links[v]).any (fun x => x.tag == tag) = false := by
        rw [hl]
        exact beq_eq_false_iff_ne.mpr ht
      rw [linkHit_some hl, beq_eq_false_iff_ne.mpr ht]
      exact ⟨rfl, unlinked_stays other⟩

/-! ### All links -/

theorem linkHit_congr {tag : Half} {s t : State} {v : Fin 24} (voice : t.voice v = s.voice v)
    (link : t.schedule.links[v] = s.schedule.links[v]) : linkHit tag t v = linkHit tag s v := by
  unfold linkHit linkActs
  rw [voice, link]

theorem linkTold_congr {tag : Half} {s t : State} {v : Fin 24} (voice : t.voice v = s.voice v)
    (link : t.schedule.links[v] = s.schedule.links[v]) (clock : t.clock = s.clock) : linkTold tag t v = linkTold tag s v := by
  unfold linkTold now32
  rw [linkHit_congr voice link, voice, link, clock]

/-- The links of several voices, in the order of the list. -/
theorem cancelLink_all (tag : Half) (l : List (Fin 24)) (hl : l.Nodup) : ∀ (n : Nat) (s : State),
    (l.foldl (cancelLink tag) (n, s)).1 = n + (l.filter (linkHit tag s)).length
      ∧ Unlinked tag l s (l.foldl (cancelLink tag) (n, s)).2 := by
  induction l with
  | nil =>
    refine fun n s => ⟨rfl, fun w => ?_, fun w => ?_, rfl, rfl, rfl, .of_silent (.refl s)⟩
    · rw [if_neg fun c => List.not_mem_nil c.1]; rfl
    · rw [if_neg fun c => List.not_mem_nil c.1]; rfl
  | cons v l ih =>
    intro n s
    obtain ⟨fresh, hl⟩ := List.nodup_cons.mp hl
    obtain ⟨count, first⟩ := cancelLink_one tag n s v
    obtain ⟨m, t, hm⟩ : ∃ m t, cancelLink tag (n, s) v = (m, t) := ⟨_, _, rfl⟩
    rw [hm] at count first
    dsimp only at count first
    obtain ⟨count', rest⟩ := ih hl m t
    rw [List.foldl_cons, hm]
    have voice : ∀ w ≠ v, t.voice w = s.voice w := fun w ne => by
      rw [first.voice, if_neg fun c => ne (List.mem_singleton.mp c.1)]
    have link : ∀ w ≠ v, t.schedule.links[w] = s.schedule.links[w] := fun w ne => by
      rw [first.links, if_neg fun c => ne (List.mem_singleton.mp c.1)]
    have apart : ∀ w ∈ l, w ≠ v := fun w hw e => fresh (e ▸ hw)
    have clock : t.clock = s.clock := by
      have same := congrArg Quiet.clock first.quiet
      exact same
    refine ⟨?_, fun w => ?_, fun w => ?_, rest.quiet.trans first.quiet, rest.slate.trans first.slate,
      rest.startOrder.trans first.startOrder, ?_⟩
    · have hits : l.filter (linkHit tag t) = l.filter (linkHit tag s) :=
        List.filter_congr fun w hw => linkHit_congr (voice w (apart w hw)) (link w (apart w hw))
      rw [count', count, hits, show v :: l = [v] ++ l from rfl, List.filter_append, List.length_append, Nat.add_assoc]
    · by_cases e : w = v
      · subst e
        rw [rest.voice, if_neg fun c => fresh c.1, first.voice]
        simp only [List.mem_cons, true_or, true_and]
      · rw [rest.voice, voice w e, linkHit_congr (voice w e) (link w e)]
        simp only [List.mem_cons, e, false_or]
    · by_cases e : w = v
      · subst e
        rw [rest.links, if_neg fun c => fresh c.1, first.links]
        simp only [List.mem_cons, true_or, true_and]
      · rw [rest.links, link w e]
        simp only [List.mem_cons, e, false_or]
    · have later : l.filterMap (linkTold tag t) = l.filterMap (linkTold tag s) :=
        List.filterMap_congr fun w hw => linkTold_congr (voice w (apart w hw)) (link w (apart w hw)) clock
      have told := first.told.trans rest.told
      rw [later, ← List.filterMap_append] at told
      exact told

/-! ### CANCEL -/

/-- The entries with a tag and those without are all of them. -/
theorem length_filter_tag (tag : Half) (l : List Entry) :
    l.length - (l.filter fun e => e.tag != tag).length = (l.filter fun e => e.tag == tag).length := by
  have both := List.length_eq_length_filter_add (l := l) (fun e : Entry => e.tag == tag)
  have other : (l.filter fun e => !(e.tag == tag)) = l.filter fun e => e.tag != tag := rfl
  rw [other] at both
  omega

theorem linkHit_iff (tag : Half) (s : State) (v : Fin 24) : linkHit tag s v = true ↔
    ∃ l, s.schedule.links[v] = some l ∧ l.tag = tag ∧ (s.voice v).claimNo = l.claim ∧ (s.voice v).content.incoming ≠ none := by
  cases hl : s.schedule.links[v] with
  | none => simp [linkHit_none hl]
  | some l =>
    rw [linkHit_some hl]
    unfold linkActs
    rw [Bool.and_eq_true, Bool.and_eq_true, beq_iff_eq, beq_iff_eq, Option.isSome_iff_ne_none]
    simp only [Option.some.injEq, exists_eq_left']

/-- Settles O52. -/
theorem cancelActs : Obligations.CancelActs := by
  intro s tk rest tag hit h hw hits
  obtain ⟨kept, hkept⟩ : ∃ kept, kept = s.schedule.entries.filter fun e => e.tag != tag := ⟨_, rfl⟩
  have start : ∀ v, linkHit tag (setEntries kept (popHead s)) v = hit v := fun v => by
    rw [Bool.eq_iff_iff, hits v]
    exact linkHit_iff tag s v
  obtain ⟨count, done⟩ := cancelLink_all tag allVoices (List.nodup_finRange 24) 0 (setEntries kept (popHead s))
  rcases hr : allVoices.foldl (cancelLink tag) (0, setEntries kept (popHead s)) with ⟨n, w⟩
  rw [hr] at count done
  dsimp only at count done
  have act : requestCancel tk tag (popHead s) = giveResult tk.slot .ok
      (toBytes 1 (s.schedule.entries.filter fun e => e.tag == tag).length ++ toBytes 1 ((List.finRange 24).filter hit).length) w := by
    have number : n = ((List.finRange 24).filter hit).length := by
      rw [count, Nat.zero_add]
      exact congrArg List.length (List.filter_congr fun v _ => start v)
    rw [← number, ← length_filter_tag, ← hkept]
    unfold requestCancel
    dsimp only
    rw [show (popHead s).schedule.entries.filter (fun e => e.tag != tag) = kept from hkept.symm, hr]
    exact rfl
  have answer := handOn_answered (pick := Request.asCancel) h rfl act
  have quiet : w.rest = { s.rest with entries := kept } := rest_of_quiet (s := setEntries kept (popHead s)) done.quiet
  obtain ⟨d, hd⟩ : ∃ d, d = toBytes 1 (s.schedule.entries.filter fun e => e.tag == tag).length
    ++ toBytes 1 ((List.finRange 24).filter hit).length := ⟨_, rfl⟩
  rw [← hd] at act answer ⊢
  have voices := answered_voices tk.slot .ok d w
  have schedule := answered_schedule tk.slot .ok d w
  have entries : w.schedule.entries = kept := congrArg Rest.entries quiet
  refine ⟨_, congrArg Host.Outcome.next answer, answered_result (s := s) ?_ hw, ?_, fun v => ?_, fun v hv => ⟨?_, ?_⟩,
    fun told htold => ?_, fun v hv => ?_, ?_, ?_⟩
  · unfold slotAt
    rw [done.slate]
    rfl
  · rw [schedule, entries, hkept]
  · rw [schedule, done.links]
    simp only [List.mem_finRange, allVoices, true_and]
    rfl
  · rw [voices.content, done.voice, if_pos ⟨List.mem_finRange v, (start v).trans hv⟩]
    exact withdrawn_content _
  · rw [voices.claimNo, done.voice, if_pos ⟨List.mem_finRange v, (start v).trans hv⟩]
    exact withdrawn_claimNo _
  · have same : (List.finRange 24).filterMap told = allVoices.filterMap (linkTold tag (setEntries kept (popHead s))) := by
      refine List.filterMap_congr fun v _ => ?_
      rw [htold]
      unfold linkTold
      rw [start]
      rfl
    rw [same]
    exact ((Told.of_silent (silent_of_record rfl rfl rfl rfl)).trans done.told).inOrder (answered_keepsLine _ _ _ w)
  · have stays : w.voice v = s.voice v := by
      rw [done.voice, if_neg]
      · rfl
      · rintro ⟨_, acts⟩
        rw [start, hv] at acts
        cases acts
    have alike := voices v
    rw [stays] at alike
    exact alike
  · exact (answered_startOrder _ _ _ w).trans done.startOrder
  · rw [answered_rest, quiet, schedule, entries]

end Sys2Proof.Machine
end

section
/-! HOLD and RESUME (R99, R116, R150, R167 to R169). -/

namespace Sys2Proof.Machine

/-! ### The tests of HOLD (R167) -/

section
variable {t : Taken} {d : Depth} {release : HoldRelease} {s : State}

theorem judgeHold_already (h : s.run.hold = .deep ∨ d = .light ∧ s.run.hold = .light) :
    judgeHold t d release s = giveResult t.slot .already (holdDetail s.run.hold s.run.hold 0 0) s := by
  unfold judgeHold
  exact if_pos h

theorem holdBusy_pin (pin : anyPinInFlight s = true) (switch : s.run.switch = none) : holdBusy s = some 1 := by
  unfold holdBusy
  rw [pin, switch]
  rfl

theorem holdBusy_switch (pin : anyPinInFlight s = false) (switch : s.run.switch ≠ none) : holdBusy s = some 2 := by
  unfold holdBusy
  rw [pin, Option.isSome_iff_ne_none.mpr switch]

theorem holdBusy_none (pin : anyPinInFlight s = false) (switch : s.run.switch = none) : holdBusy s = none := by
  unfold holdBusy
  rw [pin, switch]
  rfl

theorem judgeHold_busy {n : Nat} (new : s.run.hold ≠ .deep) (busy : holdBusy s = some n) :
    judgeHold t .deep release s = giveResult t.slot .busy (holdDetail s.run.hold s.run.hold 0 n) (nextFree s) := by
  unfold judgeHold
  rw [if_neg fun h => h.elim new fun l => (nomatch l.1), busy]

/-- A HOLD that passes the tests of the hold state and of the jobs in progress comes to the release condition. -/
theorem judgeHold_tests (new : s.run.hold ≠ .deep)
    (free : d = .light ∧ s.run.hold = .none ∨ d = .deep ∧ anyPinInFlight s = false ∧ s.run.switch = none) :
    judgeHold t d release s =
      if releaseAsserted s release then giveResult t.slot .notEntered (holdDetail s.run.hold s.run.hold release.lineCode 0) s
      else giveResult t.slot .ok (holdDetail s.run.hold d.state 0 0) (enterHold d release (slotTag t.bytes) s) := by
  unfold judgeHold
  rcases free with ⟨rfl, hold⟩ | ⟨rfl, pin, switch⟩
  · rw [if_neg fun h => h.elim new fun l => by rw [hold] at l; cases l.2]
  · rw [if_neg fun h => h.elim new fun l => (nomatch l.1), holdBusy_none pin switch]

theorem releaseAsserted_false (h : ∀ n, release = .line n → s.trigger.lines[n].level = false) :
    releaseAsserted s release = false := by
  cases release with
  | request => rfl
  | line n => exact h n rfl

theorem requestHold_judges {line : Option Nat}
    (h : line = none ∧ release = .request ∨ ∃ n : Fin 16, line = some n.val ∧ release = .line n) :
    requestHold t (d, line) s = judgeHold t d release s := by
  unfold requestHold
  rcases h with ⟨rfl, rfl⟩ | ⟨n, rfl, rfl⟩
  · rfl
  · exact dif_pos n.isLt

end

/-! ### The schedule under a DEEP hold (R116) -/

/-- Reports handed on one after another, each with this sample's time. -/
theorem foldl_emit_cancelled (l : List Entry) : ∀ s : State,
    Told (l.map fun e => cancelledEntry e (now32 s)) s (l.foldl (fun u e => emit (cancelledEntry e (now32 u)) u) s)
      ∧ (l.foldl (fun u e => emit (cancelledEntry e (now32 u)) u) s).quiet = s.quiet
      ∧ (l.foldl (fun u e => emit (cancelledEntry e (now32 u)) u) s).slate = s.slate
      ∧ (l.foldl (fun u e => emit (cancelledEntry e (now32 u)) u) s).voices = s.voices
      ∧ (l.foldl (fun u e => emit (cancelledEntry e (now32 u)) u) s).startOrder = s.startOrder := by
  induction l with
  | nil => exact fun s => ⟨.of_silent (.refl s), rfl, rfl, rfl, rfl⟩
  | cons e l ih =>
    intro s
    obtain ⟨told, quiet, slate, voices, order⟩ := ih (emit (cancelledEntry e (now32 s)) s)
    have time : now32 (emit (cancelledEntry e (now32 s)) s) = now32 s := by
      unfold now32
      rw [emit_clock]
    rw [time] at told
    exact ⟨(Told.emit s rfl).trans told, quiet.trans (quiet_emit _ s), slate.trans (emit_slate _ s),
      voices.trans (emit_voices _ s), order.trans (emit_startOrder _ s)⟩

/-! ### The head cache under a DEEP hold (R150) -/

theorem port_pin_put {j : Job} (h : j.kind.cls = .house) (p : Port) : (p.put j).pin = p.pin := by
  unfold Port.put Port.enqueue
  split
  · rfl
  · rw [h]

theorem giveResult_pin (i : Nat) (r : ResultCode) (d : List Byte) (s : State) : (giveResult i r d s).port.pin = s.port.pin := by
  unfold giveResult placeCompletion
  split
  · rfl
  · dsimp only
    split_ifs
    · rfl
    · exact port_pin_put rfl _
    · rfl

theorem settleQueue_pin (l : List Taken) : ∀ s, (settleQueue l s).port.pin = s.port.pin := by
  induction l with
  | nil => exact fun _ => rfl
  | cons t l ih =>
    intro s
    unfold settleQueue
    split
    · rfl
    · exact (ih _).trans (giveResult_pin _ _ _ s)

theorem arbitrate_pin {s : State} (h : s.port.pin = []) : (arbitrate s).port.pin = [] := by
  have refill := takeRefill_port s.port.refill.length s
  have pin : (takeRefill s.port.refill.length s).2.port.pin = [] := by rw [refill]; exact h
  unfold arbitrate takeNext
  split
  · exact h
  · split
    · next e => rw [e] at pin; exact pin
    · next e =>
      rw [e] at pin
      dsimp only at pin ⊢
      split
      · exact pin
      split
      · exact pin
      split
      · exact pin
      split
      · exact pin
      rw [pin]

theorem answered_pin {i : Nat} {r : ResultCode} {d : List Byte} {w : State} (h : w.port.pin = []) :
    (answered i r d w).port.pin = [] :=
  arbitrate_pin ((settleQueue_pin _ _).trans ((giveResult_pin i r d w).trans h))

/-- Results given to other slots. -/
theorem foldl_abandon (l : List Nat) {i : Nat} (other : i ∉ l) : ∀ s : State,
    slotAt i (l.foldl (fun t k => giveResult k .abandoned [] t) s) = slotAt i s := by
  induction l with
  | nil => exact fun _ => rfl
  | cons k l ih =>
    intro s
    rw [List.foldl_cons, ih fun h => other (List.mem_cons_of_mem _ h),
      giveResult_slotAt_other _ _ _ fun e => other (List.mem_cons.mpr (.inl e))]

theorem foldl_abandon_frame (l : List Nat) : ∀ s : State,
    (l.foldl (fun t k => giveResult k .abandoned [] t) s).quiet = s.quiet
      ∧ (l.foldl (fun t k => giveResult k .abandoned [] t) s).voices = s.voices
      ∧ (l.foldl (fun t k => giveResult k .abandoned [] t) s).port.pin = s.port.pin
      ∧ keepsLine s (l.foldl (fun t k => giveResult k .abandoned [] t) s) := by
  induction l with
  | nil => exact fun s => ⟨rfl, rfl, rfl, keepsLine_refl s⟩
  | cons k l ih =>
    intro s
    obtain ⟨quiet, voices, pin, keeps⟩ := ih (giveResult k .abandoned [] s)
    exact ⟨quiet.trans (quiet_giveResult _ _ _ s), voices.trans (giveResult_voices _ _ _ s), pin.trans (giveResult_pin _ _ _ s),
      (keepsLine_giveResult _ _ _ s).trans keeps⟩

/-- The slot of an entry that is PENDING owns an entry of the cache. -/
theorem owner_queued {s : State} {i : Nat} (h : i ∈ (queuedPins s).filterMap fun e => e.state.owner) :
    ∃ x ∈ s.cache, ∃ b, x.state = .pending i b := by
  obtain ⟨x, hx, own⟩ := List.mem_filterMap.mp h
  refine ⟨x, (List.mem_filter.mp hx).1, ?_⟩
  unfold CacheState.owner at own
  cases hs : x.state with
  | present fs => rw [hs] at own; cases own
  | pending k b =>
    rw [hs] at own
    exact ⟨b, congrArg (CacheState.pending · b) (Option.some.inj own)⟩

/-- The head cache is emptied, and nothing else changes but the slots of its PIN requests. -/
theorem deepHoldCache_empties {s : State} {i : Nat} (other : ∀ x ∈ s.cache, ∀ b, x.state ≠ .pending i b) :
    (deepHoldCache s).quiet = { s.quiet with cache := [] } ∧ (deepHoldCache s).voices = s.voices
      ∧ (deepHoldCache s).port.pin = [] ∧ keepsLine s (deepHoldCache s) ∧ slotAt i (deepHoldCache s) = slotAt i s := by
  obtain ⟨quiet, voices, pin, keeps⟩ := foldl_abandon_frame ((queuedPins s).filterMap fun e => e.state.owner)
    (setCache [] { s with port := { s.port with pin := [] } })
  have line : keepsLine s (setCache [] { s with port := { s.port with pin := [] } }) := keepsLine_of_eq rfl
  refine ⟨quiet, voices, pin, line.trans keeps, ?_⟩
  refine (foldl_abandon _ (fun mem => ?_) _).trans rfl
  obtain ⟨x, hx, b, hs⟩ := owner_queued mem
  exact other x hx b hs

/-! ### HOLD and RESUME -/

/-- The HOLD_ENTERED of a request, as the manual lays it out. -/
theorem holdEntered_eq {s : State} {release : HoldRelease} {d : Depth} {tag : Half} {r : Report}
    (h : r = { aboutNone .holdEntered Selector.null ((toBytes 1 s.run.hold.code ++ toBytes 1 d.state.code) ++ (match release with
          | .request => [0, 0]
          | .line n => [1] ++ toBytes 1 n.val)) s with tag := tag }) :
    r = holdEnteredReport s.run.hold d.state release tag (now32 s) := by
  subst h
  cases release <;> rfl

/-- The state in which a DEEP hold finds the voices: the hold entered, the schedule empty, their reports handed on. -/
def deeplyHeld (release : HoldRelease) (tag : Half) (s : State) : State :=
  deepHoldSchedule (emit (holdEnteredReport s.run.hold .deep release tag (now32 s))
    { s with run := { s.run with hold := .deep, release := some release } })

theorem deeplyHeld_frame (release : HoldRelease) (tag : Half) (s : State) :
    Told (holdEnteredReport s.run.hold .deep release tag (now32 s) ::
        s.schedule.entries.map fun e => cancelledEntry e (now32 s)) s (deeplyHeld release tag s)
      ∧ (deeplyHeld release tag s).quiet =
        { s.quiet with run := { s.run with hold := .deep, release := some release }, entries := [] }
      ∧ (deeplyHeld release tag s).slate = s.slate ∧ (deeplyHeld release tag s).voices = s.voices
      ∧ (deeplyHeld release tag s).startOrder = s.startOrder := by
  obtain ⟨y, hy⟩ : ∃ y, y = emit (holdEnteredReport s.run.hold .deep release tag (now32 s))
    { s with run := { s.run with hold := .deep, release := some release } } := ⟨_, rfl⟩
  obtain ⟨told, quiet, slate, voices, order⟩ := foldl_emit_cancelled s.schedule.entries (setEntries [] y)
  have entries : y.schedule.entries = s.schedule.entries := by rw [hy, emit_schedule]
  have act : deeplyHeld release tag s =
      s.schedule.entries.foldl (fun u e => emit (cancelledEntry e (now32 u)) u) (setEntries [] y) := by
    unfold deeplyHeld deepHoldSchedule
    rw [← hy, entries]
  have clock : y.clock = s.clock := by rw [hy, emit_clock]
  have first : Told [holdEnteredReport s.run.hold .deep release tag (now32 s)] s (setEntries [] y) := by
    have run : Silent s { s with run := { s.run with hold := .deep, release := some release } } := silent_of_record rfl rfl rfl rfl
    have empty : Silent y (setEntries [] y) := silent_of_record rfl rfl rfl rfl
    rw [hy] at empty ⊢
    exact ((Told.of_silent run).trans (.emit _ rfl)).silent empty
  have time : now32 (setEntries [] y) = now32 s := congrArg (fun c : Clock => c.showTime.setWidth 32) clock
  rw [time] at told
  rw [act]
  refine ⟨first.trans told, quiet.trans ?_, slate.trans ?_, voices.trans ?_, order.trans ?_⟩
  · have same : y.quiet = { s.quiet with run := { s.run with hold := .deep, release := some release } } := by
      rw [hy, quiet_emit]
      rfl
    exact congrArg (fun q : Quiet => { q with entries := [] }) same
  · exact (congrArg State.slate hy).trans (emit_slate _ _)
  · exact (congrArg State.voices hy).trans (emit_voices _ _)
  · exact (congrArg State.startOrder hy).trans (emit_startOrder _ _)

/-- The ENDED reports that a DEEP hold gives, as those of the state before it. -/
theorem endedUnsounded_congr {s t : State} {v : Fin 24} (code : Byte) (voice : t.voice v = s.voice v) (clock : t.clock = s.clock) :
    endedUnsounded code t v = endedUnsounded code s v := by
  unfold endedUnsounded aboutClaim
  rw [voice, clock]

/-- A DEEP hold at the voices and the cache: what each voice becomes, what stays, and the slot of its own request. -/
theorem deepHold_acts {x u c : State} {i : Nat} (hu : u = completeEntries (fun _ => true) x)
    (hc : c = deepHoldCache (deepHoldVoices x)) (other : ∀ e ∈ x.cache, ∀ b, e.state ≠ .pending i b) :
    c.quiet = { x.quiet with cache := [] } ∧ c.port.pin = [] ∧ keepsLine x c ∧ slotAt i c = slotAt i x
      ∧ (∀ v, (c.voice v).content = (u.voice v).content.afterRelease .held (fun p => max p.sound.fadeOut cutLength) false
        ∧ (c.voice v).claimNo = (u.voice v).numberAfterWithdraw)
      ∧ ∃ m, Told ((List.finRange 24).filterMap (endedUnsounded 4 u)) u m ∧ keepsLine m c := by
  have quiet := quiet_deepHoldVoices x
  have voices : deepHoldVoices x = releaseAllNow (fun _ => true) .held (fun p => max p.sound.fadeOut cutLength) false u := by
    rw [hu]
    rfl
  obtain ⟨y, hy⟩ : ∃ y, y = deepHoldVoices x := ⟨_, rfl⟩
  rw [← hy] at quiet voices hc
  have cache : y.cache = x.cache := by
    have same := congrArg Quiet.cache quiet
    exact same
  obtain ⟨emptied, alike, pin, keeps, slot⟩ := deepHoldCache_empties (s := y) (i := i) (by rw [cache]; exact other)
  rw [← hc] at emptied alike pin keeps slot
  have slate : y.slate = x.slate := by rw [voices, releaseAllNow_slate, hu, foldl_slate_completeEntries]
  have entries : keepsLine x u := by
    rw [hu]
    exact (acts_completeEntries (new := fun _ => True) _ x).keepsLine
  have releases : keepsLine u y := by
    rw [voices]
    exact (acts_releaseAllNow (new := fun _ => True) _ _ _ _ u).keepsLine
  refine ⟨?_, pin, (entries.trans releases).trans keeps, slot.trans ?_, fun v => ?_, ?_⟩
  · rw [emptied, quiet]
  · unfold slotAt
    rw [slate]
  · have voice : c.voice v = y.voice v := voice_of_voices alike v
    rw [voice, voices]
    exact ⟨(releaseAllNow_content _ _ _ false u nofun v).1 rfl, releaseAllNow_claimNo (p := fun _ => true) rfl _ _⟩
  · obtain ⟨m, told, later⟩ := told_releaseAllNow (r := .held) (code := 4) rfl (fun p => max p.sound.fadeOut cutLength)
      (fun _ => true) u
    rw [← voices] at later
    exact ⟨m, told, later.trans keeps⟩

/-- Settles O56. -/
theorem holdJudged : Obligations.HoldJudged := by
  intro s tk rest d hw
  refine ⟨fun depth line h => ⟨?_, ?_⟩, fun h => ⟨fun none_ => ⟨_, rfl, ?_⟩, fun held => ⟨_, rfl, ?_⟩⟩⟩
  · rintro n rfl hn
    refine ⟨_, rfl, handOn_gives (pick := Request.asHold) (u := popHead s) h rfl hw ?_ rfl⟩
    exact dif_neg (Nat.not_lt.mpr hn)
  · rintro release cond rfl entered hentered
    have judges := requestHold_judges (t := tk) (d := depth) (s := popHead s) cond
    have answers : ∀ {r : ResultCode} {detail : List Byte} {u : State},
        judgeHold tk depth release (popHead s) = giveResult tk.slot r detail u → u.slate = (popHead s).slate →
          Answers .hold s tk.slot r detail { u with slate := s.slate } := fun ha hu =>
      ⟨_, rfl, handOn_gives (pick := Request.asHold) h rfl hw (judges.trans ha) hu⟩
    refine ⟨fun same => answers (u := popHead s) (judgeHold_already same) rfl, ?_, ?_, ?_, ?_, ?_⟩
    · rintro rfl new pin switch
      exact answers (u := nextFree (popHead s)) (judgeHold_busy new (holdBusy_pin (s := popHead s) pin switch)) rfl
    · rintro rfl new pin switch
      exact answers (u := nextFree (popHead s)) (judgeHold_busy new (holdBusy_switch (s := popHead s) pin switch)) rfl
    · rintro n rfl asserted new free
      have tests := judgeHold_tests (t := tk) (release := .line n) (s := popHead s) new free
      exact answers (u := popHead s) (tests.trans (if_pos asserted)) rfl
    · rintro rfl none_ clear
      have tests := (judgeHold_tests (t := tk) (release := release) (s := popHead s) (fun deep => nomatch none_.symm.trans deep)
        (.inl ⟨rfl, none_⟩)).trans (if_neg (Bool.eq_false_iff.mp (releaseAsserted_false (s := popHead s) clear)))
      have report : entered [0, 1] = holdEnteredReport s.run.hold .light release (slotTag tk.bytes) (now32 s) := by
        refine holdEntered_eq (d := .light) ((hentered [0, 1]).trans ?_)
        rw [none_]
        rfl
      have detail : holdDetail s.run.hold .light 0 0 = [0, 1, 0, 0] := by
        rw [none_]
        rfl
      refine ⟨_, rfl, ?_⟩
      rw [report, ← detail]
      exact handOn_reports (pick := Request.asHold) (u := { popHead s with run := { s.run with hold := .light, release := some release } })
        h rfl hw (judges.trans tests) rfl rfl rfl rfl
    · rintro rfl new pin switch clear cache
      have tests := (judgeHold_tests (t := tk) (release := release) (s := popHead s) new (.inr ⟨rfl, pin, switch⟩)).trans
        (if_neg (Bool.eq_false_iff.mp (releaseAsserted_false (s := popHead s) clear)))
      obtain ⟨told, quiet, slate, voices, order⟩ := deeplyHeld_frame release (slotTag tk.bytes) (popHead s)
      obtain ⟨x, hx⟩ : ∃ x, x = deeplyHeld release (slotTag tk.bytes) (popHead s) := ⟨_, rfl⟩
      obtain ⟨u, hu⟩ : ∃ u, u = completeEntries (fun _ => true) x := ⟨_, rfl⟩
      obtain ⟨c, hc⟩ : ∃ c, c = deepHoldCache (deepHoldVoices x) := ⟨_, rfl⟩
      have act : requestHold tk (.deep, line) (popHead s) = giveResult tk.slot .ok (holdDetail s.run.hold .deep 0 0) c := by
        rw [hc, hx]
        exact judges.trans tests
      have done := handOn_answered (pick := Request.asHold) h rfl act
      rw [← hx] at told quiet slate voices order
      have kept : x.cache = s.cache := by
        have same := congrArg Quiet.cache quiet
        exact same
      obtain ⟨final, gone, keeps, slot, released, m, ended, later⟩ := deepHold_acts hu hc (i := tk.slot) (by rw [kept]; exact cache)
      rw [quiet] at final
      have clock : x.clock = s.clock := by
        have same := congrArg Quiet.clock quiet
        exact same
      have alike := answered_voices tk.slot .ok (holdDetail s.run.hold .deep 0 0) c
      have frame := answered_frame tk.slot .ok (holdDetail s.run.hold .deep 0 0) c
      have line := answered_keepsLine tk.slot .ok (holdDetail s.run.hold .deep 0 0) c
      have begun := (Told.of_silent (silent_withQueue s.slate.queue.tail s)).trans told
      have list : (entered (toBytes 1 s.run.hold.code ++ [2]) :: s.schedule.entries.map fun b =>
          { aboutNone .cancelled b.cue.entry ([1, 0, 0, 0] ++ toBytes 4 b.target.toNat) s with tag := b.tag }) =
            holdEnteredReport s.run.hold .deep release (slotTag tk.bytes) (now32 s) ::
              s.schedule.entries.map fun e => cancelledEntry e (now32 s) := by
        rw [holdEntered_eq (d := .deep) (hentered (toBytes 1 s.run.hold.code ++ [2]))]
        rfl
      have same : (∀ v p, (s.voice v).content = .sounding p → p.entry = none) → u = x := fun plays => by
        rw [hu]
        refine completeEntries_entered fun v p hp => plays v p ?_
        rw [voice_of_voices voices] at hp
        exact hp
      refine ⟨_, x, u, congrArg Host.Outcome.next done, hu, voices, order, clock, ?_, fun plays => ?_, ?_, ?_, ?_, ?_,
        answered_pin gone, fun all hall => ⟨?_, fun plays => ?_⟩, fun v => ⟨?_, ?_⟩, ?_, ?_, ?_, ?_, ?_, ?_, ?_⟩
      · have part := congrArg Quiet.part quiet
        exact part
      · rw [same plays]
        exact voices
      · refine answered_result (s := s) (slot.trans ?_) hw
        unfold slotAt
        rw [slate]
        rfl
      · exact (congrArg State.run frame).trans (congrArg Quiet.run final)
      · exact (congrArg (fun y : State => y.schedule.entries) frame).trans (congrArg Quiet.entries final)
      · exact (congrArg State.cache frame).trans (congrArg Quiet.cache final)
      · rw [hall, list]
        exact begun.inOrder (keeps.trans line)
      · have withdrawn : ((List.finRange 24).filterMap fun v => (s.voice v).content.incoming.map fun i =>
            aboutClaim .ended v i.claim (toBytes 2 i.claim.number.toNat ++ [4, 0]) s) =
              (List.finRange 24).filterMap (endedUnsounded 4 u) := by
          refine List.filterMap_congr fun v _ => ?_
          rw [same plays]
          exact (endedUnsounded_congr 4 (voice_of_voices voices v) clock).symm
        rw [same plays] at ended withdrawn
        rw [hall, list, withdrawn]
        exact (begun.trans ended).inOrder (later.trans line)
      · rw [alike.content]
        exact (released v).1
      · rw [alike.claimNo]
        exact (released v).2
      · exact (congrArg State.mem frame).trans (congrArg Quiet.mem final)
      · exact (congrArg State.clock frame).trans (congrArg Quiet.clock final)
      · exact (congrArg (fun y : State => y.resolver.vars) frame).trans (congrArg Quiet.vars final)
      · exact (congrArg (fun y : State => y.resolver.current) frame).trans (congrArg Quiet.resolution final)
      · exact (congrArg (fun y : State => y.resolver.lines) frame).trans (congrArg Quiet.fires final)
      · exact (congrArg State.tally frame).trans (congrArg Quiet.tally final)
      · exact (congrArg (fun y : State => y.mix.buses) frame).trans (congrArg Quiet.buses final)
  · exact handOn_gives (pick := Request.asResume) (act := requestResume) (a := ()) (u := popHead s) h rfl hw (if_pos none_) rfl
  · exact handOn_reports (pick := Request.asResume) (act := requestResume) (a := ())
      (u := { popHead s with run := { s.run with hold := .none, release := none } }) h rfl hw (if_neg held) rfl rfl rfl rfl

end Sys2Proof.Machine
end

section
/-! The intake of the Fire Schedule (R105 to R107). -/

namespace Sys2Proof.Machine

/-- A result given to a slot, and nothing else (R44). -/
theorem giveResult_slateBut (i : Nat) (r : ResultCode) (d : List Byte) (s : State) : slateBut i s (giveResult i r d s) := by
  have frame := giveResult_eq i r d s
  refine ⟨⟨?_, voicesAlike_of_voices (giveResult_voices i r d s), ?_, fun k ne _ => ?_⟩,
    portGoesOn_giveResult i r d s fun _ => id⟩
  · have same := congrArg (fun x : State => { x with port := s.port, voices := s.voices, slate := s.slate }) frame
    exact same
  · have same := congrArg (fun x : State => { x.slate with held := s.slate.held, queue := s.slate.queue }) frame
    exact same
  · exact giveResult_slotAt_other r d s ne

theorem giveResult_answers {i : Nat} {s : State} (h : awaiting i s) (r : ResultCode) (d : List Byte) :
    resultOf i (giveResult i r d s) = some (r, d) ∧ slateBut i s (giveResult i r d s) :=
  ⟨giveResult_resultOf r d h, giveResult_slateBut i r d s⟩

/-- The place of a new entry (R105). -/
theorem insertEntry_splits (frame : Word) (e : Entry) (l : List Entry) : ∃ before behind, l = before ++ behind
    ∧ (∀ x ∈ before, distance x.target frame ≤ distance e.target frame)
    ∧ (∀ x, behind.head? = some x → distance e.target frame < distance x.target frame)
    ∧ insertEntry frame e l = before ++ e :: behind := by
  induction l with
  | nil => exact ⟨[], [], rfl, fun x hx => absurd hx List.not_mem_nil, fun x hx => absurd hx (Option.some_ne_none x).symm, rfl⟩
  | cons x xs ih =>
    unfold insertEntry
    by_cases near : distance x.target frame ≤ distance e.target frame
    · obtain ⟨before, behind, list, all, head, act⟩ := ih
      rw [if_pos near, act, list]
      exact ⟨x :: before, behind, rfl, List.forall_mem_cons.mpr ⟨near, all⟩, head, rfl⟩
    · rw [if_neg near]
      refine ⟨[], x :: xs, rfl, fun y hy => absurd hy List.not_mem_nil, fun y hy => ?_, rfl⟩
      obtain rfl := Option.some.inj hy
      exact Nat.lt_of_not_le near

section
variable {cue : ResolvedCue} {slot : Nat} {tag : Half} {target : Word} {s : State}

theorem scheduleIntake_deep (hold : s.run.hold = .deep) : scheduleIntake cue slot tag target s =
    giveResult slot .held ([0xFF, 0, 0, 2] ++ toBytes 1 cue.level ++ [0] ++ toBytes 1 cue.hops) s := by
  unfold scheduleIntake
  dsimp only
  rw [if_pos hold, hold]
  rfl

theorem scheduleIntake_far (hold : s.run.hold ≠ .deep) (far : isFar target s.clock.frame = true) :
    scheduleIntake cue slot tag target s =
      if s.schedule.entries.length < 64 then
        giveResult slot .queued
          (toBytes 1 (insertEntry s.clock.frame { target := target, cue := cue, tag := tag, origin := slot } s.schedule.entries).length
            ++ toBytes 4 (distance target s.clock.frame) ++ toBytes 1 cue.level ++ signedBytes 1 cue.offset ++ toBytes 1 cue.hops)
          (setEntries (insertEntry s.clock.frame { target := target, cue := cue, tag := tag, origin := slot } s.schedule.entries) s)
      else giveResult slot .scheduleFull
        ([0] ++ toBytes 4 (distance target s.clock.frame) ++ toBytes 1 cue.level ++ [0] ++ toBytes 1 cue.hops) s := by
  unfold scheduleIntake
  dsimp only
  rw [if_neg hold, if_pos far]

theorem scheduleIntake_near (hold : s.run.hold ≠ .deep) (near : isFar target s.clock.frame = false)
    (ahead : isAhead target s.clock.frame = true) : scheduleIntake cue slot tag target s =
      claim (scheduled cue .slate slot tag (.atFrame target false) none) (some target) s := by
  unfold scheduleIntake
  dsimp only
  rw [if_neg hold, if_neg (Bool.eq_false_iff.mp near), if_pos ahead]
  rfl

theorem scheduleIntake_past (hold : s.run.hold ≠ .deep) (near : isFar target s.clock.frame = false)
    (past : isAhead target s.clock.frame = false) : scheduleIntake cue slot tag target s =
      if (s.clock.frame - target).toNat ≤ cue.sound.lateAllowance then
        claim (scheduled cue .slate slot tag .frame (some target)) (some target) s
      else giveResult slot .missed ([0] ++ toBytes 2 (min 65535 (s.clock.frame - target).toNat)
        ++ toBytes 1 cue.sound.lateAllowance ++ [0] ++ toBytes 1 cue.level ++ [0] ++ toBytes 1 cue.hops) s := by
  unfold scheduleIntake
  dsimp only
  rw [if_neg hold, if_neg (Bool.eq_false_iff.mp near), if_neg (Bool.eq_false_iff.mp past)]
  have sat : ∀ n, saturate 65535 n = min 65535 n := fun n => by unfold saturate; omega
  rw [sat]
  rfl

end

/-- Settles O31: the distances decide, in the order of the intake's tests. -/
theorem scheduleIntakeJudged : Obligations.ScheduleIntakeJudged := by
  rintro cue slot tag target s t ahead late level hops rfl hw rfl rfl rfl rfl
  have far_ := isFar_iff target s.clock.frame
  have ahead_ := isAhead_iff target s.clock.frame
  refine ⟨fun hold => ?_, fun hold low high => ⟨fun room => ?_, fun full => ?_⟩, fun hold low high => ?_,
    fun hold past inTime => ?_, fun hold past late => ?_⟩
  · rw [scheduleIntake_deep hold]
    exact giveResult_answers hw _ _
  · rw [scheduleIntake_far hold (far_.mpr ⟨low, high⟩), if_pos room]
    obtain ⟨before, behind, list, near, next, act⟩ := insertEntry_splits s.clock.frame
      { target := target, cue := cue, tag := tag, origin := slot } s.schedule.entries
    have length : (before ++ { target := target, cue := cue, tag := tag, origin := slot } :: behind).length =
        s.schedule.entries.length + 1 := by
      rw [list]
      simp only [List.length_append, List.length_cons]
      omega
    rw [act, length]
    have booked : awaiting slot
        (setEntries (before ++ { target := target, cue := cue, tag := tag, origin := slot } :: behind) s) := hw
    exact ⟨before, behind, list, near, next, giveResult_answers booked _ _⟩
  · rw [scheduleIntake_far hold (far_.mpr ⟨low, high⟩), if_neg (Nat.not_lt.mpr full)]
    exact giveResult_answers hw _ _
  · refine scheduleIntake_near hold ?_ (ahead_.mpr ⟨low, by omega⟩)
    rw [Bool.eq_false_iff, Ne, far_]
    omega
  · have near : isFar target s.clock.frame = false := by rw [Bool.eq_false_iff, Ne, far_]; omega
    have behind : isAhead target s.clock.frame = false := by rw [Bool.eq_false_iff, Ne, ahead_]; omega
    rw [scheduleIntake_past hold near behind, if_pos inTime]
  · have near : isFar target s.clock.frame = false := by rw [Bool.eq_false_iff, Ne, far_]; omega
    have behind : isAhead target s.clock.frame = false := by rw [Bool.eq_false_iff, Ne, ahead_]; omega
    rw [scheduleIntake_past hold near behind, if_neg (Nat.not_le.mpr late)]
    exact giveResult_answers hw _ _

end Sys2Proof.Machine
end

section
/-! The judgement of a claim (R62 to R65, R74 to R76, R80), and a claim that ends without a voice. -/

namespace Sys2Proof.Machine

/-! ### The steps before the voice (R63, R64, R74) -/

theorem leaderOk_iff (r : ClaimRequest) (s : State) : r.leaderOk s = true ↔ leaderHolds r s := by
  unfold ClaimRequest.leaderOk leaderHolds leaderStands
  cases r.leader with
  | none => simp
  | some l =>
    obtain ⟨w, m⟩ := l
    simp only [Bool.and_eq_true, Bool.or_eq_true, beq_iff_eq, Option.some.injEq, Prod.mk.injEq]
    constructor
    · rintro h _ _ ⟨rfl, rfl⟩
      exact h
    · exact fun h => h w m ⟨rfl, rfl⟩

theorem holdPasses_iff (r : ClaimRequest) (s : State) : holdPasses s.run.hold r.source = true ↔ holdLets r s := by
  unfold holdPasses holdLets
  cases s.run.hold with
  | none => simp
  | light => simp
  | deep => simp

theorem isLeader_eq_false_iff (r : ClaimRequest) (v : Fin 24) : r.isLeader v = false ↔ notLeader r v := by
  unfold ClaimRequest.isLeader notLeader
  cases r.leader with
  | none => simp
  | some l =>
    obtain ⟨w, m⟩ := l
    simp only [beq_eq_false_iff_ne, Option.some.injEq, Prod.mk.injEq]
    constructor
    · rintro h _ _ ⟨rfl, rfl⟩
      exact h
    · exact fun h => h w m ⟨rfl, rfl⟩

section
variable {r : ClaimRequest} {s : State}

theorem judgeClaim_followCancelled (h : ¬ leaderHolds r s) : judgeClaim s r = .followCancelled := by
  unfold judgeClaim
  rw [Bool.eq_false_iff.mpr fun ok => h ((leaderOk_iff r s).mp ok)]
  rfl

theorem judgeClaim_held (leader : leaderHolds r s) (h : ¬ holdLets r s) : judgeClaim s r = .held := by
  unfold judgeClaim
  rw [(leaderOk_iff r s).mpr leader, Bool.eq_false_iff.mpr fun ok => h ((holdPasses_iff r s).mp ok)]
  rfl

theorem judgeClaim_condFalse (leader : leaderHolds r s) (hold : holdLets r s) {c : Condition}
    (hc : r.cue.sound.condition = some c) (h : c.holds s.resolver.vars = false) : judgeClaim s r = .condFalse c := by
  unfold judgeClaim
  rw [(leaderOk_iff r s).mpr leader, (holdPasses_iff r s).mpr hold, hc]
  dsimp only
  rw [h]
  rfl

theorem judgeClaim_voice (leader : leaderHolds r s) (hold : holdLets r s) (condition : conditionLets r s) :
    judgeClaim s r = judgeVoice s r := by
  unfold judgeClaim
  rw [(leaderOk_iff r s).mpr leader, (holdPasses_iff r s).mpr hold]
  cases hc : r.cue.sound.condition with
  | none => rfl
  | some c =>
    dsimp only
    rw [condition c hc]
    rfl

end

/-! ### The best of the voices, in one walk -/

/-- The walk over the voices that keeps the best so far: `pick` gives a voice's value, if it has one, and `better a b` says that
a new `a` takes the place of `b`. -/
def bestOf {α : Type} (pick : Fin 24 → Option α) (better : α → α → Bool) (best : Option (Fin 24 × α)) (v : Fin 24) :
    Option (Fin 24 × α) :=
  match pick v with
  | none => best
  | some a =>
    match best with
    | none => some (v, a)
    | some (w, b) => if better a b then some (v, a) else some (w, b)

section
variable {α : Type} {pick : Fin 24 → Option α} {better : α → α → Bool} {v : Fin 24} {a : α}

theorem bestOf_none (h : pick v = none) (best : Option (Fin 24 × α)) : bestOf pick better best v = best := by
  unfold bestOf
  rw [h]

/-- Whoever is best before it, a value better than all before it takes the place. -/
theorem bestOf_takes (h : pick v = some a) {best : Option (Fin 24 × α)} (beats : ∀ w b, best = some (w, b) → better a b = true) :
    bestOf pick better best v = some (v, a) := by
  unfold bestOf
  rw [h]
  cases best with
  | none => rfl
  | some x => exact if_pos (beats x.1 x.2 rfl)

theorem bestOf_keeps {w : Fin 24} {b : α} (h : ∀ c, pick v = some c → better c b = false) :
    bestOf pick better (some (w, b)) v = some (w, b) := by
  unfold bestOf
  cases hp : pick v with
  | none => rfl
  | some c => exact if_neg (Bool.eq_false_iff.mp (h c hp))

/-- What the walk has found is a voice's value. -/
theorem bestOf_found (l : List (Fin 24)) : ∀ best : Option (Fin 24 × α), (∀ w b, best = some (w, b) → pick w = some b) →
    ∀ w b, l.foldl (bestOf pick better) best = some (w, b) → pick w = some b ∧ (best = some (w, b) ∨ w ∈ l) := by
  induction l with
  | nil => exact fun best start w b h => ⟨start w b h, .inl h⟩
  | cons v l ih =>
    intro best start w b h
    have next : ∀ x c, bestOf pick better best v = some (x, c) → best = some (x, c) ∨ x = v ∧ pick v = some c := by
      intro x c hx
      unfold bestOf at hx
      cases hp : pick v with
      | none => rw [hp] at hx; exact .inl hx
      | some d =>
        rw [hp] at hx
        cases best with
        | none =>
          cases hx
          exact .inr ⟨rfl, rfl⟩
        | some y =>
          dsimp only at hx
          split at hx
          · cases hx
            exact .inr ⟨rfl, rfl⟩
          · exact .inl hx
    obtain ⟨picked, place⟩ := ih (bestOf pick better best v) (fun x c hx => (next x c hx).elim (start x c) fun h => h.1 ▸ h.2) w b h
    refine ⟨picked, place.elim (fun here => (next w b here).imp id fun h => ?_) fun mem => .inr (List.mem_cons_of_mem v mem)⟩
    exact List.mem_cons.mpr (.inl h.1)

/-- The walk finds the voice that beats every voice before it and is beaten by none behind it. -/
theorem bestOf_wins (h : pick v = some a) (before : ∀ w b, w < v → pick w = some b → better a b = true)
    (behind : ∀ w b, v < w → pick w = some b → better b a = false) :
    allVoices.foldl (bestOf pick better) none = some (v, a) := by
  obtain ⟨front, back, split⟩ := List.append_of_mem (List.mem_finRange v)
  have sorted : allVoices.Pairwise (· < ·) := List.pairwise_lt_finRange 24
  unfold allVoices at sorted ⊢
  rw [split] at sorted ⊢
  obtain ⟨_, tail, cross⟩ := List.pairwise_append.mp sorted
  obtain ⟨above, _⟩ := List.pairwise_cons.mp tail
  rw [List.foldl_append, List.foldl_cons, bestOf_takes h]
  · have stays : ∀ l : List (Fin 24), (∀ w ∈ l, v < w) → l.foldl (bestOf pick better) (some (v, a)) = some (v, a) := by
      intro l
      induction l with
      | nil => exact fun _ => rfl
      | cons w l ih =>
        intro hl
        rw [List.foldl_cons, bestOf_keeps fun c hc => behind w c (hl w List.mem_cons_self) hc]
        exact ih fun x hx => hl x (List.mem_cons_of_mem w hx)
    exact stays back above
  · intro w b hb
    obtain ⟨picked, place⟩ := bestOf_found front none (fun _ _ e => nomatch e) w b hb
    rcases place with none_ | mem
    · cases none_
    · exact before w b (cross w mem v List.mem_cons_self) picked

theorem bestOf_nobody (h : ∀ v, pick v = none) : allVoices.foldl (bestOf pick better) none = none := by
  have stays : ∀ l : List (Fin 24), l.foldl (bestOf pick better) none = none := by
    intro l
    induction l with
    | nil => rfl
    | cons w l ih =>
      rw [List.foldl_cons, bestOf_none (h w)]
      exact ih
  exact stays allVoices

end

/-! ### The found voice (R65) -/

section
variable {r : ClaimRequest} {s : State} {v : Fin 24}

theorem foundVoice_eq (s : State) (r : ClaimRequest) :
    foundVoice s r = allVoices.foldl (bestOf (identityAt s r) fun c d => Time.earlier d.time c.time) none := by
  unfold foundVoice
  congr 1
  funext best v
  unfold bestOf
  cases identityAt s r v with
  | none => rfl
  | some c => cases best <;> rfl

theorem identityAt_iff (c : Claim) : identityAt s r v = some c ↔ holdsIdentity r s v c := by
  have claims : (s.voice v).content.identityClaim = some c ↔
      (∃ i, c = i.claim ∧ (s.voice v).content.incoming = some i) ∨ ∃ p, c = p.claim ∧ (s.voice v).content = .sounding p := by
    cases (s.voice v).content <;> simp [Content.identityClaim, Content.incoming, eq_comm]
  unfold identityAt holdsIdentity
  cases leader : r.isLeader v with
  | true =>
    have not_ : ¬ notLeader r v := fun h => by
      rw [← isLeader_eq_false_iff, leader] at h
      cases h
    simp [not_]
  | false =>
    have here := (isLeader_eq_false_iff r v).mp leader
    rw [← claims]
    simp only [here, true_and, Bool.false_eq_true, if_false]
    cases hc : (s.voice v).content.identityClaim with
    | none => simp
    | some d =>
      dsimp only
      by_cases same : d.req.cue.sheet = r.cue.sheet ∧ d.req.cue.cue = r.cue.cue
      · rw [if_pos same]
        simp only [Option.some.injEq]
        constructor
        · rintro rfl
          exact ⟨same.1, same.2, rfl⟩
        · exact fun h => h.2.2
      · rw [if_neg same]
        simp only [Option.some.injEq]
        constructor
        · exact fun h => nomatch h
        · rintro ⟨sheet, cue, rfl⟩
          exact absurd ⟨sheet, cue⟩ same

theorem foundVoice_found (h : isFound r s v) : ∃ c, foundVoice s r = some (v, c) := by
  obtain ⟨c, holds, best⟩ := h
  refine ⟨c, (foundVoice_eq s r).trans (bestOf_wins ((identityAt_iff c).mpr holds) (fun w d lt hd => ?_) fun w d lt hd => ?_)⟩
  · exact (best w d ((identityAt_iff d).mp hd)).1 lt
  · exact (best w d ((identityAt_iff d).mp hd)).2 lt

theorem foundVoice_none (h : ∀ w c, ¬ holdsIdentity r s w c) : foundVoice s r = none :=
  (foundVoice_eq s r).trans (bestOf_nobody fun w => Option.eq_none_iff_forall_ne_some.mpr fun c hc =>
    h w c ((identityAt_iff c).mp hc))

/-! ### The arbiter (R80) -/

theorem isIdle_iff (c : Content) : c.isIdle = true ↔ c = .idle := by
  cases c <;> simp [Content.isIdle]

theorem idleVoice_found (idle : (s.voice v).content = .idle) (first : ∀ w, w < v → (s.voice w).content ≠ .idle) :
    idleVoice s = some v := by
  obtain ⟨front, back, split⟩ := List.append_of_mem (List.mem_finRange v)
  have sorted : allVoices.Pairwise (· < ·) := List.pairwise_lt_finRange 24
  unfold idleVoice
  unfold allVoices at sorted ⊢
  rw [split] at sorted ⊢
  obtain ⟨_, _, cross⟩ := List.pairwise_append.mp sorted
  have none_ : front.find? (fun w => (s.voice w).content.isIdle) = none := List.find?_eq_none.mpr fun w hw h =>
    first w (cross w hw v List.mem_cons_self) ((isIdle_iff _).mp h)
  rw [List.find?_append, none_, List.find?_cons_of_pos (p := fun w => (s.voice w).content.isIdle) ((isIdle_iff _).mpr idle)]
  rfl

theorem idleVoice_none (h : ∀ w, (s.voice w).content ≠ .idle) : idleVoice s = none :=
  List.find?_eq_none.mpr fun w _ idle => h w ((isIdle_iff _).mp idle)

theorem releasingVoice_eq (s : State) : releasingVoice s =
    (allVoices.foldl (bestOf (fun v => (s.voice v).content.releaseLeft) fun n m => decide (n < m)) none).map (·.1) := by
  unfold releasingVoice
  congr 2
  funext best v
  unfold bestOf
  dsimp only
  cases (s.voice v).content.releaseLeft with
  | none => rfl
  | some n =>
    cases best with
    | none => rfl
    | some x =>
      dsimp only
      rw [if_congr decide_eq_true_iff rfl rfl]

theorem releaseLeft_iff (c : Content) (n : Nat) : c.releaseLeft = some n ↔ ∃ p, c = .releasing p ∧ n = p.fade.remaining := by
  cases c <;> simp [Content.releaseLeft, eq_comm]

theorem releasingVoice_found {p : Playing} (hp : (s.voice v).content = .releasing p)
    (least : ∀ w q, (s.voice w).content = .releasing q →
      (w < v → p.fade.remaining < q.fade.remaining) ∧ (v < w → p.fade.remaining ≤ q.fade.remaining)) :
    releasingVoice s = some v := by
  have won : allVoices.foldl (bestOf (fun v => (s.voice v).content.releaseLeft) fun n m => decide (n < m)) none =
      some (v, p.fade.remaining) := by
    refine bestOf_wins ((releaseLeft_iff _ _).mpr ⟨p, hp, rfl⟩) (fun w n lt hn => ?_) fun w n lt hn => ?_
    · obtain ⟨q, hq, rfl⟩ := (releaseLeft_iff _ _).mp hn
      exact decide_eq_true ((least w q hq).1 lt)
    · obtain ⟨q, hq, rfl⟩ := (releaseLeft_iff _ _).mp hn
      exact decide_eq_false (Nat.not_lt.mpr ((least w q hq).2 lt))
  rw [releasingVoice_eq, won]
  rfl

theorem releasingVoice_none (h : ∀ w p, (s.voice w).content ≠ .releasing p) : releasingVoice s = none := by
  rw [releasingVoice_eq, bestOf_nobody fun w => ?_]
  · rfl
  · refine Option.eq_none_iff_forall_ne_some.mpr fun n hn => ?_
    obtain ⟨p, hp, _⟩ := (releaseLeft_iff _ _).mp hn
    exact h w p hp

/-- The claim by which voice `v` may be stolen, if it may. -/
def stealableFrom (s : State) (r : ClaimRequest) (v : Fin 24) : Option Claim :=
  (s.voice v).content.stealable.filter fun c => !(r.isLeader v || !decide (c.req.cue.sound.priority < r.cue.sound.priority))

theorem stolenVoice_eq (s : State) (r : ClaimRequest) : stolenVoice s r =
    (allVoices.foldl (bestOf (stealableFrom s r) Claim.sooner) none).map (·.1) := by
  unfold stolenVoice
  congr 2
  funext best v
  unfold bestOf stealableFrom
  cases (s.voice v).content.stealable with
  | none => rfl
  | some c =>
    rw [Option.filter_some]
    dsimp only
    cases r.isLeader v || !decide (c.req.cue.sound.priority < r.cue.sound.priority) with
    | true => rfl
    | false => cases best <;> rfl

theorem stealableFrom_iff (c : Claim) : stealableFrom s r v = some c ↔ mayBeStolen r s v c := by
  have claims : (s.voice v).content.stealable = some c ↔
      (∃ i, c = i.claim ∧ (s.voice v).content = .armed i) ∨ ∃ p, c = p.claim ∧ (s.voice v).content = .sounding p := by
    cases (s.voice v).content <;> simp [Content.stealable, eq_comm]
  unfold stealableFrom mayBeStolen
  rw [Option.filter_eq_some_iff, claims, Bool.not_eq_true', Bool.or_eq_false_iff, isLeader_eq_false_iff, Bool.not_eq_false',
    decide_eq_true_iff]
  rw [and_comm, and_assoc]

theorem sooner_iff (c d : Claim) : c.sooner d = true ↔ c.req.cue.sound.priority < d.req.cue.sound.priority
    ∨ c.req.cue.sound.priority = d.req.cue.sound.priority ∧ Time.earlier c.time d.time = true := by
  unfold Claim.sooner
  simp only [Bool.or_eq_true, Bool.and_eq_true, decide_eq_true_eq, beq_iff_eq]

theorem stolenVoice_found (h : isStolen r s v) : stolenVoice s r = some v := by
  obtain ⟨c, may, best⟩ := h
  have won : allVoices.foldl (bestOf (stealableFrom s r) Claim.sooner) none = some (v, c) := by
    refine bestOf_wins ((stealableFrom_iff c).mpr may) (fun w d lt hd => ?_) fun w d lt hd => ?_
    · rw [sooner_iff]
      exact (best w d ((stealableFrom_iff d).mp hd) lt.ne).imp id fun h => ⟨h.1, h.2.1 lt⟩
    · rw [Bool.eq_false_iff, Ne, sooner_iff]
      rcases best w d ((stealableFrom_iff d).mp hd) lt.ne' with below | ⟨same, _, late⟩
      · omega
      · rw [late lt]
        rintro (above | ⟨_, early⟩)
        · omega
        · cases early
  rw [stolenVoice_eq, won]
  rfl

theorem stolenVoice_none (h : ∀ w c, ¬ mayBeStolen r s w c) : stolenVoice s r = none := by
  rw [stolenVoice_eq, bestOf_nobody fun w => Option.eq_none_iff_forall_ne_some.mpr fun c hc => h w c ((stealableFrom_iff c).mp hc)]
  rfl

/-! ### The voice step (R65, R67) -/

theorem judgeVoice_already (ignore : r.cue.sound.retrigger = .ignore) (h : isFound r s v) :
    judgeVoice s r = .already v (s.voice v).claimNo := by
  obtain ⟨c, found⟩ := foundVoice_found h
  unfold judgeVoice
  rw [ignore, found]

theorem judgeVoice_restart (restart : r.cue.sound.retrigger = .restart) (h : isFound r s v) :
    judgeVoice s r = .take v .restart := by
  obtain ⟨c, found⟩ := foundVoice_found h
  unfold judgeVoice
  rw [restart, found]

theorem judgeVoice_free (h : goesOn r s) : judgeVoice s r =
    match arbiter s r with
    | some (w, way) => .take w way
    | none => .noVoice := by
  unfold judgeVoice
  dsimp only
  rcases h with layer | nobody
  · exact layer ▸ rfl
  · rw [foundVoice_none nobody]
    cases r.cue.sound.retrigger <;> rfl

theorem judgeVoice_obtains {way : Obtained} (h : obtains r s v way) : judgeVoice s r = .take v way := by
  rcases h with ⟨rfl, restart, found⟩ | ⟨free, h⟩
  · exact judgeVoice_restart restart found
  · rw [judgeVoice_free free]
    unfold arbiter
    rcases h with ⟨rfl, idle, first⟩ | ⟨busy, h⟩
    · rw [idleVoice_found idle first]
    · rw [idleVoice_none busy]
      rcases h with ⟨rfl, p, hp, least⟩ | ⟨none_, rfl, stolen⟩
      · rw [releasingVoice_found hp least]
      · rw [releasingVoice_none none_, stolenVoice_found stolen]
        rfl

theorem judgeVoice_noVoice (free : goesOn r s) (busy : ∀ w, (s.voice w).content ≠ .idle)
    (none_ : ∀ w p, (s.voice w).content ≠ .releasing p) (safe : ∀ w c, ¬ mayBeStolen r s w c) : judgeVoice s r = .noVoice := by
  rw [judgeVoice_free free]
  unfold arbiter
  rw [idleVoice_none busy, releasingVoice_none none_, stolenVoice_none safe]
  rfl

end

/-! ### A claim that ends without a voice (R75, R76) -/

/-- The verdict takes no voice. -/
def Verdict.refuses : Verdict → Prop
  | .take _ _ => False
  | _ => True

theorem claim_refused {r : ClaimRequest} {s : State} {x : Verdict} (link : Option Word) (h : judgeClaim s r = x) (refuses : x.refuses) :
    claim r link s = if r.source = .slate then giveResult r.origin x.code (claimDetail s r x) s else emit (refusalReport s r x) s := by
  unfold claim
  rw [h]
  cases x with
  | take v way => exact refuses.elim
  | _ => rfl

theorem emit_reportOnly (x : Report) (s : State) : portOnly (withReports s (emit x s)) (emit x s) := (reportBut_emit x s).1

/-- What the source of a refused claim hears. -/
theorem refusedWith_of {r : ClaimRequest} {s : State} {x : Verdict} (link : Option Word) (h : judgeClaim s r = x) (refuses : x.refuses)
    {code : ResultCode} {detail value : List Byte} {voice : Byte} (hcode : x.code = code) (hdetail : claimDetail s r x = detail)
    (hreport : refusalReport s r x =
      aboutRefusal code r.source r.origin (if r.source = .schedule then r.tag else 0) voice r.cue.entry value s) :
    refusedWith r code detail voice value s (claim r link s) := by
  subst hcode hdetail
  have act := claim_refused link h refuses
  refine ⟨fun slate waits => ?_, fun other => ?_⟩
  · rw [act, if_pos slate]
    exact giveResult_answers waits _ _
  · rw [act, if_neg other, hreport]
    exact ⟨reportBut_emit _ s, (recorded_emit (.refl s)).first⟩

/-- Settles O29. -/
theorem claimRefused : Obligations.ClaimRefused := by
  refine ⟨fun x y => ⟨?_, ?_, ?_, ?_⟩, ?_⟩
  · exact beq_iff_eq
  · exact bne_iff_ne
  · exact decide_eq_true_iff
  · exact decide_eq_true_iff
  rintro r link s t level hops rfl rfl rfl
  refine ⟨fun dropped other => ?_, fun leader held => refusedWith_of link (judgeClaim_held leader held) trivial rfl rfl ?_,
    fun leader hold c hc fails => refusedWith_of link (judgeClaim_condFalse leader hold hc fails) trivial rfl rfl ?_,
    fun leader hold condition => ⟨fun v ignore found => ?_, fun free busy none_ safe => ?_⟩⟩
  · have act := (claim_refused link (judgeClaim_followCancelled dropped) trivial).trans (if_neg other)
    rw [act]
    refine ⟨emit_reportOnly _ s, fun l n leader => ?_⟩
    have report : refusalReport s r .followCancelled =
        aboutNone .followCancelled r.cue.entry (toBytes 1 l.val ++ [0] ++ toBytes 2 n.toNat) s := by
      unfold refusalReport
      dsimp only
      rw [leader]
      rfl
    rw [report]
    exact (recorded_emit (.refl s)).first
  · rfl
  · exact congrArg (fun d => { aboutNone .refused r.cue.entry d s with tag := if r.source = Source.schedule then r.tag else 0 })
      (List.append_assoc (toBytes 1 ResultCode.condFalse.code ++ toBytes 1 r.source.code ++ toBytes 1 r.origin)
        (toBytes 1 c.var.val) (toBytes 2 s.resolver.vars[c.var].toNat))
  · exact refusedWith_of link ((judgeClaim_voice leader hold condition).trans (judgeVoice_already ignore found)) trivial rfl rfl rfl
  · exact refusedWith_of link ((judgeClaim_voice leader hold condition).trans (judgeVoice_noVoice free busy none_ safe)) trivial
      rfl rfl rfl

end Sys2Proof.Machine
end

section
/-! A voice takes a claim (R67, R79), and its priming request (R68, R140). -/

namespace Sys2Proof.Machine

/-! ### What a completed entry leaves alone -/

/-- A completed entry changes what a release can change, and the follow-on requests. -/
theorem completeEntry_releases (v : Fin 24) (s : State) :
    releaseOnly s { completeEntry v s with resolver := s.resolver } := by
  have follow : ∀ z : State, releaseOnly s z → releaseOnly s { testFollow v z with resolver := s.resolver } := by
    intro z h
    have same := h.resolver
    rcases testFollow_cases v z with act | ⟨p, f, _, act⟩
    · rw [act, ← same]
      exact h
    · rw [act, ← same]
      exact h.trans rfl
  unfold completeEntry
  split
  · split
    · next p _ _ l _ =>
      have begun : releaseOnly s { setVoice v ((s.voice v).takeUpHead p) s with startOrder := s.startOrder ++ [v] } := rfl
      have kicked := begun.trans (releaseOnly_kickOthers v p.sound.group _)
      have keyed := kicked.trans (releaseOnly_keyDucks v p.sound.duck _)
      have fired := keyed.trans (releaseOnly_emit (firedReport v p.claim ((p.nextSample s).setWidth 32)) _)
      exact follow _ (fired.trans (releaseOnly_emitLate v p.claim l ((p.nextSample s).setWidth 32) _))
    · exact releaseOnly_refl s
  · exact releaseOnly_refl s

theorem completeEntry_schedule (v : Fin 24) (s : State) : (completeEntry v s).schedule = s.schedule :=
  (completeEntry_releases v s).schedule

theorem completeEntry_trigger (v : Fin 24) (s : State) : (completeEntry v s).trigger = s.trigger :=
  (completeEntry_releases v s).trigger

theorem completeEntry_cache (v : Fin 24) (s : State) : (completeEntry v s).cache = s.cache :=
  (completeEntry_releases v s).cache

theorem completeEntry_clock (v : Fin 24) (s : State) : (completeEntry v s).clock = s.clock :=
  (completeEntry_releases v s).clock

/-! ### The voice that takes a claim (R67, R79) -/

/-- The claim of `r` on a voice, under the number `n`. -/
def ClaimRequest.onVoice (r : ClaimRequest) (n : Half) (way : Obtained) (s : State) : Incoming :=
  { claim := { req := r, number := n, time := s.clock.showTime, obtained := way }
    start := if r.cue.sound.armOnly then .none else r.start
    lateMark := if r.cue.sound.armOnly then none else r.lateMark }

theorem incoming_onVoice (r : ClaimRequest) (n : Half) (way : Obtained) (s : State) :
    Claim.incoming { req := r, number := n, time := now s, obtained := way } = r.onVoice n way s := by
  unfold Claim.incoming ClaimRequest.onVoice
  dsimp only
  cases r.cue.sound.armOnly <;> rfl

/-- A voice record that takes the claim `i`. -/
def Voice.takenBy (x : Voice) (i : Incoming) (way : Obtained) : Voice :=
  { x with
    claimNo := x.claimNo + 1, head := []
    content := match x.content.outgoingFor way with
      | some p => .handover p i false
      | none => .priming i
    lastEnd := match x.content.incoming with
      | some old => some (old.claim.number, false)
      | none => x.lastEnd }

section
variable {v : Fin 24} {r : ClaimRequest} {way : Obtained} {s : State}

theorem releaseOnly_reportSteal (way : Obtained) (v : Fin 24) (c : Claim) (n : Nat) (r : ClaimRequest) (s : State) :
    releaseOnly s (reportSteal way v c n r s) := by
  unfold reportSteal
  split
  · exact releaseOnly_emit _ s
  · exact releaseOnly_refl s

theorem releaseOnly_takeNow (v : Fin 24) (r : ClaimRequest) (way : Obtained) (s : State) : releaseOnly s (takeNow v r way s) := by
  unfold takeNow
  dsimp only
  split
  · exact releaseOnly_setVoice v _ s
  · exact releaseOnly_setVoice v _ s
  · exact (releaseOnly_setVoice v _ s).trans (releaseOnly_reportSteal _ _ _ _ _ _)
  · exact ((((releaseOnly_setVoice v _ s).trans (releaseOnly_leaveOrder v _)).trans (releaseOnly_unkeyDucks v _)).trans
      (releaseOnly_reportSteal _ _ _ _ _ _)).trans (releaseOnly_cancelFollowers v _ _)
  · exact (releaseOnly_setVoice v _ s).trans (releaseOnly_unkeyDucks v _)
  · exact releaseOnly_setVoice v _ s

theorem reportSteal_voice (way : Obtained) (v : Fin 24) (c : Claim) (n : Nat) (r : ClaimRequest) (s : State) (w : Fin 24) :
    (reportSteal way v c n r s).voice w = s.voice w := by
  unfold reportSteal
  split
  · exact emit_voice _ s w
  · rfl

/-- A claim that does not follow the voice it takes. -/
theorem onVoice_follows (h : notLeader r v) (n m : Half) : (r.onVoice n way s).follows v m = false := by
  unfold Incoming.follows ClaimRequest.onVoice
  rw [Bool.and_eq_false_iff]
  refine .inr (beq_eq_false_iff_ne.mpr fun leader => ?_)
  exact h v m leader rfl

theorem takeNow_voice (leader : (s.voice v).content.isSounding = true → notLeader r v) (w : Fin 24) :
    (takeNow v r way s).voice w =
      if w = v then (s.voice v).takenBy (r.onVoice ((s.voice v).claimNo + 1) way s) way
      else (s.voice w).besideRelease v (s.voice v).content := by
  unfold takeNow Voice.takenBy Voice.besideRelease
  dsimp only
  rw [incoming_onVoice]
  cases hc : (s.voice v).content with
  | idle => dsimp only; rw [setVoice_at]; rfl
  | priming old => dsimp only; rw [setVoice_at]; rfl
  | armed old => dsimp only; rw [reportSteal_voice, setVoice_at]; rfl
  | releasing p =>
    dsimp only
    rw [unkeyDucks_voice, setVoice_at]
    rfl
  | handover p old l => dsimp only; rw [setVoice_at]; rfl
  | sounding p =>
    dsimp only
    rw [cancelFollowers_voice, reportSteal_voice, unkeyDucks_voice]
    have order : ∀ (y : State) (x : Fin 24), (leaveOrder v y).voice x = y.voice x := fun _ _ => rfl
    rw [order, setVoice_at]
    by_cases e : w = v
    · subst e
      rw [if_pos rfl, if_pos rfl]
      refine cancelled_of_other fun j hj => ?_
      obtain rfl := Option.some.inj hj
      exact onVoice_follows (leader (congrArg Content.isSounding hc)) _ _
    · rw [if_neg e, if_neg e]

theorem takeNow_startOrder (v : Fin 24) (r : ClaimRequest) (way : Obtained) (s : State) : (takeNow v r way s).startOrder =
    if (s.voice v).content.isSounding then s.startOrder.erase v else s.startOrder := by
  have report : ∀ (c : Claim) (n : Nat) (y : State), (reportSteal way v c n r y).startOrder = y.startOrder := fun c n y => by
    unfold reportSteal
    split
    · exact emit_startOrder _ y
    · rfl
  unfold takeNow
  dsimp only
  cases (s.voice v).content with
  | armed old => exact report _ _ _
  | sounding p =>
    dsimp only
    rw [cancelFollowers_startOrder, report]
    rfl
  | _ => rfl

/-! ### The duck groups of a voice that is taken (R84, R156) -/

theorem join_keying (v w : Fin 24) (d : Duck) : (d.join v).keying.getLsbD w = (d.keying.getLsbD w || decide (w = v)) := by
  have apart : decide (w.val = v.val) = decide (w = v) := decide_eq_decide.mpr Fin.ext_iff.symm
  unfold Duck.join voiceBit
  simp [w.isLt]
  grind

/-- A withdrawal on another voice sets no bit of this one. -/
theorem withdraw_keying {v w : Fin 24} (ne : v ≠ w) {s : State} {g : Fin 4} (h : s.mix.ducks[g].keying.getLsbD v = false) :
    (withdraw w s).mix.ducks[g].keying.getLsbD v = false := by
  unfold withdraw
  dsimp only
  cases (s.voice w).content with
  | priming i => dsimp only; rw [goIdle_ducks, h]; rfl
  | armed i => dsimp only; rw [goIdle_ducks, h]; rfl
  | handover p i l =>
    dsimp only
    cases hd : p.sound.duck with
    | key groups =>
      rw [keyDucks_duck, rejudge_keying]
      split
      · rw [join_keying, show decide (v = w) = false from decide_eq_false ne, Bool.or_false]
        exact h
      · exact h
    | _ => exact h
  | _ => exact h

theorem cancelFollowers_keying {v : Fin 24} {n : Half} {s : State} {g : Fin 4}
    (stays : ∀ i, (s.voice v).content.incoming = some i → i.follows v n = false)
    (h : s.mix.ducks[g].keying.getLsbD v = false) : (cancelFollowers v n s).mix.ducks[g].keying.getLsbD v = false := by
  have all : ∀ (l : List (Fin 24)) (t : State), (∀ i, (t.voice v).content.incoming = some i → i.follows v n = false) →
      t.mix.ducks[g].keying.getLsbD v = false → (l.foldl (cancelFollower v n) t).mix.ducks[g].keying.getLsbD v = false := by
    intro l
    induction l with
    | nil => exact fun _ _ h => h
    | cons w l ih =>
      intro t stays h
      have voice : (cancelFollower v n t w).voice v = t.voice v := by
        rw [cancelFollower_voice]
        split
        · next e =>
          subst e
          exact cancelled_of_other stays
        · rfl
      refine ih _ (by rw [voice]; exact stays) ?_
      have mix : (cancelFollower v n t w).mix = t.mix ∨ v ≠ w ∧ (cancelFollower v n t w).mix = (withdraw w t).mix := by
        unfold cancelFollower
        cases hi : (t.voice w).content.incoming with
        | none => exact .inl rfl
        | some i =>
          dsimp only
          split
          · next follows =>
            refine .inr ⟨fun e => ?_, emit_mix _ _⟩
            subst e
            rw [stays i hi] at follows
            cases follows
          · exact .inl rfl
      rcases mix with same | ⟨ne, same⟩
      · rw [same]
        exact h
      · rw [same]
        exact withdraw_keying ne h
  unfold cancelFollowers
  exact all allVoices s stays h

/-- A voice that was SOUNDING or RELEASING keys no duck group when it has been taken. -/
theorem takeNow_keying (leader : (s.voice v).content.isSounding = true → notLeader r v)
    (plays : (s.voice v).content.playing ≠ none) (none_ : (s.voice v).content.incoming = none) (g : Fin 4) :
    (takeNow v r way s).mix.ducks[g].keying.getLsbD v = false := by
  unfold takeNow
  dsimp only
  rw [incoming_onVoice]
  cases hc : (s.voice v).content with
  | sounding p =>
    dsimp only
    obtain ⟨y, hy⟩ : ∃ y, y = setVoice v { s.voice v with
        claimNo := (s.voice v).claimNo + 1, head := []
        content := .handover (p.outgoing way) (r.onVoice ((s.voice v).claimNo + 1) way s) false } s := ⟨_, rfl⟩
    have voice : (y.voice v).content.incoming = some (r.onVoice ((s.voice v).claimNo + 1) way s) := by
      rw [hy, setVoice_self]
      rfl
    rw [← hy]
    refine cancelFollowers_keying (fun i hi => ?_) ?_
    · rw [reportSteal_voice, unkeyDucks_voice] at hi
      obtain rfl := Option.some.inj (voice.symm.trans hi)
      exact onVoice_follows (leader (congrArg Content.isSounding hc)) _ _
    · have mix : (reportSteal way v p.claim 3 r (unkeyDucks v (leaveOrder v y))).mix = (unkeyDucks v (leaveOrder v y)).mix := by
        unfold reportSteal
        split
        · exact emit_mix _ _
        · rfl
      rw [mix, unkeyDucks_keying, decide_eq_false (not_not.mpr rfl), Bool.and_false]
  | releasing p =>
    dsimp only
    rw [unkeyDucks_keying, decide_eq_false (not_not.mpr rfl), Bool.and_false]
  | idle => rw [hc] at plays; exact absurd rfl plays
  | priming old => rw [hc] at none_; cases none_
  | armed old => rw [hc] at none_; cases none_
  | handover p old l => rw [hc] at none_; cases none_

/-- A steal is told before anything else it causes (R81, log entry 55). -/
theorem takeNow_tells {c : Claim} {state : Byte} (stolen : way = .stolen)
    (old : (∃ a, (s.voice v).content = .armed a ∧ c = a.claim ∧ state = 2)
      ∨ ∃ p, (s.voice v).content = .sounding p ∧ c = p.claim ∧ state = 3) :
    recorded (aboutClaim .stolen v c (toBytes 2 c.number.toNat ++ [state]
      ++ toBytes 1 c.req.cue.sound.priority ++ toBytes 1 r.cue.sound.priority) s) s (takeNow v r way s) := by
  unfold takeNow reportSteal
  dsimp only
  rcases old with ⟨a, hc, rfl, rfl⟩ | ⟨p, hc, rfl, rfl⟩
  · rw [hc]
    dsimp only
    rw [if_pos stolen]
    exact recorded_emit (silent_setVoice v _ s)
  · rw [hc]
    dsimp only
    rw [if_pos stolen]
    have silent : Silent s (unkeyDucks v (leaveOrder v (setVoice v { s.voice v with
        claimNo := (s.voice v).claimNo + 1, head := [], content := .handover (p.outgoing way)
          (Claim.incoming { req := r, number := (s.voice v).claimNo + 1, time := now s, obtained := way }) false } s))) :=
      silent_of_record rfl rfl rfl rfl
    exact (recorded_emit silent).keeps (acts_cancelFollowers (new := fun _ => True) v p.claim.number _).keepsLine

end

end Sys2Proof.Machine
end

section
/-! A claim that obtains a voice: the priming request, and what the source hears (R68, R75, R109, R134, R140). -/

namespace Sys2Proof.Machine

/-! ### The claim before its entry -/

theorem completeEntry_claimNo (v : Fin 24) (s : State) : ((completeEntry v s).voice v).claimNo = (s.voice v).claimNo := by
  by_cases entry : ∃ p l, (s.voice v).content = .sounding p ∧ p.entry = some l
  · obtain ⟨p, l, hp, hl⟩ := entry
    obtain ⟨_, ⟨_, _, number, _⟩, _⟩ := entryEffects_enters (s := s) (v := v) hl
    rw [completeEntry_enters hp hl, number]
  · rw [completeEntry_of_entered fun q hq => ?_]
    cases hl : q.entry with
    | none => rfl
    | some l => exact absurd ⟨q, l, hq, hl⟩ entry

theorem completeEntry_isSounding (v : Fin 24) (s : State) :
    ((completeEntry v s).voice v).content.isSounding = (s.voice v).content.isSounding := by
  by_cases entry : ∃ p l, (s.voice v).content = .sounding p ∧ p.entry = some l
  · obtain ⟨p, l, hp, hl⟩ := entry
    obtain ⟨⟨q, hq, _⟩, _⟩ := entryEffects_enters (s := s) (v := v) hl
    rw [completeEntry_enters hp hl, hq, hp]
    rfl
  · rw [completeEntry_of_entered fun q hq => ?_]
    cases hl : q.entry with
    | none => rfl
    | some l => exact absurd ⟨q, l, hq, hl⟩ entry

/-- A SOUNDING voice that a claim obtains is not the claim's leader (R65, R80). -/
theorem obtains_notLeader {r : ClaimRequest} {s : State} {v : Fin 24} {way : Obtained} (h : obtains r s v way)
    (sounding : (s.voice v).content.isSounding = true) : notLeader r v := by
  rcases h with ⟨_, _, c, holds, _⟩ | ⟨_, ⟨_, idle, _⟩ | ⟨_, ⟨_, p, hp, _⟩ | ⟨_, _, c, may, _⟩⟩⟩
  · exact holds.1
  · rw [idle] at sounding
    cases sounding
  · rw [hp] at sounding
    cases sounding
  · exact may.1

/-! ### The head (R68, R69, R140) -/

/-- What a claim whose head has landed becomes, no boundary having passed it by (R69). -/
def Incoming.landed (i : Incoming) (t : Time) : Content :=
  match i.start with
  | .immediate => .sounding (i.begin true none)
  | .exact stop => if Time.earlier t stop then .armed i else .sounding (i.begin true (some (t + 1 - stop).toNat))
  | _ => .armed i

/-- The content of a voice whose awaited head has landed. -/
def Content.landed (t : Time) : Content → Content
  | .priming i => i.landed t
  | .handover p i _ => .handover p i true
  | c => c

theorem actOnStart_landed {v : Fin 24} {i : Incoming} {s : State} (h : ∀ target, i.start ≠ .atFrame target true) :
    actOnStart v i s = setContent v (i.landed s.clock.showTime) s := by
  refine actOnStart_stands ?_
  unfold Incoming.landed
  cases hs : i.start with
  | frame => exact .inl ⟨.inl rfl, rfl⟩
  | none => exact .inl ⟨.inr (.inl rfl), rfl⟩
  | immediate => exact .inr (.inl ⟨rfl, rfl⟩)
  | atFrame target overdue =>
    cases overdue with
    | false => exact .inl ⟨.inr (.inr (.inl ⟨target, rfl⟩)), rfl⟩
    | true => exact absurd hs (h target)
  | exact stop =>
    dsimp only
    cases early : Time.earlier s.clock.showTime stop with
    | true => exact .inl ⟨.inr (.inr (.inr ⟨stop, rfl, early⟩)), rfl⟩
    | false => exact .inr (.inr (.inl ⟨stop, rfl, early, rfl⟩))

/-- A head that lands for the claim that awaits it. -/
theorem landHead_landed {v : Fin 24} {frames : List Frame} {s : State} {i : Incoming}
    (awaits : (s.voice v).content = .priming i ∨ ∃ p l, (s.voice v).content = .handover p i l)
    (h : ∀ target, i.start ≠ .atFrame target true) : landHead v frames s =
      setVoice v { s.voice v with head := frames, content := (s.voice v).content.landed s.clock.showTime } s := by
  unfold landHead
  dsimp only
  rcases awaits with hc | ⟨p, l, hc⟩
  · rw [hc]
    exact (actOnStart_landed h).trans (setContent_setVoice v _ _ s)
  · rw [hc]
    rfl

section
variable {c : SoundCue} {s : State}

theorem cacheHit_of_cache {t : State} (h : t.cache = s.cache) : cacheHit c t = cacheHit c s := by
  unfold cacheHit
  rw [h]

/-- No PRESENT entry of the head cache holds the clip in its format. -/
theorem cacheHit_none (h : ∀ x ∈ s.cache, x.address = c.clip → x.format = c.format → ∀ f, x.state ≠ .present f) :
    cacheHit c s = none := by
  unfold cacheHit
  cases found : s.cache.find? fun e => e.address == c.clip && e.format == c.format with
  | none => rfl
  | some e =>
    have fits := List.find?_some found
    obtain ⟨address, format⟩ := Bool.and_eq_true_iff.mp fits
    have other := h e (List.mem_of_find?_eq_some found) (beq_iff_eq.mp address) (beq_iff_eq.mp format)
    dsimp only
    cases hs : e.state with
    | present f => exact absurd hs (other f)
    | pending o b => rfl

theorem cacheHit_present (sound : cacheSound s) {x : CacheEntry} {f : List Frame} (mem : x ∈ s.cache) (address : x.address = c.clip)
    (format : x.format = c.format) (present : x.state = .present f) : cacheHit c s = some (f.take (min c.length 2048)) := by
  have found : s.cache.find? (fun e => e.address == c.clip && e.format == c.format) = some x := by
    obtain ⟨e, he⟩ := Option.isSome_iff_exists.mp (List.find?_isSome (p := fun e : CacheEntry =>
      e.address == c.clip && e.format == c.format).mpr ⟨x, mem, by rw [address, format, beq_self_eq_true, beq_self_eq_true]; rfl⟩)
    have fits := List.find?_some he
    have same : e = x := List.inj_on_of_nodup_map sound.2 (List.mem_of_find?_eq_some he) mem
      ((beq_iff_eq.mp (Bool.and_eq_true_iff.mp fits).1).trans address.symm)
    rw [he, same]
  unfold cacheHit
  rw [found]
  dsimp only
  rw [present]
  rfl

end

/-! ### The voice primed for the claim -/

theorem setLink_frame (v : Fin 24) (tag : Half) (link : Option Word) (s : State) :
    { setLink v tag link s with schedule := s.schedule } = s := by
  unfold setLink
  split <;> rfl

theorem setLink_links {v : Fin 24} {tag : Half} {s : State} (target : Word) :
    (setLink v tag (some target) s).schedule.links[v] = some { claim := (s.voice v).claimNo, tag := tag, target := target } := by
  unfold setLink
  dsimp only
  rw [Fin.getElem_fin, Vector.getElem_set_self]

/-- The voice `v` of the state `u` has taken the claim of `r` from the state `s`, with this head and content, before its source
hears of it. -/
structure Primed (v : Fin 24) (r : ClaimRequest) (way : Obtained) (link : Option Word) (head : List Frame) (content : Content)
    (s u p : State) : Prop where
  voice : ∀ w, p.voice w =
    if w = v then { (u.voice v).takenBy (r.onVoice ((s.voice v).claimNo + 1) way s) way with head := head, content := content }
    else (u.voice w).besideRelease v (u.voice v).content
  startOrder : p.startOrder = if (u.voice v).content.isSounding then u.startOrder.erase v else u.startOrder
  slate : p.slate = s.slate
  trigger : p.trigger = s.trigger
  linked : ∀ target, link = some target →
    p.schedule.links[v] = some { claim := (s.voice v).claimNo + 1, tag := r.tag, target := target }
  unlinked : link = none → p.schedule = s.schedule
  keying : (u.voice v).content.playing ≠ none → (u.voice v).content.incoming = none →
    ∀ g : Fin 4, p.mix.ducks[g].keying.getLsbD v = false
  line : keepsLine (takeNow v r way u) p

section
variable {v : Fin 24} {r : ClaimRequest} {way : Obtained} {link : Option Word} {s u : State}

/-- The content of a voice that has taken a claim: it awaits the head. -/
theorem takenBy_awaits (x : Voice) (i : Incoming) (way : Obtained) :
    (x.takenBy i way).content = .priming i ∨ ∃ p l, (x.takenBy i way).content = .handover p i l := by
  unfold Voice.takenBy
  dsimp only
  cases x.content.outgoingFor way with
  | none => exact .inl rfl
  | some p => exact .inr ⟨p, false, rfl⟩

/-- The state in which the priming request is made. -/
theorem primed_linked (hu : u = completeEntry v s) (leader : (s.voice v).content.isSounding = true → notLeader r v) :
    Primed v r way link [] ((u.voice v).takenBy (r.onVoice ((s.voice v).claimNo + 1) way s) way).content s u
        (setLink v r.tag link (takeVoice v r way s))
      ∧ (setLink v r.tag link (takeVoice v r way s)).cache = s.cache
      ∧ (setLink v r.tag link (takeVoice v r way s)).clock = s.clock
      ∧ (setLink v r.tag link (takeVoice v r way s)).port = (takeNow v r way u).port := by
  obtain ⟨y, hy⟩ : ∃ y, y = takeNow v r way u := ⟨_, rfl⟩
  obtain ⟨z, hz⟩ : ∃ z, z = setLink v r.tag link y := ⟨_, rfl⟩
  have act : setLink v r.tag link (takeVoice v r way s) = z := by
    rw [hz, hy, hu]
    rfl
  have release : releaseOnly u y := hy ▸ releaseOnly_takeNow v r way u
  have frame : { z with schedule := y.schedule } = y := hz ▸ setLink_frame v r.tag link y
  have number : (u.voice v).claimNo = (s.voice v).claimNo := hu ▸ completeEntry_claimNo v s
  have clock : u.clock = s.clock := hu ▸ completeEntry_clock v s
  have leader' : (u.voice v).content.isSounding = true → notLeader r v := fun h => by
    rw [hu, completeEntry_isSounding] at h
    exact leader h
  have claim : r.onVoice ((u.voice v).claimNo + 1) way u = r.onVoice ((s.voice v).claimNo + 1) way s := by
    unfold ClaimRequest.onVoice
    rw [number, clock]
  have voice : ∀ w, y.voice w = if w = v then (u.voice v).takenBy (r.onVoice ((s.voice v).claimNo + 1) way s) way
      else (u.voice w).besideRelease v (u.voice v).content := fun w => by
    rw [hy, takeNow_voice leader', claim]
  have voices : z.voices = y.voices := by
    have same := congrArg State.voices frame
    exact same
  rw [act, ← hy]
  refine ⟨⟨fun w => ?_, ?_, ?_, ?_, fun target hl => ?_, fun hl => ?_, fun plays none_ g => ?_, ?_⟩, ?_, ?_, ?_⟩
  · rw [voice_of_voices voices, voice]
    rfl
  · have same := congrArg State.startOrder frame
    refine Eq.trans same ?_
    rw [hy, takeNow_startOrder]
  · have same := congrArg State.slate frame
    exact Eq.trans same (release.slate.trans (hu ▸ completeEntry_slate v s))
  · have same := congrArg State.trigger frame
    exact Eq.trans same (release.trigger.trans (hu ▸ completeEntry_trigger v s))
  · rw [hz, hl, setLink_links, voice v, if_pos rfl]
    have taken : ((u.voice v).takenBy (r.onVoice ((s.voice v).claimNo + 1) way s) way).claimNo = (s.voice v).claimNo + 1 :=
      congrArg (· + 1) number
    rw [taken]
  · rw [hz, hl]
    exact release.schedule.trans (hu ▸ completeEntry_schedule v s)
  · have mix : z.mix = y.mix := by
      have same := congrArg State.mix frame
      exact same
    rw [mix, hy]
    exact takeNow_keying leader' plays none_ g
  · have port : z.port = y.port := by
      have same := congrArg State.port frame
      exact same
    rw [← hy]
    exact keepsLine_of_port port
  · have same := congrArg State.cache frame
    exact Eq.trans same (release.cache.trans (hu ▸ completeEntry_cache v s))
  · have same := congrArg State.clock frame
    exact Eq.trans same (release.clock.trans clock)
  · have same := congrArg State.port frame
    exact same

/-- With no PRESENT entry for its clip, the claim's HEAD job is placed (R140). -/
theorem primed_miss (hu : u = completeEntry v s) (leader : (s.voice v).content.isSounding = true → notLeader r v)
    (miss : cacheHit r.cue.sound s = none) :
    ∃ p, p = primingRequest v r.cue.sound (setLink v r.tag link (takeVoice v r way s))
      ∧ Primed v r way link [] ((u.voice v).takenBy (r.onVoice ((s.voice v).claimNo + 1) way s) way).content s u p
      ∧ atPort (readJob (.head v ((s.voice v).claimNo + 1)) r.cue.sound.clip.toNat
          (min r.cue.sound.length 2048 * r.cue.sound.format.size)) p := by
  obtain ⟨primed, cache, _, _⟩ := primed_linked (link := link) (way := way) hu leader
  obtain ⟨z, hz⟩ : ∃ z, z = setLink v r.tag link (takeVoice v r way s) := ⟨_, rfl⟩
  rw [← hz] at primed cache ⊢
  have number : (z.voice v).claimNo = (s.voice v).claimNo + 1 := by
    have same : (u.voice v).claimNo = (s.voice v).claimNo := hu ▸ completeEntry_claimNo v s
    rw [primed.voice, if_pos rfl]
    exact congrArg (· + 1) same
  have act : primingRequest v r.cue.sound z = place (readJob (.head v ((s.voice v).claimNo + 1)) r.cue.sound.clip.toNat
      (min r.cue.sound.length 2048 * r.cue.sound.format.size)) z := by
    unfold primingRequest
    rw [cacheHit_of_cache cache, miss, number]
    rfl
  refine ⟨_, rfl, ?_, ?_⟩
  · rw [act]
    exact ⟨primed.voice, primed.startOrder, primed.slate, primed.trigger, primed.linked, primed.unlinked, primed.keying,
      primed.line.trans (keepsLine_place _ z)⟩
  · rw [act]
    exact atPort_place_self _ z

/-- A PRESENT entry for its clip serves the claim's head (R140). -/
theorem primed_hit (hu : u = completeEntry v s) (leader : (s.voice v).content.isSounding = true → notLeader r v)
    (start : ∀ target, r.start ≠ .atFrame target true) {frames : List Frame} (hit : cacheHit r.cue.sound s = some frames) :
    ∃ p, p = primingRequest v r.cue.sound (setLink v r.tag link (takeVoice v r way s))
      ∧ Primed v r way link frames
          (((u.voice v).takenBy (r.onVoice ((s.voice v).claimNo + 1) way s) way).content.landed s.clock.showTime) s u p
      ∧ p.port = (takeNow v r way u).port := by
  obtain ⟨primed, cache, clock, port⟩ := primed_linked (link := link) (way := way) hu leader
  obtain ⟨z, hz⟩ : ∃ z, z = setLink v r.tag link (takeVoice v r way s) := ⟨_, rfl⟩
  rw [← hz] at primed cache clock port ⊢
  have voice := primed.voice v
  rw [if_pos rfl] at voice
  have content : (z.voice v).content = ((u.voice v).takenBy (r.onVoice ((s.voice v).claimNo + 1) way s) way).content := by
    rw [voice]
  have begins : ∀ target, (r.onVoice ((s.voice v).claimNo + 1) way s).start ≠ .atFrame target true := by
    intro target
    unfold ClaimRequest.onVoice
    dsimp only
    split
    · exact nofun
    · exact start target
  have act : primingRequest v r.cue.sound z = setVoice v { z.voice v with
      head := frames, content := (z.voice v).content.landed s.clock.showTime } z := by
    unfold primingRequest
    rw [cacheHit_of_cache cache, hit, ← clock]
    exact landHead_landed (by rw [content]; exact takenBy_awaits _ _ _) begins
  refine ⟨_, rfl, ?_, ?_⟩
  · rw [act]
    refine ⟨fun w => ?_, primed.startOrder, primed.slate, primed.trigger, primed.linked, primed.unlinked, primed.keying, primed.line⟩
    rw [setVoice_at]
    by_cases e : w = v
    · subst e
      rw [if_pos rfl, if_pos rfl, content, voice]
    · rw [if_neg e, if_neg e, primed.voice, if_neg e]
  · rw [act]
    exact port

end

end Sys2Proof.Machine
end

section
/-! A claim that obtains a voice: the whole of it (R53, R65 to R68, R75, R79 to R81, R84, R109, R134, R140). -/

namespace Sys2Proof.Machine

/-! ### The source hears of it (R75, R134) -/

/-- The claim comes from a key that has been released, with hold-to-play set. -/
def keyReleased (r : ClaimRequest) (s : State) : Prop :=
  r.source = .key ∧ ∃ k : Fin 8, k.val = r.origin ∧ s.trigger.keys[k].level = false ∧ s.trigger.keyMap[k].holdToPlay = true

/-- The state with the hold-to-play link of a key put. -/
def withLink (k : Fin 8) (l : Option (Fin 24 × Half)) (s : State) : State :=
  { s with trigger := { s.trigger with holdLinks := s.trigger.holdLinks.set k l } }

theorem withLink_self (k : Fin 8) (l : Option (Fin 24 × Half)) (s : State) : (withLink k l s).trigger.holdLinks[k] = l := by
  unfold withLink
  dsimp only
  rw [Fin.getElem_fin, Vector.getElem_set_self]

theorem handBack_keeps {k : Fin 8} {v : Fin 24} {n : Half} {s : State}
    (h : ¬ (s.trigger.keys[k].level = false ∧ s.trigger.keyMap[k].holdToPlay = true)) :
    handBack k v n s = withLink k (some (v, n)) s := by
  unfold handBack
  cases level : s.trigger.keys[k].level with
  | true => rfl
  | false =>
    cases hold : s.trigger.keyMap[k].holdToPlay with
    | true => exact absurd ⟨level, hold⟩ h
    | false => rfl

theorem handBack_releases {k : Fin 8} {v : Fin 24} {n : Half} {s : State} (level : s.trigger.keys[k].level = false)
    (hold : s.trigger.keyMap[k].holdToPlay = true) : handBack k v n s = holdToPlayRelease v n (withLink k none s) := by
  unfold handBack
  rw [level, hold]
  rfl

/-- What a source hears of its claim, when no released key is to release it, leaves the voices alone. -/
structure Heard (p t : State) : Prop where
  voices : t.voices = p.voices
  startOrder : t.startOrder = p.startOrder
  mix : t.mix = p.mix
  schedule : t.schedule = p.schedule
  resolver : t.resolver = p.resolver
  line : keepsLine p t
  there : ∀ j, atPort j p → atPort j t
  only : ∀ j, atPort j t → atPort j p ∨ j.kind.completes

section
variable {v : Fin 24} {way : Obtained} {r : ClaimRequest} {n : Half} {p : State}

theorem claimTaken_heard (h : ¬ keyReleased r p) : Heard p (claimTaken v way r n p) := by
  have still : ∀ t : State, t = p ∨ (∃ k, t = withLink k (some (v, n)) p) → Heard p t := by
    rintro t (rfl | ⟨k, rfl⟩)
    · exact ⟨rfl, rfl, rfl, rfl, rfl, keepsLine_refl _, fun _ => id, fun _ => .inl⟩
    · exact ⟨rfl, rfl, rfl, rfl, rfl, keepsLine_of_port rfl, fun _ => id, fun _ => .inl⟩
  unfold claimTaken
  cases hs : r.source with
  | slate =>
    have goes := portGoesOn_giveResult (new := fun j => j.kind.completes) r.origin .ok (takenDetail v n way r) p fun _ => id
    exact ⟨giveResult_voices _ _ _ p, giveResult_startOrder _ _ _ p, giveResult_mix _ _ _ p, giveResult_schedule _ _ _ p,
      giveResult_resolver _ _ _ p, keepsLine_giveResult _ _ _ p, fun _ hj => atPort_giveResult _ _ _ hj, goes.2.2.2.1⟩
  | key =>
    dsimp only
    split
    · next low =>
      exact still _ (.inr ⟨_, handBack_keeps fun released => h ⟨hs, ⟨r.origin, low⟩, rfl, released⟩⟩)
    · exact still p (.inl rfl)
  | _ => exact still p (.inl rfl)

theorem claimTaken_slate (slate : r.source = .slate) (waits : awaiting r.origin p) :
    resultOf r.origin (claimTaken v way r n p) = some (.ok, takenDetail v n way r) := by
  unfold claimTaken
  rw [slate]
  exact giveResult_resultOf _ _ waits

theorem claimTaken_key (key : r.source = .key) (h : ¬ keyReleased r p) {k : Fin 8} (origin : k.val = r.origin) :
    (claimTaken v way r n p).trigger.holdLinks[k] = some (v, n) := by
  obtain ⟨m, low⟩ := k
  obtain rfl : m = r.origin := origin
  unfold claimTaken
  rw [key]
  dsimp only
  rw [dif_pos low, handBack_keeps fun released => h ⟨key, ⟨r.origin, low⟩, rfl, released⟩]
  exact withLink_self _ _ p

/-- The claim of a released key is released at once, and its link stays empty (R98, R134). -/
theorem claimTaken_released {k : Fin 8} (key : r.source = .key) (origin : k.val = r.origin) (level : p.trigger.keys[k].level = false)
    (hold : p.trigger.keyMap[k].holdToPlay = true) (number : (p.voice v).claimNo = n) :
    claimTaken v way r n p = (match (p.voice v).content with
      | .handover _ _ _ => withdrawEnded v .released (withLink k none p)
      | _ => releaseVoice v .released (fun q => q.sound.fadeOut) true (withLink k none p)) := by
  obtain ⟨m, low⟩ := k
  obtain rfl : m = r.origin := origin
  unfold claimTaken
  rw [key]
  dsimp only
  rw [dif_pos low, handBack_releases level hold]
  unfold holdToPlayRelease
  exact if_pos number

end

/-! ### The claim -/

theorem claim_takes {r : ClaimRequest} {s : State} {v : Fin 24} {way : Obtained} (link : Option Word) (leader : leaderHolds r s)
    (hold : holdLets r s) (condition : conditionLets r s) (h : obtains r s v way) : claim r link s =
      claimTaken v way r ((s.voice v).claimNo + 1)
        (primingRequest v r.cue.sound (setLink v r.tag link (takeVoice v r way s))) := by
  unfold claim
  rw [judgeClaim_voice leader hold condition, judgeVoice_obtains h]

section
variable {v : Fin 24} {r : ClaimRequest} {way : Obtained} {link : Option Word} {head : List Frame} {content : Content}
  {s u p t : State}

/-- The records of the voices, the start order and the duck groups, once the source has heard of the claim. -/
theorem primed_voice (h : Primed v r way link head content s u p) (number : (u.voice v).claimNo = (s.voice v).claimNo) :
    (p.voice v).claimNo = (s.voice v).claimNo + 1 ∧ (p.voice v).content = content ∧ (p.voice v).head = head
      ∧ (∀ old, (u.voice v).content.incoming = some old → (p.voice v).lastEnd = some (old.claim.number, false))
      ∧ ((u.voice v).content.incoming = none → (p.voice v).lastEnd = (u.voice v).lastEnd) := by
  have voice := h.voice v
  rw [if_pos rfl] at voice
  rw [voice]
  refine ⟨congrArg (· + 1) number, rfl, rfl, fun old ho => ?_, fun none_ => ?_⟩
  · unfold Voice.takenBy
    dsimp only
    rw [ho]
  · unfold Voice.takenBy
    dsimp only
    rw [none_]

theorem primed_others (h : Primed v r way link head content s u p) {q : Playing} (hq : (u.voice v).content = .sounding q)
    (voices : t.voices = p.voices) : othersAlike v q.claim.number u t := by
  intro w ne stays
  have same : t.voice w = u.voice w := by
    rw [voice_of_voices voices, h.voice, if_neg ne, hq]
    exact cancelled_of_other stays
  unfold voiceAlike
  rw [same]

theorem primed_alike (h : Primed v r way link head content s u p) (silent : (u.voice v).content.isSounding = false)
    (voices : t.voices = p.voices) {w : Fin 24} (ne : w ≠ v) : t.voice w = u.voice w := by
  rw [voice_of_voices voices, h.voice, if_neg ne]
  unfold Voice.besideRelease
  cases hc : (u.voice v).content with
  | sounding q => rw [hc] at silent; cases silent
  | _ => rfl

/-- The content of a voice that has taken a claim. -/
theorem takenBy_handover {x : Voice} {i : Incoming} {q : Playing} (h : x.content.outgoingFor way = some q) :
    (x.takenBy i way).content = .handover q i false := by
  unfold Voice.takenBy
  dsimp only
  rw [h]

theorem takenBy_priming {x : Voice} {i : Incoming} (h : x.content.outgoingFor way = none) :
    (x.takenBy i way).content = .priming i := by
  unfold Voice.takenBy
  dsimp only
  rw [h]

/-- A claim whose head is served at once, as its start asks. -/
theorem landed_cases (i : Incoming) (x : Time) :
    ((i.start = .frame ∨ i.start = .none ∨ (∃ target, i.start = .atFrame target false)
        ∨ ∃ stop, i.start = .exact stop ∧ Time.earlier x stop = true) → i.landed x = .armed i)
      ∧ (i.start = .immediate → i.landed x = .sounding (i.begin true none))
      ∧ ∀ stop, i.start = .exact stop → Time.earlier x stop = false →
        i.landed x = .sounding (i.begin true (some (x + 1 - stop).toNat)) := by
  unfold Incoming.landed
  refine ⟨?_, fun start => by rw [start], fun stop start late => ?_⟩
  · rintro (start | start | ⟨target, start⟩ | ⟨stop, start, early⟩) <;> rw [start]
    exact if_pos early
  · rw [start]
    exact if_neg (Bool.eq_false_iff.mp late)

end

/-! ### The claim of a released key (R98, R134) -/

theorem releaseVoice_unsounded {v : Fin 24} {s : State} {i : Incoming}
    (hc : (s.voice v).content = .priming i ∨ (s.voice v).content = .armed i) (r : EndReason) (f : Playing → Nat) (b : Bool) :
    releaseVoice v r f b s = withdrawEnded v r s := by
  have entered : completeEntry v s = s := completeEntry_of_entered fun q hq => by
    rcases hc with h | h <;> rw [h] at hq <;> cases hq
  unfold releaseVoice releaseNow
  rw [entered]
  rcases hc with h | h <;> rw [h]

section
variable {v : Fin 24} {r : ClaimRequest} {way : Obtained} {n : Half} {p : State} {k : Fin 8}

/-- A claim that has not sounded is withdrawn as its key is told. -/
theorem claimTaken_withdraws (key : r.source = .key) (origin : k.val = r.origin) (level : p.trigger.keys[k].level = false)
    (hold : p.trigger.keyMap[k].holdToPlay = true) (number : (p.voice v).claimNo = n) {i : Incoming}
    (hi : (p.voice v).content.incoming = some i) :
    claimTaken v way r n p = withdrawEnded v .released (withLink k none p) := by
  rw [claimTaken_released key origin level hold number]
  cases hc : (p.voice v).content with
  | handover q j l => rfl
  | priming j => exact releaseVoice_unsounded (s := withLink k none p) (.inl hc) _ _ _
  | armed j => exact releaseVoice_unsounded (s := withLink k none p) (.inr hc) _ _ _
  | _ => rw [hc] at hi; cases hi

/-- What the withdrawal leaves. -/
theorem claimTaken_withdrawn (key : r.source = .key) (origin : k.val = r.origin) (level : p.trigger.keys[k].level = false)
    (hold : p.trigger.keyMap[k].holdToPlay = true) (number : (p.voice v).claimNo = n) {i : Incoming}
    (hi : (p.voice v).content.incoming = some i) :
    ((claimTaken v way r n p).voice v).content = (p.voice v).content.afterWithdraw
      ∧ ((claimTaken v way r n p).voice v).lastEnd = some (i.claim.number, false)
      ∧ (∀ w, w ≠ v → (claimTaken v way r n p).voice w = p.voice w)
      ∧ (claimTaken v way r n p).startOrder = p.startOrder := by
  rw [claimTaken_withdraws key origin level hold number hi]
  refine ⟨?_, ?_, fun w ne => ?_, withdrawEnded_startOrder v .released _⟩
  · rw [withdrawEnded_voice, if_pos rfl]
    exact withdrawn_content _
  · rw [withdrawEnded_voice, if_pos rfl]
    exact withdrawn_lastEnd hi
  · rw [withdrawEnded_voice, if_neg ne]
    rfl

/-- A claim that is SOUNDING from the next sample on enters, and is released by its fade-out. -/
theorem claimTaken_fades (key : r.source = .key) (origin : k.val = r.origin) (level : p.trigger.keys[k].level = false)
    (hold : p.trigger.keyMap[k].holdToPlay = true) (number : (p.voice v).claimNo = n) {b : Playing} {l : Lateness}
    (hb : (p.voice v).content = .sounding b) (entry : b.entry = some l) :
    ∃ f, ((claimTaken v way r n p).voice v).content =
      Playing.released { b with entry := none, followPlaced := f } b.sound.fadeOut .released := by
  rw [claimTaken_released key origin level hold number, hb]
  have content : ((withLink k none p).voice v).content = .sounding b := hb
  obtain ⟨⟨q, hq, same⟩, _⟩ := entryEffects_enters (s := withLink k none p) (v := v) entry
  refine ⟨q.followPlaced, ?_⟩
  have whole : q = { b with entry := none, followPlaced := q.followPlaced } :=
    congrArg (fun x : Playing => { x with followPlaced := q.followPlaced }) same
  dsimp only
  unfold releaseVoice
  rw [releaseNow_self, completeEntry_enters content entry, hq, whole]
  rfl

theorem claimTaken_unlinks (key : r.source = .key) (origin : k.val = r.origin) (level : p.trigger.keys[k].level = false)
    (hold : p.trigger.keyMap[k].holdToPlay = true) (number : (p.voice v).claimNo = n) :
    (claimTaken v way r n p).trigger.holdLinks[k] = none := by
  have same : (claimTaken v way r n p).trigger = (withLink k none p).trigger := by
    rw [claimTaken_released key origin level hold number]
    have releases : ∀ y : State, (releaseVoice v .released (fun q => q.sound.fadeOut) true y).trigger = y.trigger := fun y =>
      (releaseOnly_releaseNow v _ _ _ _).trigger.trans (completeEntry_trigger v y)
    cases (p.voice v).content with
    | handover q j l => exact (releaseOnly_withdrawEnded v _ _).trigger
    | _ => exact releases _
  rw [same]
  exact withLink_self k none p

end

/-- A claim that takes an IDLE voice and places its HEAD job hands no report on. -/
theorem silent_primingRequest {v : Fin 24} {r : ClaimRequest} {way : Obtained} {s : State} (link : Option Word)
    (idle : (s.voice v).content = .idle) (miss : cacheHit r.cue.sound s = none) :
    Silent s (primingRequest v r.cue.sound (setLink v r.tag link (takeVoice v r way s))) := by
  have taken : Silent s (takeVoice v r way s) := by
    unfold takeVoice
    rw [completeEntry_of_entered fun q hq => (by rw [idle] at hq; cases hq)]
    unfold takeNow
    dsimp only
    rw [idle]
    exact silent_setVoice v _ s
  have cache : (setLink v r.tag link (takeVoice v r way s)).cache = s.cache :=
    (primed_linked (link := link) (way := way) rfl fun sounding => by rw [idle] at sounding; cases sounding).2.1
  have linked : ∀ y : State, Silent y (setLink v r.tag link y) := fun y => by
    unfold setLink
    split
    · exact silent_of_record rfl rfl rfl rfl
    · exact .refl y
  have placed : ∀ (j : Job) (y : State), Silent y (place j y) := fun j y => ⟨rfl, rfl, rfl, keepsLine_place j y⟩
  unfold primingRequest
  rw [cacheHit_of_cache cache, miss]
  exact (taken.trans (linked _)).trans (placed _ _)

end Sys2Proof.Machine
end

section
/-! The claim that obtains a voice, as its source and the voices see it (R65 to R68, R75, R79 to R81, R109, R134, R140). -/

namespace Sys2Proof.Machine

section
variable {v : Fin 24} {r : ClaimRequest} {way : Obtained} {link : Option Word} {s u p : State}

/-- Whatever the head cache holds, the voice is primed for the claim. -/
theorem primed_any (hu : u = completeEntry v s) (leader : (s.voice v).content.isSounding = true → notLeader r v)
    (start : ∀ target, r.start ≠ .atFrame target true)
    (hp : p = primingRequest v r.cue.sound (setLink v r.tag link (takeVoice v r way s))) :
    ∃ head content, Primed v r way link head content s u p := by
  cases hit : cacheHit r.cue.sound s with
  | none =>
    obtain ⟨p', hp', primed, _⟩ := primed_miss (link := link) (way := way) hu leader hit
    obtain rfl := hp'.trans hp.symm
    exact ⟨_, _, primed⟩
  | some frames =>
    obtain ⟨p', hp', primed, _⟩ := primed_hit (link := link) (way := way) hu leader start hit
    obtain rfl := hp'.trans hp.symm
    exact ⟨_, _, primed⟩

theorem cls_of_told {k : JobKind} (h : k.reports ∨ k.completes) : k.cls = .house := by
  cases k <;> simp_all [JobKind.reports, JobKind.completes, JobKind.cls]

/-- No HEAD job is placed but the claim's own. -/
theorem takes_noHead (port : p.port = (takeNow v r way (completeEntry v s)).port) {t : State} (heard : Heard p t) (j : Job)
    (hj : atPort j t) (head : j.kind.cls = .head) : atPort j s := by
  have other : ∀ k : Job, k.kind.reports ∨ k.kind.completes → k.kind.cls ≠ .head := fun k hk e => by
    rw [cls_of_told hk] at e
    cases e
  have chain : Acts (fun k => k.kind.reports ∨ k.kind.completes) s (takeNow v r way (completeEntry v s)) :=
    (acts_takeNow _ _ _ _).then (acts_completeEntry _ _)
  rcases heard.only j hj with at_p | new
  · have at_y : atPort j (takeNow v r way (completeEntry v s)) := by
      unfold atPort at at_p ⊢
      rw [← port]
      exact at_p
    rcases chain.only (fun _ => id) j at_y with before | new
    · exact before
    · exact absurd head (other j new)
  · exact absurd head (other j (.inr new))

end

theorem primingRequest_clock (v : Fin 24) (r : ClaimRequest) (way : Obtained) (link : Option Word) (s : State) :
    (primingRequest v r.cue.sound (setLink v r.tag link (takeVoice v r way s))).clock = s.clock := by
  have linked : ∀ y : State, (setLink v r.tag link y).clock = y.clock := fun y => by
    have same := congrArg State.clock (setLink_frame v r.tag link y)
    exact same
  have primes := congrArg Quiet.clock (quiet_primingRequest v r.cue.sound (setLink v r.tag link (takeVoice v r way s)))
  have takes := congrArg Quiet.clock (quiet_takeVoice v r way s)
  exact Eq.trans primes ((linked _).trans takes)

/-- A withdrawal with its ENDED. -/
theorem withdrawEnded_emits {v : Fin 24} {i : Incoming} {s : State} (hi : (s.voice v).content.incoming = some i) (r : EndReason) :
    withdrawEnded v r s = emit (endedReport v i.claim r false (now32 s)) (withdraw v s) := by
  have clock : (withdraw v s).clock = s.clock := by rw [withdraw_eq]
  unfold withdrawEnded emitEnded now32
  rw [hi, clock]

/-- Settles O30. -/
theorem claimTakesVoice : Obligations.ClaimTakesVoice := by
  intro r link s t u v way n i released leader hold condition ob start rel ht hu hn hi
  obtain ⟨p, hp⟩ : ∃ p, p = primingRequest v r.cue.sound (setLink v r.tag link (takeVoice v r way s)) := ⟨_, rfl⟩
  have act : t = claimTaken v way r n p := by
    rw [ht, claim_takes link leader hold condition ob, ← hp, hn]
  have own := fun sounding => obtains_notLeader ob sounding
  have claimed : i = r.onVoice ((s.voice v).claimNo + 1) way s := by
    rw [hi, hn]
    rfl
  have number : (u.voice v).claimNo = (s.voice v).claimNo := hu ▸ completeEntry_claimNo v s
  have rest : t.rest = s.rest := by
    rw [ht]
    exact rest_of_quiet (quiet_claim r link s)
  obtain ⟨head, content, primed⟩ := primed_any (link := link) hu own start hp
  obtain ⟨primedNo, _, _, ended, kept⟩ := primed_voice primed number
  rw [← hn] at primedNo
  have keys : keyReleased r p ↔ released = true := by
    rw [rel]
    unfold keyReleased
    rw [primed.trigger]
  have missed : (∀ x ∈ s.cache, x.address = r.cue.sound.clip → x.format = r.cue.sound.format → ∀ f, x.state ≠ .present f) →
      cacheHit r.cue.sound s = none ∧ (p.voice v).content = ((u.voice v).takenBy i way).content ∧ (p.voice v).head = []
      ∧ atPort (readJob (.head v n) r.cue.sound.clip.toNat (min r.cue.sound.length 2048 * r.cue.sound.format.size)) p := by
    intro none_
    obtain ⟨p', hp', primed', job⟩ := primed_miss (link := link) (way := way) hu own (cacheHit_none none_)
    obtain rfl := hp'.trans hp.symm
    obtain ⟨_, content', head', _, _⟩ := primed_voice primed' number
    rw [claimed, hn]
    exact ⟨cacheHit_none none_, content', head', job⟩
  have served : ∀ x f, cacheSound s → x ∈ s.cache → x.address = r.cue.sound.clip → x.format = r.cue.sound.format →
      x.state = .present f → (p.voice v).content = ((u.voice v).takenBy i way).content.landed s.clock.showTime
        ∧ (p.voice v).head = f.take (min r.cue.sound.length 2048) ∧ p.port = (takeNow v r way (completeEntry v s)).port := by
    intro x f sound mem address format present
    obtain ⟨p', hp', primed', port⟩ := primed_hit (link := link) (way := way) hu own start
      (cacheHit_present sound mem address format present)
    obtain rfl := hp'.trans hp.symm
    obtain ⟨_, content', head', _, _⟩ := primed_voice primed' number
    rw [claimed]
    exact ⟨content', head', hu ▸ port⟩
  refine ⟨fun free => ?_, fun free => ?_⟩
  · have unheld : ¬ keyReleased r p := fun h => by
      rw [keys, free] at h
      cases h
    have heard : Heard p t := act ▸ claimTaken_heard unheld
    have voice : ∀ w, t.voice w = p.voice w := fun w => voice_of_voices heard.voices w
    refine ⟨⟨?_, rest, fun old ho => ?_, fun none_ => ?_, heard.startOrder.trans primed.startOrder, fun plays none_ g => ?_,
      fun q hq => primed_others primed hq heard.voices, fun silent w ne => primed_alike primed silent heard.voices ne⟩,
      fun none_ => ?_, fun x f sound mem address format present => ?_, ⟨fun target hl => ?_, fun hl => ?_⟩,
      fun c state stolen old => ?_, fun slate waits => ?_, fun key k origin => ?_⟩
    · rw [voice, primedNo]
    · rw [voice]
      exact ended old ho
    · rw [voice]
      exact kept none_
    · rw [heard.mix]
      exact primed.keying plays none_ g
    · obtain ⟨_, content', head', job⟩ := missed none_
      refine ⟨fun q hq => ?_, fun hq => ?_, ?_, heard.there _ job⟩
      · rw [voice, content']
        exact takenBy_handover hq
      · rw [voice, content']
        exact takenBy_priming hq
      · rw [voice, head']
    · obtain ⟨content', head', port⟩ := served x f sound mem address format present
      refine ⟨fun q hq => ?_, ?_, fun hq => ?_, fun j hj head => takes_noHead port heard j hj head⟩
      · rw [voice, content', takenBy_handover hq]
        rfl
      · rw [voice, head']
      · have landed : (t.voice v).content = i.landed s.clock.showTime := by
          rw [voice, content', takenBy_priming hq]
          rfl
        unfold entersNext
        rw [landed]
        exact landed_cases i s.clock.showTime
    · rw [heard.schedule, primed.linked target hl, hn]
    · rw [heard.schedule, primed.unlinked hl]
    · exact (((takeNow_tells stolen old).keeps primed.line).keeps heard.line).first
    · rw [act, claimTaken_slate slate, hn]
      · rfl
      · unfold awaiting slotAt
        rw [primed.slate]
        exact waits
    · rw [act]
      exact claimTaken_key key unheld origin
  · obtain ⟨key, k, origin, level, holds⟩ := keys.mpr free
    have withdrawn : ∀ j, (p.voice v).content.incoming = some j → _ := fun j hj =>
      claimTaken_withdrawn (way := way) key origin level holds primedNo hj
    rw [← act] at withdrawn
    have claimNo : i.claim.number = n := by rw [hi]
    have awaited : ((u.voice v).takenBy i way).content.incoming = some i := by
      rcases takenBy_awaits (u.voice v) i way with hc | ⟨q, l, hc⟩ <;> rw [hc] <;> rfl
    have fading : ∀ q, ((u.voice v).content.outgoingFor way) = some q → (p.voice v).content = .handover q i false ∨
        (p.voice v).content = .handover q i true → (t.voice v).content = .releasing q := by
      intro q _ hc
      have unsounded : (p.voice v).content.incoming = some i := by rcases hc with hc | hc <;> rw [hc] <;> rfl
      rw [(withdrawn i unsounded).1]
      rcases hc with hc | hc <;> rw [hc] <;> rfl
    refine ⟨⟨rest, fun k' origin' => ?_⟩, fun none_ => ?_, fun x f sound mem address format present => ?_⟩
    · obtain rfl : k' = k := Fin.ext (origin'.trans origin.symm)
      rw [act]
      exact claimTaken_unlinks key origin level holds primedNo
    · obtain ⟨miss, content', _, _⟩ := missed none_
      have unsounded : (p.voice v).content.incoming = some i := by rw [content', awaited]
      obtain ⟨left, last, others, order⟩ := withdrawn i unsounded
      refine ⟨by rw [last, claimNo], fun q hq => fading q hq (.inl (content'.trans (takenBy_handover hq))), fun hq => ?_, fun idle => ?_⟩
      · rw [left, content', takenBy_priming hq]
        rfl
      · have entered : u = s := hu.trans (completeEntry_of_entered fun q hq => by rw [idle] at hq; cases hq)
        have silent : (u.voice v).content.isSounding = false := by rw [entered, idle]; rfl
        refine ⟨fun w ne => ?_, ?_, ?_⟩
        · rw [others w ne, primed_alike primed silent rfl ne, entered]
        · rw [order, primed.startOrder, silent, entered]
          rfl
        · have quiet : Silent s p := hp ▸ silent_primingRequest link idle miss
          have silent' : Silent s (withLink k none p) := quiet.trans (silent_of_record rfl rfl rfl rfl)
          have clock : p.clock = s.clock := by
            rw [hp]
            exact primingRequest_clock v r way link s
          have report : aboutClaim .ended v i.claim (toBytes 2 n.toNat ++ [1, 0]) s =
              endedReport v i.claim .released false (now32 (withLink k none p)) := by
            have time : now32 (withLink k none p) = now32 s := congrArg (fun c : Clock => c.showTime.setWidth 32) clock
            rw [time, ← claimNo]
            exact congrArg (fun d => aboutClaim .ended v i.claim d s)
              (List.append_assoc (toBytes 2 i.claim.number.toNat) [1] [0]).symm
          rw [act, claimTaken_withdraws key origin level holds primedNo unsounded, report,
            withdrawEnded_emits (s := withLink k none p) unsounded]
          exact (recorded_emit (silent'.trans (silent_withdraw v _))).first
    · obtain ⟨content', _, _⟩ := served x f sound mem address format present
      refine ⟨fun q hq => fading q hq (.inr (by rw [content', takenBy_handover hq]; rfl)), fun hq => ?_⟩
      have landed : (p.voice v).content = i.landed s.clock.showTime := by
        rw [content', takenBy_priming hq]
        rfl
      obtain ⟨armed, sounds, _⟩ := landed_cases i s.clock.showTime
      refine ⟨fun waits => ?_, fun immediate => ?_⟩
      · have arms := landed.trans (armed (waits.imp id .inl))
        obtain ⟨left, last, _, _⟩ := withdrawn i (by rw [arms]; rfl)
        exact ⟨by rw [left, arms]; rfl, by rw [last, claimNo]⟩
      · obtain ⟨b, faded⟩ := claimTaken_fades (way := way) key origin level holds primedNo (landed.trans (sounds immediate)) rfl
        refine ⟨b, ?_⟩
        rw [act, faded, claimed]
        rfl

end Sys2Proof.Machine
end

section
/-! A resolved SOUND cue is handed on by its purpose (R14, R15, R19, R62, R106). -/

namespace Sys2Proof.Machine

/-- The state in which a resolution that has ended hands its cue on. -/
def resolvedAt (j : Job) (e : JobEnd) (s : State) : State :=
  { atEnd j e s with resolver := { s.resolver with current := none } }

section
variable {e : JobEnd} {s : State} {j : Job} {o : Nat} {r : Resolution} {c : SoundCue}

/-- The end of the read of a SOUND cue record. -/
theorem cueReadDone_sound (well : endsWell j e s) (hj : j.kind = .cue o) (hr : s.resolver.current = some r)
    (hp : r.phase = .readingCue) (hc : decodeCue (delivered j e s) = .sound c) {t : State}
    (ht : handOnCue { r with lastCue := some (CueRecord.sound c).kind, clipLength := (CueRecord.sound c).storedLength } c
      (atEnd j e s) = t) : exec (.cueReadDone e) s = .next (arbitrate t) := by
  have act : cueRead r (decodeCue (delivered j e s)) (atEnd j e s) = t := by
    rw [hc]
    exact ht
  exact congrArg Host.Outcome.next ((jobDone_well well (isKind (is := JobKind.isCueReadDone) hj rfl)).trans
    (congrArg arbitrate ((resolverReadDone_well (s := atEnd j e s) hr hp).trans act)))

theorem handOnCue_probe (h : r.purpose = .probe) :
    handOnCue r c s = giveResult r.origin .ok (probeDetail r (conditionCode s.resolver.vars c.condition)) (setResolution none s) := by
  unfold handOnCue
  rw [h]
  rfl

theorem handOnCue_prime (h : r.purpose = .prime) : handOnCue r c s = claim (r.request c .none) none (setResolution none s) := by
  unfold handOnCue
  rw [h]

theorem handOnCue_atFrame {target : Word} {late : Bool} (h : r.purpose = .fire (.atFrame target late)) :
    handOnCue r c s = scheduleIntake (r.resolved c) r.origin r.tag target (setResolution none s) := by
  unfold handOnCue
  rw [h]

theorem handOnCue_fire {start : Start} (h : r.purpose = .fire start) (other : ∀ target late, start ≠ .atFrame target late) :
    handOnCue r c s = claim (r.request c start) none (setResolution none s) := by
  unfold handOnCue
  rw [h]
  cases start with
  | atFrame target late => exact absurd rfl (other target late)
  | _ => rfl

end

/-- A claim that takes an IDLE voice with no PRESENT entry for its clip: the voice's record, and the HEAD job. -/
theorem primingRequest_idle {v : Fin 24} {r : ClaimRequest} {way : Obtained} {s : State} (idle : (s.voice v).content = .idle)
    (miss : cacheHit r.cue.sound s = none) :
    ∃ x k, primingRequest v r.cue.sound (setLink v r.tag none (takeVoice v r way s)) = place k (setVoice v x s) := by
  obtain ⟨x, taken⟩ : ∃ x, takeVoice v r way s = setVoice v x s := by
    unfold takeVoice
    rw [completeEntry_of_entered fun q hq => (by rw [idle] at hq; cases hq)]
    unfold takeNow
    dsimp only
    rw [idle]
    exact ⟨_, rfl⟩
  unfold primingRequest setLink
  dsimp only
  have none_ : cacheHit r.cue.sound (setVoice v x s) = none := (cacheHit_of_cache rfl).trans miss
  rw [taken, none_]
  exact ⟨x, _, rfl⟩

/-- Settles O28. -/
theorem cueHandedOn : Obligations.CueHandedOn := by
  refine ⟨fun e s u j o r c cue q well hj hr hp hc hu hcue hq => ?_, fun e s j o r c start v well hj hr hp hc slate leader waits
    purpose starts hold condition layer idle first miss => ?_⟩
  · subst hu hcue hq
    refine ⟨fun probe slate waits => ?_, fun prime => ?_, fun target late fire => ?_, fun start fire other => ?_⟩
    · obtain ⟨result, but⟩ := gives_arbitrated (u := resolvedAt j e s) waits (congrArg arbitrate (handOnCue_probe (s := atEnd j e s)
        (c := c) (r := { r with lastCue := some (CueRecord.sound c).kind, clipLength := (CueRecord.sound c).storedLength }) probe))
      refine ⟨_, conditionCode s.resolver.vars c.condition, cueReadDone_sound well hj hr hp hc rfl, fun none_ => ?_, fun x hx => ?_,
        result, but⟩
      · rw [none_]
        rfl
      · rw [hx]
        rfl
    · exact ⟨_, cueReadDone_sound well hj hr hp hc (handOnCue_prime prime), portBut_arbitrate _⟩
    · exact ⟨_, cueReadDone_sound well hj hr hp hc (handOnCue_atFrame fire), portBut_arbitrate _⟩
    · exact ⟨_, cueReadDone_sound well hj hr hp hc (handOnCue_fire fire other), portBut_arbitrate _⟩
  · have other : ∀ target late, start ≠ .atFrame target late := by
      rintro target late rfl
      rcases starts with h | h <;> cases h
    obtain ⟨q, hq⟩ : ∃ q, q = r.request c start := ⟨_, rfl⟩
    obtain ⟨y, hy⟩ : ∃ y, y = resolvedAt j e s := ⟨_, rfl⟩
    have voices : y.voices = s.voices := by rw [hy]; rfl
    have voice : ∀ w, y.voice w = s.voice w := voice_of_voices voices
    have done : exec (.cueReadDone e) s = .next (arbitrate (claim q none y)) := by
      rw [hq, hy]
      exact cueReadDone_sound well hj hr hp hc (handOnCue_fire purpose other)
    have source : q.source = .slate := by rw [hq]; exact slate
    have sound : q.cue.sound = c := by rw [hq]; rfl
    have missed : ∀ x ∈ y.cache, x.address = q.cue.sound.clip → x.format = q.cue.sound.format → ∀ f, x.state ≠ .present f := by
      rw [sound, hy]
      exact fun x hx address => absurd address (miss x hx)
    have leads : leaderHolds q y := by
      intro l m hl
      rw [hq] at hl
      exact absurd (leader.symm.trans hl) nofun
    have lets : holdLets q y := .inl (by rw [hy]; exact hold)
    have passes : conditionLets q y := by
      intro x hx
      rw [sound] at hx
      rw [hy]
      exact condition x hx
    have free : (y.voice v).content = .idle := by rw [voice]; exact idle
    have obtained : obtains q y v .idle := by
      refine .inr ⟨.inl (by rw [sound]; exact layer), .inl ⟨rfl, free, fun w lt => ?_⟩⟩
      rw [voice]
      exact first w lt
    have starts' : ∀ target, q.start ≠ .atFrame target true := fun target h => other target true (by rw [hq] at h; exact h)
    have unkeyed : (false = true ↔ q.source = .key ∧ ∃ k : Fin 8, k.val = q.origin ∧ y.trigger.keys[k].level = false
        ∧ y.trigger.keyMap[k].holdToPlay = true) := by
      rw [source]
      exact ⟨nofun, fun h => nomatch h.1⟩
    have entered : completeEntry v y = y := completeEntry_of_entered fun p hp => by rw [free] at hp; cases hp
    obtain ⟨⟨number, rest, _, _, order, _, _, others⟩, placed, _, _, _, result, _⟩ :=
      (claimTakesVoice q none y (claim q none y) y v .idle ((y.voice v).claimNo + 1)
        (q.onVoice ((y.voice v).claimNo + 1) .idle y) false leads lets passes obtained starts' unkeyed rfl entered.symm rfl rfl).1 rfl
    obtain ⟨_, priming, head, job⟩ := placed missed
    have content := priming (by rw [free]; rfl)
    have port := portOnly_arbitrate (claim q none y)
    have silent : (y.voice v).content.isSounding = false := by rw [free]; rfl
    refine ⟨_, q.onVoice ((y.voice v).claimNo + 1) .idle y, done, ?_, port.2.content v |>.trans content, ?_, ?_, rfl, ?_, ?_, ?_, ?_,
      ?_, ?_, ?_, ?_, ?_, ?_, fun w ne => ?_, ?_⟩
    · rw [port.2.claimNo, number, voice]
    · rw [← voice v]; rfl
    · rw [hy]; rfl
    · exact sound
    · rw [hq]; rfl
    · rw [hq]; rfl
    · rw [hq]; rfl
    · rw [hq]; rfl
    · rw [hq]; rfl
    · rw [← voice v]
      rw [sound] at job
      have waits : headStale (claim q none y) (readJob (.head v ((y.voice v).claimNo + 1)) c.clip.toNat (c.headFrames * c.format.size))
          = false := by
        unfold headStale readJob
        dsimp only
        rw [number, content]
        simp
      exact atPort_arbitrate job rfl waits
    · rw [port.resultOf]
      have there : awaiting r.origin y := by rw [hy]; exact waits
      have heard := result source (by rw [hq]; exact there)
      rw [← voice v]
      rw [hq] at heard ⊢
      exact heard
    · have heard : (claim q none y).resolver = y.resolver := by
        have alike := claimTaken_heard (v := v) (way := .idle) (n := (y.voice v).claimNo + 1)
          (p := primingRequest v q.cue.sound (setLink v q.tag none (takeVoice v q .idle y)))
          fun released => nomatch source.symm.trans released.1
        have none_ : cacheHit q.cue.sound y = none := cacheHit_none missed
        obtain ⟨x, k, same⟩ := primingRequest_idle (r := q) (way := .idle) free none_
        rw [claim_takes none leads lets passes obtained, alike.resolver, same]
        rfl
      rw [port.resolver, heard, hy]
      rfl
    · rw [port.startOrder, order, silent, hy]
      rfl
    · have same : (claim q none y).voice w = s.voice w := (others silent w ne).trans (voice w)
      exact .of_eq same port
    · rw [port.rest, rest, hy]
      rfl

end Sys2Proof.Machine
end

section
/-! The Trigger Unit's operations: what a taken event leaves alone, where an event that arises goes, and which rule takes it
(R122, R123, R125 to R128, R133, R134). -/

namespace Sys2Proof.Machine

/-! ### What a taken event leaves alone -/

/-- The quiet part of a state but for what a rule may change: the show variables, the line intake, the arrival groups. -/
def State.spared (s : State) : Quiet :=
  { s.quiet with vars := Vector.replicate 32 0, fires := [], groups := Vector.replicate 8 none }

theorem spared_of_quiet {s t : State} (h : t.quiet = s.quiet) : t.spared = s.spared := by
  unfold State.spared
  rw [h]

theorem spared_placeLineFire (f : LineFire) (e : Event) (n : Nat) (s : State) : (placeLineFire f e n s).spared = s.spared := by
  unfold placeLineFire
  split
  · rfl
  · exact spared_of_quiet (quiet_emit _ s)

theorem spared_setVariable (v : Nat) (x : Half) (s : State) : (setVariable v x s).spared = s.spared := by
  unfold setVariable
  split <;> rfl

section
variable {i : Nat} {r : Rule} {e : Event} {s : State}

theorem ruleAction_fire (x : Selector) : ruleAction i r e (.fire x) s =
    placeLineFire { source := .rule, origin := i, selector := x, level := r.level, frame := r.frame } e i s := rfl

theorem ruleAction_releaseGroup (g : Nat) :
    ruleAction i r e (.releaseGroup g) s = if groupValid g then releaseGroup g s else s := rfl

theorem ruleAction_cutLast : ruleAction i r e .cutLast s = cutLastVoice s := rfl

theorem keyRelease_none {k : Fin 8} (h : s.trigger.holdLinks[k] = none) : keyRelease k s = s := by
  unfold keyRelease
  rw [h]

theorem keyRelease_some {k : Fin 8} {v : Fin 24} {c : Half} (h : s.trigger.holdLinks[k] = some (v, c)) : keyRelease k s =
    if s.trigger.keyMap[k].holdToPlay then holdToPlayRelease v c (setHoldLink k none s) else setHoldLink k none s := by
  unfold keyRelease
  rw [h]
  rfl

end

theorem spared_ruleAction (i : Nat) (r : Rule) (e : Event) (a : RuleAction) (s : State) :
    (ruleAction i r e a s).spared = s.spared := by
  cases a with
  | fire x => exact spared_placeLineFire _ e i s
  | releaseGroup g =>
    rw [ruleAction_releaseGroup]
    split
    · exact spared_of_quiet (quiet_releaseGroup g s)
    · rfl
  | cutLast => exact spared_of_quiet (quiet_cutLastVoice s)
  | varAdd v x => exact spared_setVariable v _ s
  | varSet v x => exact spared_setVariable v x s
  | reopen mask => rfl

theorem spared_consultGroup (g : Fin 8) (i : Nat) (r : Rule) (a : RuleAction) (n : Fin 16) (up : Bool) (x : Time) (s : State) :
    (consultGroup g i r a n up x s).spared = s.spared := by
  unfold consultGroup
  split
  · exact (spared_of_quiet (quiet_emit _ _)).trans (spared_ruleAction i r (.line n up x) a s)
  · exact spared_of_quiet (quiet_emit _ s)

/-- A matching rule is carried out: its action, through its arrival group when it names one. -/
def carryOut (n : Fin 16) (up : Bool) (x : Time) (i : Nat) (r : Rule) (a : RuleAction) (s : State) : State :=
  match r.group with
  | none => ruleAction i r (.line n up x) a s
  | some g => consultGroup g i r a n up x s

theorem spared_carryOut (n : Fin 16) (up : Bool) (x : Time) (i : Nat) (r : Rule) (a : RuleAction) (s : State) :
    (carryOut n up x i r a s).spared = s.spared := by
  unfold carryOut
  split
  · exact spared_ruleAction _ _ _ _ _
  · exact spared_consultGroup _ _ _ _ _ _ _ _

/-- The tests of a rule at a line event (R125), the validity of its action among them. -/
def takes (n : Fin 16) (up : Bool) (s : State) (i : Nat) (r : Rule) : Bool := r.action.isSome && ruleMatches i r n up s

section
variable {n : Fin 16} {up : Bool} {x : Time} {i : Nat} {r : Rule} {a : RuleAction} {l : List Rule} {s : State}

theorem evaluateRules_pass (h : takes n up s i r = false) :
    evaluateRules n up x i (r :: l) s = evaluateRules n up x (i + 1) l s := by
  rw [evaluateRules]
  unfold takes at h
  cases ha : r.action with
  | none => rfl
  | some a =>
    rw [ha] at h
    exact if_neg (Bool.eq_false_iff.mp h)

theorem evaluateRules_take (ha : r.action = some a) (h : ruleMatches i r n up s = true) :
    evaluateRules n up x i (r :: l) s =
      if r.continues then evaluateRules n up x (i + 1) l (carryOut n up x i r a s) else carryOut n up x i r a s := by
  rw [evaluateRules, ha]
  exact if_pos h

/-- What holds of the state, and stays through every rule that is carried out, holds behind the evaluation. -/
theorem evaluateRules_keeps (P : State → Prop) (h : ∀ i r a s, r ∈ l → r.action = some a → P s → P (carryOut n up x i r a s)) :
    ∀ i s, P s → P (evaluateRules n up x i l s) := by
  induction l with
  | nil => exact fun _ _ p => p
  | cons r l ih =>
    have later := ih fun i r' a s hr => h i r' a s (List.mem_cons_of_mem _ hr)
    intro i s p
    cases hm : takes n up s i r with
    | false =>
      rw [evaluateRules_pass hm]
      exact later _ _ p
    | true =>
      unfold takes at hm
      obtain ⟨some_, matches_⟩ := Bool.and_eq_true_iff.mp hm
      obtain ⟨a, ha⟩ := Option.isSome_iff_exists.mp some_
      rw [evaluateRules_take ha matches_]
      have acted := h i r a s (List.mem_cons_self ..) ha p
      split
      · exact later _ _ acted
      · exact acted

theorem evaluateRules_none (h : ∀ k r, l[k]? = some r → takes n up s (i + k) r = false) :
    evaluateRules n up x i l s = s := by
  induction l generalizing i with
  | nil => rfl
  | cons r l ih =>
    have here : takes n up s i r = false := h 0 r rfl
    rw [evaluateRules_pass here]
    refine ih fun k r' hr => ?_
    rw [Nat.add_assoc, Nat.add_comm 1 k]
    exact h (k + 1) r' hr

/-- The first rule that the event meets ends the evaluation, or with its continue flag set lets the later ones act. -/
theorem evaluateRules_first {k : Nat} (hr : l[k]? = some r) (ha : r.action = some a)
    (h : ruleMatches (i + k) r n up s = true) (first : ∀ j y, j < k → l[j]? = some y → takes n up s (i + j) y = false) :
    evaluateRules n up x i l s = if r.continues
      then evaluateRules n up x (i + k + 1) (l.drop (k + 1)) (carryOut n up x (i + k) r a s)
      else carryOut n up x (i + k) r a s := by
  induction l generalizing i k with
  | nil => cases hr
  | cons y l ih =>
    cases k with
    | zero =>
      cases hr
      exact evaluateRules_take ha h
    | succ k =>
      have here : takes n up s i y = false := first 0 y (Nat.succ_pos k) rfl
      rw [evaluateRules_pass here]
      have shift : ∀ j, i + 1 + j = i + (j + 1) := fun j => by omega
      rw [ih hr (by rw [shift]; exact h) fun j z lt hz => (by rw [shift]; exact first (j + 1) z (Nat.succ_lt_succ lt) hz), shift]
      rfl

end

theorem spared_takeEvent (e : Event) (s : State) : (takeEvent e s).spared = s.spared := by
  cases e with
  | line n up x =>
    exact evaluateRules_keeps (fun t => t.spared = s.spared) (fun i r a t _ _ h => (spared_carryOut n up x i r a t).trans h) 0 s rfl
  | key k up x =>
    unfold takeEvent
    dsimp only
    split
    · exact spared_placeLineFire _ _ _ s
    · cases hl : s.trigger.holdLinks[k] with
      | none => rw [keyRelease_none hl]
      | some link =>
        rw [keyRelease_some hl]
        split
        · exact spared_of_quiet ((quiet_holdToPlayRelease _ _ _).trans (quiet_setHoldLink k none s))
        · exact spared_of_quiet (quiet_setHoldLink k none s)

/-! ### What a taken event places and reports -/

section
variable {new : Job → Prop}

theorem acts_placeLineFire (f : LineFire) (e : Event) (n : Nat) (s : State) : Acts new s (placeLineFire f e n s) := by
  unfold placeLineFire
  split
  · exact .still
  · exact acts_emit _ _

theorem acts_setVariable (v : Nat) (x : Half) (s : State) : Acts new s (setVariable v x s) := by
  unfold setVariable
  split
  · exact .still
  · exact .refl

theorem acts_ruleAction (i : Nat) (r : Rule) (e : Event) (a : RuleAction) (s : State) : Acts new s (ruleAction i r e a s) := by
  cases a with
  | fire x => exact acts_placeLineFire _ e i s
  | releaseGroup g =>
    rw [ruleAction_releaseGroup]
    split
    · exact acts_releaseAll _ _ _ _ s
    · exact .refl
  | cutLast =>
    rw [ruleAction_cutLast]
    unfold cutLastVoice
    split
    · exact acts_releaseVoice _ _ _ _ s
    · exact .refl
  | varAdd v x => exact acts_setVariable v _ s
  | varSet v x => exact acts_setVariable v x s
  | reopen mask => exact .still

theorem acts_carryOut (n : Fin 16) (up : Bool) (x : Time) (i : Nat) (r : Rule) (a : RuleAction) (s : State) :
    Acts new s (carryOut n up x i r a s) := by
  unfold carryOut
  split
  · exact acts_ruleAction _ _ _ _ s
  · unfold consultGroup
    split
    · exact (acts_emit _ _).then (Acts.then .still (acts_ruleAction i r (.line n up x) a s))
    · exact acts_emit _ s

theorem acts_takeEvent (e : Event) (s : State) : Acts new s (takeEvent e s) := by
  cases e with
  | line n up x =>
    exact evaluateRules_keeps (fun t => Acts new s t) (fun i r a t _ _ h => (acts_carryOut n up x i r a t).then h) 0 s .refl
  | key k up x =>
    unfold takeEvent
    dsimp only
    split
    · exact acts_placeLineFire _ _ _ s
    · cases hl : s.trigger.holdLinks[k] with
      | none =>
        rw [keyRelease_none hl]
      | some link =>
        rw [keyRelease_some hl]
        split
        · exact (acts_holdToPlayRelease _ _ _).then .still
        · exact .still

end

/-! ### Where an event goes -/

/-- An event that arises has to wait (R123). -/
def eventsWait (s : State) : Prop := isLoading s = true ∨ s.trigger.queue ≠ []

section
variable {e : Event} {s : State}

theorem raiseEvent_discards (h : isRunning s = false) : raiseEvent e s = s := by
  unfold raiseEvent
  rw [h]
  rfl

theorem raiseEvent_waits (run : isRunning s = true) (h : eventsWait s) : raiseEvent e s =
    if s.trigger.queue.length < 16 then setQueue (s.trigger.queue ++ [e]) s
    else emit (droppedReport dropQueueFull Selector.null e 255) s := by
  have waits : (isLoading s || !s.trigger.queue.isEmpty) = true := by
    rcases h with h | h
    · rw [h]
      rfl
    · rw [List.isEmpty_eq_false_iff.mpr h]
      exact Bool.or_true _
  unfold raiseEvent
  rw [run, waits]
  rfl

theorem raiseEvent_joins (run : isRunning s = true) (h : eventsWait s) (room : s.trigger.queue.length < 16) :
    raiseEvent e s = setQueue (s.trigger.queue ++ [e]) s := by
  rw [raiseEvent_waits run h, if_pos room]

theorem raiseEvent_drops (run : isRunning s = true) (h : eventsWait s) (full : 16 ≤ s.trigger.queue.length) :
    raiseEvent e s = emit (droppedReport dropQueueFull Selector.null e 255) s := by
  rw [raiseEvent_waits run h, if_neg (Nat.not_lt.mpr full)]

theorem raiseEvent_takes (run : isRunning s = true) (idle : isLoading s = false) (empty : s.trigger.queue = []) :
    raiseEvent e s = takeEvent e s := by
  unfold raiseEvent
  rw [run, idle, empty]
  rfl

/-- An event that arises is discarded, joins the queue, is dropped, or is taken. -/
theorem raiseEvent_cases (e : Event) (s : State) : raiseEvent e s = s ∨ raiseEvent e s = setQueue (s.trigger.queue ++ [e]) s
    ∨ raiseEvent e s = emit (droppedReport dropQueueFull Selector.null e 255) s ∨ raiseEvent e s = takeEvent e s := by
  unfold raiseEvent
  split_ifs
  · exact .inl rfl
  · exact .inr (.inl rfl)
  · exact .inr (.inr (.inl rfl))
  · exact .inr (.inr (.inr rfl))

theorem spared_raiseEvent (e : Event) (s : State) :
    ∃ q, (raiseEvent e s).spared = { s.spared with events := q } := by
  rcases raiseEvent_cases e s with h | h | h | h
  · exact ⟨s.trigger.queue, congrArg State.spared h⟩
  · exact ⟨s.trigger.queue ++ [e], (congrArg State.spared h).trans rfl⟩
  · exact ⟨s.trigger.queue, (congrArg State.spared h).trans (spared_of_quiet (quiet_emit _ s))⟩
  · exact ⟨s.trigger.queue, (congrArg State.spared h).trans (spared_takeEvent e s)⟩

theorem acts_raiseEvent {new : Job → Prop} (e : Event) (s : State) : Acts new s (raiseEvent e s) := by
  rcases raiseEvent_cases e s with h | h | h | h
  · rw [h]
  · rw [h]
    exact .still
  · rw [h]
    exact acts_emit _ s
  · rw [h]
    exact acts_takeEvent e s

theorem takeQueued_takes {q : List Event} (run : isRunning s = true) (idle : isLoading s = false)
    (untaken : s.trigger.queueTaken = false) (hq : s.trigger.queue = e :: q) :
    takeQueued s = takeEvent e (setTrigger { s.trigger with queue := q, queueTaken := true } s) := by
  unfold takeQueued
  rw [run, idle, untaken, hq]
  rfl

theorem takeQueued_waits (h : isLoading s = true ∨ s.trigger.queueTaken = true) : takeQueued s = s := by
  unfold takeQueued
  rcases h with h | h
  · rw [h, Bool.not_true, Bool.and_false, Bool.false_and]
    rfl
  · rw [h, Bool.not_true, Bool.and_false]
    rfl

end

end Sys2Proof.Machine
end

section
/-! Line events and queued events (R119, R121 to R123, R125, R127, R135, R156, R157, R169). -/

namespace Sys2Proof.Machine

/-! ### The hold's line -/

section
variable {n : Fin 16} {up : Bool} {s : State}

theorem holdEdge_stays (h : up = false ∨ s.run.release ≠ some (.line n) ∨ s.run.hold = .none) : holdEdge n up s = s := by
  unfold holdEdge
  refine if_neg fun both => ?_
  obtain ⟨both, held⟩ := Bool.and_eq_true_iff.mp both
  obtain ⟨rising, line⟩ := Bool.and_eq_true_iff.mp both
  rcases h with h | h | h
  · rw [h] at rising
    cases rising
  · exact h (eq_of_beq line)
  · rw [h] at held
    exact absurd held (by decide)

theorem holdEdge_leaves (rising : up = true) (line : s.run.release = some (.line n)) (held : s.run.hold ≠ .none) :
    holdEdge n up s = leaveHold 0 (.line n) s := by
  unfold holdEdge
  refine if_pos ?_
  rw [rising, line, beq_self_eq_true, Bool.true_and, Bool.true_and, bne_iff_ne]
  exact held

/-- The release of a hold by its line changes the hold and reports it, and nothing else. -/
structure HoldOnly (s t : State) : Prop where
  quiet : { t.quiet with run := s.run } = s.quiet
  resolver : t.resolver = s.resolver
  startOrder : t.startOrder = s.startOrder
  voices : t.voices = s.voices
  mix : t.mix = s.mix
  trigger : t.trigger = s.trigger
  running : isRunning t = isRunning s
  loading : isLoading t = isLoading s

theorem holdOnly_holdEdge (n : Fin 16) (up : Bool) (s : State) : HoldOnly s (holdEdge n up s) := by
  unfold holdEdge
  split
  · unfold leaveHold
    refine ⟨?_, emit_resolver _ _, emit_startOrder _ _, emit_voices _ _, emit_mix _ _, emit_trigger _ _,
      isRunning_of_part (emit_part _ _), ?_⟩
    · rw [quiet_emit]
      rfl
    · unfold isLoading
      rw [emit_run]
  · exact ⟨rfl, rfl, rfl, rfl, rfl, rfl, rfl, rfl⟩

end

/-! ### An edge of a line -/

/-- The lines behind a due edge of line `n`: its qualified level is the level seen. -/
def edgeLines (n : Fin 16) (s : State) : Vector Qualifier 16 := s.trigger.lines.set n s.trigger.lines[n].take

/-- An edge of line `n` has been handed to the duck groups. -/
def edgeTaken (n : Fin 16) (s : State) : State := rejudgeDucks (setTrigger { s.trigger with lines := edgeLines n s } s)

/-- An edge of line `n` has been handed to the duck groups and Run Control; its event has not arisen yet. -/
def edgeHeard (n : Fin 16) (s : State) : State := holdEdge n s.trigger.lines[n].seen (edgeTaken n s)

section
variable {n : Fin 16} {s : State}

theorem lineEdge_due (h : s.trigger.lines[n].due = true) :
    lineEdge n s = raiseEvent (.line n s.trigger.lines[n].seen (now s)) (edgeHeard n s) := by
  unfold lineEdge
  exact if_pos h

theorem lineEvent_due (h : s.trigger.lines[n].due = true) : exec (.lineEvent n) s =
    .next (arbitrate (raiseEvent (.line n s.trigger.lines[n].seen (now s)) (edgeHeard n s))) :=
  congrArg (fun t => Host.Outcome.next (arbitrate t)) (lineEdge_due h)

theorem edgeHeard_only (n : Fin 16) (s : State) : HoldOnly (edgeTaken n s) (edgeHeard n s) := holdOnly_holdEdge _ _ _

theorem edgeHeard_trigger : (edgeHeard n s).trigger = { s.trigger with lines := edgeLines n s } := (edgeHeard_only n s).trigger

theorem edgeHeard_resolver : (edgeHeard n s).resolver = s.resolver := (edgeHeard_only n s).resolver

theorem edgeHeard_startOrder : (edgeHeard n s).startOrder = s.startOrder := (edgeHeard_only n s).startOrder

theorem edgeHeard_running : isRunning (edgeHeard n s) = isRunning s := (edgeHeard_only n s).running

theorem edgeHeard_loading : isLoading (edgeHeard n s) = isLoading s := (edgeHeard_only n s).loading

theorem edgeHeard_queue : (edgeHeard n s).trigger.queue = s.trigger.queue := by rw [edgeHeard_trigger]

theorem edgeHeard_waits : eventsWait (edgeHeard n s) ↔ eventsWait s := by
  unfold eventsWait
  rw [edgeHeard_loading, edgeHeard_queue]

theorem silent_edgeTaken (n : Fin 16) (s : State) : Silent s (edgeTaken n s) := ⟨rfl, rfl, rfl, keepsLine_of_port rfl⟩

/-- No hold waits for this edge. -/
theorem edgeHeard_unheld (h : s.trigger.lines[n].seen = false ∨ s.run.release ≠ some (.line n) ∨ s.run.hold = .none) :
    edgeHeard n s = edgeTaken n s := holdEdge_stays h

/-- The state behind an edge but for the event queue and the hold. -/
theorem raised_spared (n : Fin 16) (e : Event) (s : State) : ∃ q r, (raiseEvent e (edgeHeard n s)).spared =
    { s.spared with lines := edgeLines n s, events := q, run := r } := by
  obtain ⟨q, hq⟩ := spared_raiseEvent e (edgeHeard n s)
  have quiet := (edgeHeard_only n s).quiet
  have heard : (edgeHeard n s).spared = { (edgeTaken n s).spared with run := (edgeHeard n s).run } := by
    unfold State.spared
    rw [← quiet]
    rfl
  have taken : (edgeTaken n s).spared = { s.spared with lines := edgeLines n s } := rfl
  exact ⟨q, (edgeHeard n s).run, by rw [hq, heard, taken]⟩

end

/-! ### The duck groups at an edge -/

/-- The rule acts on no voice. -/
def Rule.sparesVoices (r : Rule) : Prop := r.action ≠ some .cutLast ∧ ∀ g, r.action ≠ some (.releaseGroup g)

section
variable {n : Fin 16} {up : Bool} {x : Time} {i : Nat} {r : Rule} {a : RuleAction} {s : State} {e : Event}

theorem placeLineFire_mix (f : LineFire) (e : Event) (n : Nat) (s : State) : (placeLineFire f e n s).mix = s.mix := by
  unfold placeLineFire
  split
  · rfl
  · exact emit_mix _ _

theorem setVariable_mix (v : Nat) (x : Half) (s : State) : (setVariable v x s).mix = s.mix := by
  unfold setVariable
  split <;> rfl

theorem ruleAction_mix (cut : a ≠ .cutLast) (group : ∀ g, a ≠ .releaseGroup g) : (ruleAction i r e a s).mix = s.mix := by
  cases a with
  | fire x => exact placeLineFire_mix _ e i s
  | releaseGroup g => exact absurd rfl (group g)
  | cutLast => exact absurd rfl cut
  | varAdd v x => exact setVariable_mix v _ s
  | varSet v x => exact setVariable_mix v x s
  | reopen mask => rfl

theorem carryOut_mix (cut : a ≠ .cutLast) (group : ∀ g, a ≠ .releaseGroup g) : (carryOut n up x i r a s).mix = s.mix := by
  unfold carryOut
  split
  · exact ruleAction_mix cut group
  · unfold consultGroup
    split
    · exact (emit_mix _ _).trans (ruleAction_mix (e := .line n up x) cut group)
    · exact emit_mix _ _

/-- A line event that does not reach a rule that releases or cuts leaves the mix alone. -/
theorem raiseEvent_mix (h : isRunning s = false ∨ eventsWait s ∨ ∀ r ∈ s.trigger.rules, r.sparesVoices) :
    (raiseEvent (.line n up x) s).mix = s.mix := by
  cases run : isRunning s with
  | false => rw [raiseEvent_discards run]
  | true =>
    by_cases waits : eventsWait s
    · rw [raiseEvent_waits run waits]
      split
      · rfl
      · exact emit_mix _ _
    · have spares : ∀ r ∈ s.trigger.rules, r.sparesVoices :=
        (h.resolve_left (by rw [run]; exact nofun)).resolve_left waits
      rw [raiseEvent_takes run (Bool.eq_false_iff.mpr fun h => waits (.inl h)) (by_contra fun h => waits (.inr h))]
      refine evaluateRules_keeps (fun t => t.mix = s.mix) (fun i r a t hr ha ht => ?_) 0 s rfl
      obtain ⟨cut, group⟩ := spares r hr
      exact (carryOut_mix (fun h => cut (by rw [ha, h])) fun g h => group g (by rw [ha, h])).trans ht

end

/-- A duck group that a change of line `n` leaves as it was judged. -/
theorem rejudge_same {lines : Vector Qualifier 16} {d : Duck} (h : d.judged lines = d.keyed) : d.rejudge lines = d := by
  rw [rejudge_eq, h, if_pos rfl, if_pos rfl]

theorem rejudge_flips {lines : Vector Qualifier 16} {d : Duck} (h : d.judged lines ≠ d.keyed) :
    d.rejudge lines = { d with keyed := d.judged lines, sub := 0, due := false } := by
  rw [rejudge_eq, if_neg h, if_neg h]

theorem edgeTaken_duck (n : Fin 16) (g : Fin 4) (s : State) :
    (edgeTaken n s).mix.ducks[g] = s.mix.ducks[g].rejudge (edgeLines n s) := by
  unfold edgeTaken rejudgeDucks mapDucks
  simp

theorem edgeLines_self (n : Fin 16) (s : State) : (edgeLines n s)[n].level = s.trigger.lines[n].seen := by
  unfold edgeLines
  simp [Qualifier.take]

theorem edgeLines_other {n m : Fin 16} (h : m ≠ n) (s : State) : (edgeLines n s)[m] = s.trigger.lines[m] := by
  unfold edgeLines
  simp only [Fin.getElem_fin]
  exact Vector.getElem_set_ne _ _ fun same => h (Fin.ext same.symm)

theorem edgeTaken_follows {n : Fin 16} {s : State} {g : Fin 4} {d : Duck} (hd : d = s.mix.ducks[g]) {on : Bool}
    (line : d.keyLine = some n) (hon : on = true ↔ d.keying ≠ 0 ∨ s.trigger.lines[n].seen = true) :
    (edgeTaken n s).mix.ducks[g] = if on = d.keyed then d else { d with keyed := on, sub := 0, due := false } := by
  have judged : d.judged (edgeLines n s) = on := by
    rw [Bool.eq_iff_iff, judged_iff, hon]
    refine or_congr_right ⟨?_, fun seen => ⟨n, line, (edgeLines_self n s).trans seen⟩⟩
    rintro ⟨m, hm, level⟩
    cases line.symm.trans hm
    exact (edgeLines_self n s).symm.trans level
  rw [edgeTaken_duck, ← hd]
  split
  · next same => exact rejudge_same (judged.trans same)
  · next flips => rw [rejudge_flips (by rw [judged]; exact flips), judged]

theorem edgeTaken_spares {n : Fin 16} {s : State} {g : Fin 4} {d : Duck} (hd : d = s.mix.ducks[g]) (line : d.keyLine ≠ some n)
    (keyed : d.keyed = true ↔ d.keying ≠ 0 ∨ ∃ m, d.keyLine = some m ∧ s.trigger.lines[m].level = true) :
    (edgeTaken n s).mix.ducks[g] = d := by
  rw [edgeTaken_duck, ← hd]
  refine rejudge_same ?_
  rw [Bool.eq_iff_iff, judged_iff, keyed]
  refine or_congr_right (exists_congr fun m => and_congr_right fun hm => ?_)
  rw [edgeLines_other (fun same => line (by rw [hm, same]))]

/-! ### Line events and queued events -/

/-- What a line event leaves, whatever becomes of it. -/
theorem lineEvent_leaves {n : Fin 16} {s t : State}
    (ht : t = arbitrate (raiseEvent (.line n s.trigger.lines[n].seen (now s)) (edgeHeard n s))) :
    t.trigger.lines = edgeLines n s ∧ t.mem = s.mem ∧ t.clock = s.clock ∧ t.tally = s.tally ∧ t.mix.buses = s.mix.buses
      ∧ t.cache = s.cache := by
  obtain ⟨q, r, spared⟩ := raised_spared n (.line n s.trigger.lines[n].seen (now s)) s
  have same := (spared_of_quiet (quiet_arbitrate _)).trans spared
  rw [← ht] at same
  exact ⟨congrArg Quiet.lines same, congrArg Quiet.mem same, congrArg Quiet.clock same, congrArg Quiet.tally same,
    congrArg Quiet.buses same, congrArg Quiet.cache same⟩

/-- A report on an event that is not taken. -/
theorem queueFull_report (n : Fin 16) (up : Bool) (s : State) :
    droppedReport dropQueueFull Selector.null (.line n up (now s)) 255 = aboutNone .triggerDropped Selector.null
      ([1, 0] ++ toBytes 1 n.val ++ [if up then 0 else 1, 0xFF]) s := by
  cases up <;> rfl

/-- The one rule of a table, with a FIRE action and no guard, places its fire. -/
theorem takeEvent_fires {n : Fin 16} {up : Bool} {x : Time} {r : Rule} {y : Selector} {s : State} (rules : s.trigger.rules = [r])
    (action : r.action = some (.fire y)) (group : r.group = none) (armed : s.trigger.armed.getLsbD 0 = true)
    (source : r.sources.getLsbD n = true) (edge : r.edge = .both) (guard_ : r.guardCond = none)
    (room : s.resolver.lines.length < 16) : (takeEvent (.line n up x) s).resolver = { s.resolver with lines := s.resolver.lines ++
      [{ source := .rule, origin := 0, selector := y, level := r.level, frame := r.frame }] } := by
  have matches_ : ruleMatches 0 r n up s = true := by
    unfold ruleMatches
    rw [armed, edge, guard_]
    simpa [RuleEdge.takes, conditionPasses] using source
  have taken : takeEvent (.line n up x) s = carryOut n up x 0 r (.fire y) s := by
    unfold takeEvent
    dsimp only
    rw [rules, evaluateRules_take action matches_]
    exact ite_self _
  rw [taken]
  unfold carryOut
  rw [group]
  dsimp only
  rw [ruleAction_fire]
  unfold placeLineFire
  rw [if_pos room]

/-- Settles O19. -/
theorem lineAndQueuedEventsTaken : Obligations.LineAndQueuedEventsTaken := by
  refine ⟨fun n s due => ?_, fun s e q run idle untaken hq => ?_, fun s h => ?_, fun n s due => ?_⟩
  · obtain ⟨t, ht⟩ : ∃ t, t = arbitrate (raiseEvent (.line n s.trigger.lines[n].seen (now s)) (edgeHeard n s)) := ⟨_, rfl⟩
    obtain ⟨lines, mem, clock, tally, buses, cache⟩ := lineEvent_leaves ht
    have port : portOnly (raiseEvent (.line n s.trigger.lines[n].seen (now s)) (edgeHeard n s)) t := by
      rw [ht]
      exact portOnly_arbitrate _
    refine ⟨t, (lineEvent_due due).trans (congrArg _ ht.symm), lines, mem, clock, tally, buses, cache, fun idle => ?_,
      fun run waits room => ?_, fun run idle empty r x rules action group armed source edge guard_ room => ?_⟩
    · rw [port.trigger, port.resolver, port.startOrder, raiseEvent_discards (edgeHeard_running.trans idle)]
      exact ⟨edgeHeard_queue, edgeHeard_resolver, edgeHeard_startOrder⟩
    · rw [port.trigger, port.resolver, port.startOrder, raiseEvent_joins (edgeHeard_running.trans run) (edgeHeard_waits.mpr waits)
        (by rw [edgeHeard_queue]; exact room), edgeHeard_queue]
      exact ⟨rfl, edgeHeard_resolver, edgeHeard_startOrder⟩
    · have still : (edgeHeard n s).trigger = { s.trigger with lines := edgeLines n s } := edgeHeard_trigger
      rw [port.resolver, raiseEvent_takes (edgeHeard_running.trans run) (edgeHeard_loading.trans idle)
        (edgeHeard_queue.trans empty), takeEvent_fires (by rw [still]; exact rules) action group (by rw [still]; exact armed) source
        edge guard_ (by rw [edgeHeard_resolver]; exact room), edgeHeard_resolver]
  · obtain ⟨u, hu⟩ : ∃ u, u = setTrigger { s.trigger with queue := q, queueTaken := true } s := ⟨_, rfl⟩
    have act : exec .queuedEventTaken s = .next (arbitrate (takeEvent e u)) :=
      congrArg (fun t => Host.Outcome.next (arbitrate t)) ((takeQueued_takes run idle untaken hq).trans (by rw [hu]))
    have same : (arbitrate (takeEvent e u)).spared = u.spared :=
      (spared_of_quiet (quiet_arbitrate _)).trans (spared_takeEvent e u)
    rw [hu] at same
    rw [hu] at act
    refine ⟨_, act, congrArg Quiet.events same, congrArg Quiet.queueTaken same, congrArg Quiet.mem same,
      congrArg Quiet.clock same, ?_⟩
    rintro k at_ rfl room
    rw [(portOnly_arbitrate _).resolver]
    exact congrArg State.resolver (if_pos room)
  · exact ⟨_, congrArg (fun t => Host.Outcome.next (arbitrate t)) (takeQueued_waits h), portBut_arbitrate s⟩
  · obtain ⟨t, ht⟩ : ∃ t, t = raiseEvent (.line n s.trigger.lines[n].seen (now s)) (edgeHeard n s) := ⟨_, rfl⟩
    have port := portOnly_arbitrate t
    have keeps : keepsLine (edgeHeard n s) (arbitrate t) := by
      rw [ht]
      exact (acts_raiseEvent (new := fun _ => True) _ _).keepsLine.trans (keepsLine_arbitrate _)
    have run_ : t.run = (edgeHeard n s).run := by
      obtain ⟨q, hq⟩ := spared_raiseEvent (.line n s.trigger.lines[n].seen (now s)) (edgeHeard n s)
      rw [← ht] at hq
      have same := congrArg Quiet.run hq
      exact same
    refine ⟨_, (lineEvent_due due).trans (by rw [← ht]), fun run waits full => ?_, fun rising line held => ?_, fun stays => ?_,
      fun spares g d hd => ?_⟩
    · have drops := ht.trans (raiseEvent_drops (edgeHeard_running.trans run) (edgeHeard_waits.mpr waits)
        (by rw [edgeHeard_queue]; exact full))
      refine ⟨?_, ?_, fun unheld => ?_⟩
      · rw [port.trigger, drops, emit_trigger, edgeHeard_queue]
      · rw [port.resolver, drops, emit_resolver, edgeHeard_resolver]
      · rw [edgeHeard_unheld (.inr unheld.symm), queueFull_report] at drops
        rw [drops]
        exact ((recorded_emit (silent_edgeTaken n s)).keeps (keepsLine_arbitrate _)).first
    · have leaves : edgeHeard n s = leaveHold 0 (.line n) (edgeTaken n s) := holdEdge_leaves rising line held
      refine ⟨?_, ?_⟩
      · rw [port.run, run_, leaves]
        exact emit_run _ _
      · rw [leaves] at keeps
        have silent : Silent s { edgeTaken n s with run := { s.run with hold := .none, release := none } } :=
          ⟨rfl, rfl, rfl, keepsLine_of_port rfl⟩
        exact ((recorded_emit silent).keeps keeps).first
    · rw [port.run, run_, edgeHeard_unheld stays]
      rfl
    · have same : (arbitrate t).mix = (edgeTaken n s).mix := by
        rw [port.mix, ht, raiseEvent_mix, (edgeHeard_only n s).mix]
        rw [edgeHeard_running, edgeHeard_waits, edgeHeard_trigger]
        rcases spares with h | h | h | h
        · exact .inl h
        · exact .inr (.inl (.inl h))
        · exact .inr (.inl (.inr h))
        · exact .inr (.inr h)
      refine ⟨fun on line hon => ?_, fun line keyed => ?_⟩
      · rw [same]
        exact edgeTaken_follows hd line hon
      · rw [same]
        exact edgeTaken_spares hd line keyed

end Sys2Proof.Machine
end

section
/-! Key events, taken as they arise or from the event queue (R78, R91, R98, R120 to R123, R133 to R135). -/

namespace Sys2Proof.Machine

/-! ### Presses and releases -/

section
variable {f : LineFire} {e : Event} {n : Nat} {s : State}

theorem placeLineFire_room (room : s.resolver.lines.length < 16) :
    placeLineFire f e n s = { s with resolver := { s.resolver with lines := s.resolver.lines ++ [f] } } := if_pos room

theorem placeLineFire_full (full : 16 ≤ s.resolver.lines.length) :
    placeLineFire f e n s = emit (droppedReport dropIntakeFull f.selector e n) s := if_neg (Nat.not_lt.mpr full)

end

section
variable {k : Fin 8} {x : Time} {v : Fin 24} {n : Half} {s u t : State}

/-- A release that releases no voice only empties the key's link. -/
theorem keyRelease_unlinks (h : s.trigger.keyMap[k].holdToPlay = false ∨ s.trigger.holdLinks[k] = none
    ∨ ∃ v n, s.trigger.holdLinks[k] = some (v, n) ∧ (s.voice v).claimNo ≠ n) : keyRelease k s = setHoldLink k none s := by
  cases hl : s.trigger.holdLinks[k] with
  | none =>
    rw [keyRelease_none hl]
    have same : s.trigger.holdLinks.set k none = s.trigger.holdLinks := by
      rw [← hl]
      exact Vector.set_getElem_self k.isLt
    unfold setHoldLink setTrigger
    rw [same]
  | some link =>
    obtain ⟨v, n⟩ := link
    rw [keyRelease_some hl]
    split
    · next hold =>
      rcases h with h | h | ⟨w, m, h, ne⟩
      · rw [hold] at h
        cases h
      · rw [hl] at h
        cases h
      · rw [hl] at h
        cases h
        exact if_neg ne
    · rfl

/-- A release of the voice that the key's link names: as CUT and RELEASE act on one voice, but that a voice in HANDOVER
keeps the fade of its outgoing cue. -/
theorem holdToPlayRelease_acts (number : (s.voice v).claimNo = n) (c : Unread) :
    (∃ p i l, (s.voice v).content = .handover p i l ∧ holdToPlayRelease v n (c.put s) =
        releaseNow v .released (fun p => p.sound.fadeOut) false (c.put (completeEntry v s)))
      ∨ (∀ p i l, (s.voice v).content ≠ .handover p i l) ∧ holdToPlayRelease v n (c.put s) =
        releaseNow v .released (fun p => p.sound.fadeOut) true (c.put (completeEntry v s)) := by
  have acts : holdToPlayRelease v n (c.put s) = match (s.voice v).content with
      | .handover _ _ _ => withdrawEnded v .released (c.put s)
      | _ => releaseVoice v .released (fun p => p.sound.fadeOut) true (c.put s) := if_pos number
  have voice : releaseVoice v .released (fun p => p.sound.fadeOut) true (c.put s) =
      releaseNow v .released (fun p => p.sound.fadeOut) true (c.put (completeEntry v s)) :=
    congrArg (releaseNow v .released (fun p => p.sound.fadeOut) true) (beside_completeEntry v c s)
  cases hc : (s.voice v).content with
  | handover p i l =>
    refine .inl ⟨p, i, l, rfl, ?_⟩
    have entered : completeEntry v s = s := completeEntry_of_entered fun q hq => by rw [hc] at hq; cases hq
    have fades : releaseNow v .released (fun p => p.sound.fadeOut) false (c.put s) = withdrawEnded v .released (c.put s) := by
      unfold releaseNow
      rw [show ((c.put s).voice v).content = .handover p i l from hc]
      rfl
    rw [acts, hc, entered, fades]
  | _ =>
    refine .inr ⟨fun p i l h => (nomatch h), ?_⟩
    rw [acts, hc]
    exact voice

theorem releaseNow_beside {r : EndReason} {f : Playing → Nat} {b : Bool} {p : Playing} (hp : (s.voice v).content = .sounding p)
    {w : Fin 24} (ne : w ≠ v) (stays : ∀ i, (s.voice w).content.incoming = some i → i.follows v p.claim.number = false) :
    (releaseNow v r f b s).voice w = s.voice w := by
  rw [releaseNow_voice, if_neg ne]
  unfold Voice.besideRelease
  rw [hp]
  exact cancelled_of_other stays

theorem releaseNow_alike {r : EndReason} {f : Playing → Nat} {b : Bool} (silent : (s.voice v).content.isSounding = false)
    {w : Fin 24} (ne : w ≠ v) : (releaseNow v r f b s).voice w = s.voice w := by
  rw [releaseNow_voice, if_neg ne]
  unfold Voice.besideRelease
  cases hc : (s.voice v).content with
  | sounding p =>
    rw [hc] at silent
    cases silent
  | _ => rfl

/-- What is recorded first from a state on is recorded first from an earlier one on, when nothing was reported between. -/
theorem recorded.before {r : Report} (h : recorded r u t) (quiet : Silent s u) : recorded r s t := fun room => by
  rw [← recordJob_of quiet.header, ← quiet.reports]
  exact h (quiet.hasRoom room)

/-- The last end that a release records is that of the claim it withdraws. -/
theorem releaseNow_lastEnd {r : EndReason} {f : Playing → Nat} {b : Bool} {i : Incoming}
    (hi : (s.voice v).content.incoming = some i) (fades : b = false ∨ ∀ p i l, (s.voice v).content ≠ .handover p i l) :
    ((releaseNow v r f b s).voice v).lastEnd = some (i.claim.number, false) := by
  rw [releaseNow_voice, if_pos rfl]
  have last := withdrawn_lastEnd hi
  unfold Voice.afterRelease
  cases hc : (s.voice v).content with
  | priming j => exact last
  | armed j => exact last
  | handover p j l =>
    rw [fades.resolve_right fun other => other p j l hc]
    exact last
  | _ =>
    rw [hc] at hi
    cases hi

/-- What a release through the key's link leaves of the voice and the others. -/
theorem released_byKey (z : Unread) {x : State} (hx : x = completeEntry v s) (ht : t = holdToPlayRelease v (s.voice v).claimNo (z.put s)) :
    t.trigger = (z.put s).trigger ∧ t.rest = (z.put s).rest
      ∧ (∀ p i l, (s.voice v).content = .handover p i l → (t.voice v).content = .releasing p)
      ∧ ((∀ p i l, (s.voice v).content ≠ .handover p i l) →
        (t.voice v).content = (x.voice v).content.afterRelease .released (fun p => p.sound.fadeOut) true)
      ∧ (t.voice v).claimNo = (s.voice v).numberAfterWithdraw
      ∧ t.startOrder = (if (x.voice v).content.isSounding then x.startOrder.erase v else x.startOrder)
      ∧ (∀ p, (x.voice v).content = .sounding p → ∀ w, w ≠ v →
        (∀ i, (x.voice w).content.incoming = some i → i.follows v p.claim.number = false) → t.voice w = x.voice w)
      ∧ ((x.voice v).content.isSounding = false → ∀ w, w ≠ v → t.voice w = x.voice w)
      ∧ ∀ i, (s.voice v).content.incoming = some i → (t.voice v).lastEnd = some (i.claim.number, false)
        ∧ recorded (aboutClaim .ended v i.claim (toBytes 2 i.claim.number.toNat ++ [1, 0]) s) s t := by
  obtain ⟨y, hy⟩ : ∃ y, y = z.put x := ⟨_, rfl⟩
  have still : ∀ w, y.voice w = x.voice w := fun w => by rw [hy]; rfl
  have order : y.startOrder = x.startOrder := by rw [hy]; rfl
  have entry : y = completeEntry v (z.put s) := by
    rw [hy, hx]
    exact (beside_completeEntry v z s).symm
  have entered : ∀ i, (s.voice v).content.incoming = some i → x = s := fun i hi =>
    hx.trans (completeEntry_of_entered fun q hq => by rw [hq] at hi; cases hi)
  obtain ⟨b, acts, fades⟩ : ∃ b, t = releaseNow v .released (fun p => p.sound.fadeOut) b y
      ∧ (b = false ∧ (∃ p i l, (s.voice v).content = .handover p i l)
        ∨ b = true ∧ ∀ p i l, (s.voice v).content ≠ .handover p i l) := by
    rw [ht, hy, hx]
    rcases holdToPlayRelease_acts (s := s) (v := v) rfl z with ⟨p, i, l, hc, acts⟩ | ⟨other, acts⟩
    · exact ⟨false, acts, .inl ⟨rfl, p, i, l, hc⟩⟩
    · exact ⟨true, acts, .inr ⟨rfl, other⟩⟩
  have only := releaseOnly_releaseNow v .released (fun p => p.sound.fadeOut) b y
  rw [← acts] at only
  have content : (t.voice v).content = (x.voice v).content.afterRelease .released (fun p => p.sound.fadeOut) b := by
    rw [acts, releaseNow_self, still]
  refine ⟨?_, ?_, fun p i l hc => ?_, fun other => ?_, ?_, ?_, fun p hp w ne follows => ?_, fun quiet w ne => ?_, fun i hi => ?_⟩
  · rw [only.trigger, entry, completeEntry_trigger]
  · rw [only.rest, entry]
    exact rest_of_quiet (quiet_completeEntry v _)
  · obtain ⟨rfl, -⟩ := fades.resolve_right fun h => h.2 p i l hc
    rw [content, entered i (by rw [hc]; rfl), hc]
    rfl
  · obtain ⟨rfl, -⟩ := fades.resolve_left fun ⟨_, p, i, l, hc⟩ => other p i l hc
    exact content
  · rw [acts, releaseNow_voice, if_pos rfl, afterRelease_claimNo, still, hx, completeEntry_number]
  · rw [acts, releaseNow_startOrder, still, order]
  · rw [acts, releaseNow_beside (by rw [still]; exact hp) ne (by rw [still]; exact follows), still]
  · rw [acts, releaseNow_alike (by rw [still]; exact quiet) ne, still]
  · have back := entered i hi
    have incoming : (y.voice v).content.incoming = some i := by
      rw [still, back]
      exact hi
    have other : b = false ∨ ∀ p j l, (y.voice v).content ≠ .handover p j l :=
      fades.imp (fun h => h.1) fun h p j l hc => h.2 p j l (by rw [← back, ← still]; exact hc)
    refine ⟨(congrArg (fun t : State => (t.voice v).lastEnd) acts).trans (releaseNow_lastEnd incoming other), ?_⟩
    have told := releaseNow_tells incoming .released (fun p => p.sound.fadeOut) b
    have quiet : Silent s y := by
      rw [hy, back]
      exact ⟨rfl, rfl, rfl, keepsLine_of_port rfl⟩
    have clock : y.clock = s.clock := by rw [hy, back]; rfl
    have unsounded : endedUnsounded 1 s v = some (aboutClaim .ended v i.claim (toBytes 2 i.claim.number.toNat ++ [1, 0]) s) :=
      congrArg (Option.map _) hi
    obtain ⟨j, hj, report⟩ := endedUnsounded_of unsounded (r := .released) rfl
    cases hi.symm.trans hj
    rw [report, acts]
    unfold now32 at told ⊢
    rw [clock] at told
    exact told.before quiet

theorem keyEdge_due (h : s.trigger.keys[k].due = true) : keyEdge k s = raiseEvent (.key k s.trigger.keys[k].seen (now s))
    (setTrigger { s.trigger with keys := s.trigger.keys.set k s.trigger.keys[k].take } s) := by
  unfold keyEdge
  exact if_pos h

theorem keyEvent_due (h : s.trigger.keys[k].due = true) (ht : raiseEvent (.key k s.trigger.keys[k].seen (now s))
    (setTrigger { s.trigger with keys := s.trigger.keys.set k s.trigger.keys[k].take } s) = t) :
    exec (.keyEvent k) s = .next (arbitrate t) :=
  congrArg (fun t => Host.Outcome.next (arbitrate t)) ((keyEdge_due h).trans ht)

end

/-- Settles O20. -/
theorem keyEventTaken : Obligations.KeyEventTaken := by
  refine ⟨fun c k press at_ s u run idle taken => ?_, fun k s u due hu => ⟨fun run waits => ?_, fun idle => ?_⟩⟩
  · obtain ⟨z, hz, same, act⟩ : ∃ z : Unread, u = z.put s ∧ z.links = id
        ∧ exec c s = .next (arbitrate (takeEvent (.key k press at_) u)) := by
      rcases taken with ⟨rfl, due, empty, rfl, rfl, rfl⟩ | ⟨q, rfl, hq, untaken, rfl⟩
      · exact ⟨{ keys := fun _ => s.trigger.keys.set k s.trigger.keys[k].take }, rfl, rfl,
          keyEvent_due due (raiseEvent_takes run idle empty)⟩
      · exact ⟨{ events := fun _ => q, taken := fun _ => true }, rfl, rfl,
          congrArg (fun t => Host.Outcome.next (arbitrate t)) (takeQueued_takes run idle untaken hq)⟩
    have links : u.trigger.holdLinks = s.trigger.holdLinks := by
      rw [hz]
      exact congrFun same _
    have map : u.trigger.keyMap = s.trigger.keyMap := by rw [hz]; rfl
    have resolver : u.resolver = s.resolver := by rw [hz]; rfl
    have voices : u.voices = s.voices := by rw [hz]; rfl
    have silent : Silent s u := by
      rw [hz]
      exact ⟨rfl, rfl, rfl, keepsLine_of_port rfl⟩
    refine ⟨fun down room => ?_, fun down full => ?_, fun up rests => ?_, fun up hold v x link hx => ?_⟩
    · rw [down] at act
      have places : takeEvent (.key k true at_) u = _ := placeLineFire_room (by rw [resolver]; exact room)
      rw [places, resolver, map] at act
      exact ⟨_, act, portBut_arbitrate _⟩
    · rw [down] at act
      have drops : takeEvent (.key k true at_) u = _ := placeLineFire_full (by rw [resolver]; exact full)
      rw [drops, map] at act
      have port := portOnly_arbitrate (emit (droppedReport dropIntakeFull s.trigger.keyMap[k].selector (.key k true at_) 255) u)
      refine ⟨_, act, ?_, ?_, ?_, ?_, ?_⟩
      · rw [port.resolver, emit_resolver, resolver]
      · rw [port.trigger, emit_trigger]
      · exact port.rest.trans (rest_of_quiet (quiet_emit _ _))
      · exact (voicesAlike_of_voices ((emit_voices _ u).trans voices)).trans port.2
      · exact ((recorded_emit silent).keeps (keepsLine_arbitrate _)).first
    · rw [up] at act
      have unlinks : takeEvent (.key k false at_) u = setHoldLink k none u := keyRelease_unlinks (by
        rw [links, map]
        simpa only [voice_of_voices voices] using rests)
      rw [unlinks] at act
      refine ⟨_, act, ?_⟩
      rw [← links]
      exact portBut_arbitrate _
    · rw [up] at act
      have released : takeEvent (.key k false at_) u =
          holdToPlayRelease v (s.voice v).claimNo (Unread.put { z with links := fun _ => s.trigger.holdLinks.set k none } s) := by
        have named : keyRelease k u = _ := keyRelease_some (by rw [links]; exact link)
        rw [map, hold, if_pos rfl] at named
        refine named.trans ?_
        unfold setHoldLink
        rw [links, hz]
        rfl
      obtain ⟨t, ht⟩ : ∃ t, t = takeEvent (.key k false at_) u := ⟨_, rfl⟩
      rw [← ht] at act released
      obtain ⟨trigger, rest, fades, ends, claimNo, order, others, alike, tells⟩ := released_byKey _ hx released
      have port := portOnly_arbitrate t
      refine ⟨_, act, ?_, ?_, ?_, ?_, ?_, fun p hp w ne follows => ?_, fun quiet w ne => ?_, fun i hi => ?_⟩
      · rw [port.trigger, trigger]
        exact Vector.getElem_set_self k.isLt
      · rw [port.rest, rest, hz]
        rfl
      · rw [port.2.content]
        cases hc : (s.voice v).content with
        | handover p i l => exact fades p i l hc
        | _ => exact ends fun p i l h => nomatch hc.symm.trans h
      · rw [port.2.claimNo, claimNo]
      · rw [port.startOrder, order]
      · exact .of_eq (others p hp w ne follows) port
      · exact .of_eq (alike quiet w ne) port
      · obtain ⟨last, told⟩ := tells i hi
        exact ⟨(congrArg Voice.lastEnd (port.2 v)).trans last, (told.keeps (keepsLine_arbitrate _)).first⟩
  · obtain ⟨t, ht⟩ : ∃ t, t = raiseEvent (.key k s.trigger.keys[k].seen (now s)) u := ⟨_, rfl⟩
    have act : exec (.keyEvent k) s = .next (arbitrate t) := keyEvent_due due (by rw [ht, hu]; rfl)
    have queue : u.trigger.queue = s.trigger.queue := by rw [hu]
    have run' : isRunning u = true := by rw [hu]; exact run
    have waits' : eventsWait u := by rw [hu]; exact waits
    refine ⟨_, act, fun room => ?_, fun full => ?_⟩
    · rw [ht, raiseEvent_joins run' waits' (by rw [queue]; exact room), queue]
      exact portBut_arbitrate _
    · have port := portOnly_arbitrate t
      have drops := ht.trans (raiseEvent_drops run' waits' (by rw [queue]; exact full))
      refine ⟨?_, ?_, ?_, ?_⟩
      · rw [port.trigger, drops, emit_trigger]
      · rw [port.resolver, drops, emit_resolver, hu]
      · refine (voicesAlike_of_voices ?_).trans port.2
        rw [drops, emit_voices, hu]
      · have silent : Silent s u := by
          rw [hu]
          exact ⟨rfl, rfl, rfl, keepsLine_of_port rfl⟩
        have report : droppedReport dropQueueFull Selector.null (.key k s.trigger.keys[k].seen (now s)) 255 =
            aboutNone .triggerDropped Selector.null ([1, 1] ++ toBytes 1 k.val ++ [if s.trigger.keys[k].seen then 0 else 1, 0xFF]) s := by
          cases s.trigger.keys[k].seen <;> rfl
        rw [drops, report]
        exact ((recorded_emit silent).keeps (keepsLine_arbitrate _)).first
  · have act : exec (.keyEvent k) s = .next (arbitrate u) := keyEvent_due due (by
      rw [hu]
      exact raiseEvent_discards idle)
    exact ⟨_, act, portBut_arbitrate u⟩

end Sys2Proof.Machine
end

section
/-! The rule store at a line event (R125 to R130). -/

namespace Sys2Proof.Machine

/-! ### The tests -/

section
variable {n : Fin 16} {up : Bool} {x : Time} {i : Nat} {r : Rule} {a : RuleAction} {e : Event} {g : Fin 8} {s t : State}

theorem edge_takes (e : RuleEdge) (up : Bool) :
    e.takes up = true ↔ e = .both ∨ e = .assert ∧ up = true ∨ e = .deassert ∧ up = false := by
  cases e <;> cases up <;> decide

theorem conditionPasses_iff (vars : Vector Half 32) (c : Option Condition) :
    conditionPasses vars c = true ↔ ∀ y, c = some y → y.holds vars = true := by
  cases c with
  | none => exact ⟨fun _ y h => (nomatch h), fun _ => rfl⟩
  | some y => exact ⟨fun h z hz => Option.some.inj hz ▸ h, fun h => h y rfl⟩

theorem takes_iff : takes n up s i r = true ↔ r.action ≠ none ∧ s.trigger.armed.getLsbD i = true
    ∧ r.sources.getLsbD n = true ∧ (r.edge = .both ∨ r.edge = .assert ∧ up = true ∨ r.edge = .deassert ∧ up = false)
    ∧ ∀ c, r.guardCond = some c → c.holds s.resolver.vars = true := by
  unfold takes ruleMatches
  rw [Bool.and_eq_true, Bool.and_eq_true, Bool.and_eq_true, Bool.and_eq_true, edge_takes, conditionPasses_iff,
    Option.isSome_iff_ne_none]
  simp only [and_assoc]

/-! ### One action -/

theorem ruleAction_groups (h : ∀ mask, a ≠ .reopen mask) : (ruleAction i r e a s).trigger.groups = s.trigger.groups := by
  have quiet : ∀ {u : State}, u.quiet = s.quiet → u.trigger.groups = s.trigger.groups := fun h => congrArg Quiet.groups h
  have variable_ : ∀ v x, (setVariable v x s).trigger.groups = s.trigger.groups := fun v x => by
    unfold setVariable
    split <;> rfl
  cases a with
  | fire x =>
    rw [ruleAction_fire]
    unfold placeLineFire
    split
    · rfl
    · exact quiet (quiet_emit _ s)
  | releaseGroup g =>
    rw [ruleAction_releaseGroup]
    split
    · exact quiet (quiet_releaseGroup g s)
    · rfl
  | cutLast => exact quiet (quiet_cutLastVoice s)
  | varAdd v x => exact variable_ v _
  | varSet v x => exact variable_ v x
  | reopen mask => exact absurd rfl (h mask)

/-- An action that releases no voice and finds room for its fire reports nothing. -/
theorem silent_ruleAction (group : ∀ g, a ≠ .releaseGroup g) (cut : a ≠ .cutLast)
    (room : ∀ y, a = .fire y → s.resolver.lines.length < 16) : Silent s (ruleAction i r e a s) := by
  have variable_ : ∀ v x, Silent s (setVariable v x s) := fun v x => by
    unfold setVariable
    split
    · exact ⟨rfl, rfl, rfl, keepsLine_of_port rfl⟩
    · exact .refl s
  cases a with
  | fire y =>
    rw [ruleAction_fire, placeLineFire_room (room y rfl)]
    exact ⟨rfl, rfl, rfl, keepsLine_of_port rfl⟩
  | releaseGroup g => exact absurd rfl (group g)
  | cutLast => exact absurd rfl cut
  | varAdd v y => exact variable_ v _
  | varSet v y => exact variable_ v y
  | reopen mask => exact ⟨rfl, rfl, rfl, keepsLine_of_port rfl⟩

theorem setVariable_beyond {v : Nat} (h : 32 ≤ v) (y : Half) (s : State) : setVariable v y s = s :=
  dif_neg (Nat.not_lt.mpr h)

/-- CUT LAST of a rule, on a voice whose entry is complete. -/
theorem cutLast_cuts {v : Fin 24} {p : Playing} (last : s.startOrder.getLast? = some v)
    (hp : (s.voice v).content = .sounding p) (entry : p.entry = none) :
    ((cutLastVoice s).voice v).content = p.released 96 .cut ∧ (cutLastVoice s).startOrder = s.startOrder.erase v := by
  have cuts : cutLastVoice s = releaseNow v .cut (fun _ => cutLength) true s := by
    unfold cutLastVoice cutVoice
    rw [last]
    exact releaseVoice_entered (fun q hq => by rw [hp] at hq; cases hq; exact entry) _ _ _
  rw [cuts, releaseNow_self, releaseNow_startOrder, hp]
  exact ⟨rfl, rfl⟩

theorem cutLast_none (h : s.startOrder = []) : cutLastVoice s = s := by
  unfold cutLastVoice
  rw [h]
  rfl

/-- RELEASE GROUP of a rule, when no entry is still to come. -/
theorem releaseGroup_content {g : Nat} {w : Fin 24} (entered : ∀ v q, (s.voice v).content = .sounding q → q.entry = none)
    (h : (s.voice w).content.inGroup g = true) :
    ((releaseGroup g s).voice w).content = (s.voice w).content.afterRelease .released (fun p => p.sound.fadeOut) false := by
  unfold releaseGroup releaseAll
  rw [completeEntries_entered entered]
  exact (releaseAllNow_content _ _ _ false s nofun w).1 h

/-! ### Through the arrival group -/

theorem carryOut_open (group : r.group = some g) (h : s.trigger.groups[g] = none) : carryOut n up x i r a s =
    emit (groupReport .won a x (toBytes 1 (g.val + 1) ++ toBytes 1 n.val ++ toBytes 1 (if up then 0 else 1) ++ toBytes 1 i))
      (closeGroup g { line := n, sample := x, rule := i } (ruleAction i r (.line n up x) a s)) := by
  unfold carryOut consultGroup
  rw [group]
  dsimp only
  rw [h]

theorem carryOut_closed {w : Winner} (group : r.group = some g) (h : s.trigger.groups[g] = some w) :
    carryOut n up x i r a s = emit (groupReport .lockedOut a x (toBytes 1 (g.val + 1) ++ toBytes 1 n.val ++ toBytes 1 i
      ++ toBytes 1 w.line.val ++ toBytes 2 (saturate 65535 (x - w.sample).toNat))) s := by
  unfold carryOut consultGroup
  rw [group]
  dsimp only
  rw [h]

theorem carryOut_free (group : r.group = none) : carryOut n up x i r a s = ruleAction i r (.line n up x) a s := by
  unfold carryOut
  rw [group]

/-- A rule with no group, or the first of an OPEN one, carries its action out: what follows is the close of the group and
its WON report. -/
theorem carryOut_acts (h : r.group = none ∨ ∃ g, r.group = some g ∧ s.trigger.groups[g] = none)
    (ht : t = ruleAction i r (.line n up x) a s) : (carryOut n up x i r a s).resolver = t.resolver
      ∧ (carryOut n up x i r a s).voices = t.voices ∧ (carryOut n up x i r a s).startOrder = t.startOrder
      ∧ keepsLine t (carryOut n up x i r a s) := by
  rcases h with group | ⟨g, group, opened⟩
  · rw [carryOut_free group, ht]
    exact ⟨rfl, rfl, rfl, keepsLine_refl _⟩
  · rw [carryOut_open group opened, ← ht]
    exact ⟨emit_resolver _ _, emit_voices _ _, emit_startOrder _ _,
      (keepsLine_of_port rfl).trans (keepsLine_emit _ (closeGroup g { line := n, sample := x, rule := i } t))⟩

theorem won_report (a : RuleAction) (x : Time) (g : Fin 8) (n : Fin 16) (up : Bool) (i : Nat) (s : State) :
    groupReport .won a x (toBytes 1 (g.val + 1) ++ toBytes 1 n.val ++ toBytes 1 (if up then 0 else 1) ++ toBytes 1 i) =
      { aboutNone .won a.selector (toBytes 1 (g.val + 1) ++ toBytes 1 n.val ++ [if up then 0 else 1] ++ toBytes 1 i) s with
        time := x.setWidth 32 } := by
  cases up <;> rfl

theorem fire_report (n : Fin 16) (up : Bool) (x : Time) (y : Selector) (i : Nat) (s : State) :
    droppedReport dropIntakeFull y (.line n up x) i =
      { aboutNone .triggerDropped y ([0, 0] ++ toBytes 1 n.val ++ [if up then 0 else 1] ++ toBytes 1 i) s with
        time := x.setWidth 32 } := by
  cases up <;> rfl

end

/-! ### The event's turn -/

/-- The rules are about to see an event of `s`: of what they read, and of the reports, nothing has changed. -/
structure Ready (s y : State) : Prop where
  voices : y.voices = s.voices
  startOrder : y.startOrder = s.startOrder
  resolver : y.resolver = s.resolver
  groups : y.trigger.groups = s.trigger.groups
  rules : y.trigger.rules = s.trigger.rules
  armed : y.trigger.armed = s.trigger.armed
  silent : Silent s y

theorem ready_edge (n : Fin 16) (s : State) : Ready s (edgeTaken n s) := ⟨rfl, rfl, rfl, rfl, rfl, rfl, silent_edgeTaken n s⟩

theorem ready_queued (q : List Event) (s : State) : Ready s (setTrigger { s.trigger with queue := q, queueTaken := true } s) :=
  ⟨rfl, rfl, rfl, rfl, rfl, rfl, ⟨rfl, rfl, rfl, keepsLine_of_port rfl⟩⟩

/-- Behind an event of `s`, taken at `y`, whose only effect on the voices and the resolver is the action of rule `k`. -/
structure Carried (n : Fin 16) (up : Bool) (x : Time) (k : Nat) (r : Rule) (a : RuleAction) (s y t : State) : Prop where
  ready : Ready s y
  resolver : t.resolver = (ruleAction k r (.line n up x) a y).resolver
  content : ∀ v, (t.voice v).content = ((ruleAction k r (.line n up x) a y).voice v).content
  startOrder : t.startOrder = (ruleAction k r (.line n up x) a y).startOrder
  keeps : keepsLine (ruleAction k r (.line n up x) a y) t
  alike : ruleAction k r (.line n up x) a y = y → voicesAlike s t

section
variable {n : Fin 16} {up : Bool} {x : Time} {k : Nat} {r : Rule} {a : RuleAction} {s y t : State}

theorem carried_of (ready : Ready s y) (applies : r.group = none ∨ ∃ g, r.group = some g ∧ s.trigger.groups[g] = none)
    (ht : t = arbitrate (carryOut n up x k r a y)) : Carried n up x k r a s y t := by
  obtain ⟨resolver, voices, order, goesOn⟩ := carryOut_acts (n := n) (up := up) (x := x) (i := k) (a := a) (s := y)
    (by rw [ready.groups]; exact applies) rfl
  have port := portOnly_arbitrate (carryOut n up x k r a y)
  rw [← ht] at port
  refine ⟨ready, port.resolver.trans resolver, fun v => ?_, port.startOrder.trans order, ?_, fun same => ?_⟩
  · exact (port.2.content v).trans (congrArg Voice.content (voice_of_voices voices v))
  · rw [ht]
    exact goesOn.trans (keepsLine_arbitrate _)
  · exact (voicesAlike_of_voices (voices.trans ((congrArg State.voices same).trans ready.voices))).trans port.2

theorem Carried.voice (h : Carried n up x k r a s y t) (v : Fin 24) : y.voice v = s.voice v := voice_of_voices h.ready.voices v

theorem Carried.fires {z : Selector} (h : Carried n up x k r (.fire z) s y t) (room : s.resolver.lines.length < 16) :
    t.resolver = { s.resolver with lines := s.resolver.lines ++
      [{ source := .rule, origin := k, selector := z, level := r.level, frame := r.frame }] } := by
  rw [h.resolver, ruleAction_fire, placeLineFire_room (by rw [h.ready.resolver]; exact room), h.ready.resolver]

theorem Carried.drops {z : Selector} (h : Carried n up x k r (.fire z) s y t) (full : 16 ≤ s.resolver.lines.length) :
    t.resolver = s.resolver ∧ firstReport { aboutNone .triggerDropped z
      ([0, 0] ++ toBytes 1 n.val ++ [if up then 0 else 1] ++ toBytes 1 k) s with time := x.setWidth 32 } s t := by
  have drops : ruleAction k r (.line n up x) (.fire z) y = emit (droppedReport dropIntakeFull z (.line n up x) k) y :=
    placeLineFire_full (by rw [h.ready.resolver]; exact full)
  have keeps := h.keeps
  rw [fire_report n up x z k s] at drops
  rw [drops] at keeps
  refine ⟨?_, ((recorded_emit h.ready.silent).keeps keeps).first⟩
  rw [h.resolver, drops, emit_resolver, h.ready.resolver]

theorem Carried.adds {v : Nat} {z m : Half} (h : Carried n up x k r (.varAdd v z) s y t) (low : v < 32)
    (hm : m = BitVec.ofNat 16 (min 65535 (s.resolver.vars[v].toNat + z.toNat))) :
    t.resolver = { s.resolver with vars := s.resolver.vars.set v m } := by
  rw [h.resolver, hm]
  unfold ruleAction
  dsimp only
  rw [setVariable_of_lt low, variableAt_of_lt low, h.ready.resolver]
  rfl

theorem Carried.sets {v : Nat} {z : Half} (h : Carried n up x k r (.varSet v z) s y t) (low : v < 32) :
    t.resolver = { s.resolver with vars := s.resolver.vars.set v z } := by
  rw [h.resolver]
  unfold ruleAction
  dsimp only
  rw [setVariable_of_lt low, h.ready.resolver]

theorem Carried.beyond {v : Nat} {z : Half} (h : Carried n up x k r a s y t) (ha : a = .varAdd v z ∨ a = .varSet v z)
    (high : 32 ≤ v) : t.resolver = s.resolver := by
  refine h.resolver.trans (Eq.trans ?_ h.ready.resolver)
  rcases ha with rfl | rfl <;> exact congrArg State.resolver (setVariable_beyond high _ y)

theorem Carried.cuts {v : Fin 24} {p : Playing} (h : Carried n up x k r .cutLast s y t) (last : s.startOrder.getLast? = some v)
    (hp : (s.voice v).content = .sounding p) (entry : p.entry = none) :
    (t.voice v).content = p.released 96 .cut ∧ t.startOrder = s.startOrder.erase v := by
  obtain ⟨content, order⟩ := cutLast_cuts (s := y) (by rw [h.ready.startOrder]; exact last) (by rw [h.voice]; exact hp) entry
  rw [h.content, h.startOrder, ruleAction_cutLast, content, order, h.ready.startOrder]
  exact ⟨rfl, rfl⟩

theorem Carried.cutsNone (h : Carried n up x k r .cutLast s y t) (none_ : s.startOrder = []) : voicesAlike s t :=
  h.alike (ruleAction_cutLast.trans (cutLast_none (h.ready.startOrder.trans none_)))

theorem Carried.releases {g : Nat} (h : Carried n up x k r (.releaseGroup g) s y t) (low : 1 ≤ g) (high : g ≤ 15)
    (entered : ∀ w p, (s.voice w).content = .sounding p → p.entry = none) {w : Fin 24}
    (member : (s.voice w).content.inGroup g = true) :
    (t.voice w).content = (s.voice w).content.afterRelease .released (fun p => p.sound.fadeOut) false := by
  rw [h.content, ruleAction_releaseGroup, if_pos ((groupValid_iff g).mpr ⟨low, high⟩),
    releaseGroup_content (fun v p hp => entered v p (by rw [← h.voice]; exact hp)) (by rw [h.voice]; exact member), h.voice]

theorem Carried.releasesNone {g : Nat} (h : Carried n up x k r (.releaseGroup g) s y t) (out : g = 0 ∨ 16 ≤ g) :
    voicesAlike s t := by
  refine h.alike (if_neg fun valid => ?_)
  have bounds := (groupValid_iff g).mp valid
  omega

end

/-- Settles O21. -/
theorem rulesEvaluated : Obligations.RulesEvaluated := by
  intro c n up x s passes run idle turn hp
  obtain ⟨y, ready, act⟩ : ∃ y, Ready s y ∧ exec c s = .next (arbitrate (evaluateRules n up x 0 s.trigger.rules y)) := by
    rcases turn with ⟨rfl, due, empty, rfl, rfl, unheld⟩ | ⟨q, rfl, hq, untaken⟩
    · refine ⟨edgeTaken n s, ready_edge n s, (lineEvent_due due).trans ?_⟩
      rw [raiseEvent_takes (edgeHeard_running.trans run) (edgeHeard_loading.trans idle) (edgeHeard_queue.trans empty),
        edgeHeard_unheld (.inr unheld.symm)]
      rfl
    · exact ⟨_, ready_queued q s, congrArg (fun t => Host.Outcome.next (arbitrate t)) (takeQueued_takes run idle untaken hq)⟩
  have tests : ∀ (w : State), w.trigger.armed = s.trigger.armed → w.resolver.vars = s.resolver.vars →
      ∀ i r, takes n up w i r = passes i r := by
    intro w armed vars i r
    rw [Bool.eq_iff_iff, takes_iff, armed, vars]
    exact (hp i r).symm
  have vars : y.resolver.vars = s.resolver.vars := congrArg Resolver.vars ready.resolver
  have taken := tests y ready.armed vars
  have matches_ : ∀ i r, passes i r = true → ruleMatches i r n up y = true := fun i r h =>
    (Bool.and_eq_true_iff.mp ((taken i r).trans h)).2
  refine ⟨_, act, fun none_ => ?_, fun k r a hr pass ha first => ?_⟩
  · have same : evaluateRules n up x 0 s.trigger.rules y = y := evaluateRules_none fun i r hr => by
      rw [Nat.zero_add, taken]
      exact none_ i r hr
    have port := portOnly_arbitrate y
    rw [same, port.resolver, port.trigger, port.startOrder, port.reports]
    exact ⟨ready.resolver, ready.groups, ready.startOrder, ready.silent.reports, (voicesAlike_of_voices ready.voices).trans port.2⟩
  · have taken_ := evaluateRules_first (x := x) (i := 0) (s := y) hr ha (by rw [Nat.zero_add]; exact matches_ k r pass)
      fun j z lt hz => by
        rw [Nat.zero_add, taken]
        exact first j z lt hz
    rw [Nat.zero_add] at taken_
    have opened' : ∀ g : Fin 8, s.trigger.groups[g] = none → y.trigger.groups[g] = none := fun g h => by rw [ready.groups]; exact h
    refine ⟨fun last => ?_, fun z z' r₂ goesOn hz group hr₂ pass₂ ha₂ group₂ last₂ room => ?_⟩
    · rw [last, if_neg Bool.false_ne_true] at taken_
      refine ⟨fun applies => ?_, fun g group => ⟨fun opened => ⟨?_, fun releases cut room => ?_⟩, fun w closed => ?_⟩⟩
      · have h := carried_of ready applies (congrArg arbitrate taken_)
        refine ⟨fun z ha room => ?_, fun z ha full => ?_, fun v z m ha low hm => ?_, fun v z ha low => ?_,
          fun v z ha high => h.beyond ha high, fun v p ha last hp entry => ?_, fun ha none_ => ?_,
          fun g ha low high entered w member => ?_, fun g ha out => ?_, fun group mask ha g => ?_, fun group other => ?_⟩
        · cases ha
          exact h.fires room
        · cases ha
          exact h.drops full
        · cases ha
          exact h.adds low hm
        · cases ha
          exact h.sets low
        · cases ha
          exact h.cuts last hp entry
        · cases ha
          exact h.cutsNone none_
        · cases ha
          exact h.releases low high entered member
        · cases ha
          exact h.releasesNone out
        · rw [(portOnly_arbitrate _).trigger, taken_, carryOut_free group, ha, ← ready.groups]
          exact Vector.getElem_ofFn _
        · rw [(portOnly_arbitrate _).trigger, taken_, carryOut_free group, ruleAction_groups other, ready.groups]
      · rw [(portOnly_arbitrate _).trigger, taken_, carryOut_open group (opened' g opened), emit_trigger]
        exact Vector.getElem_set_self g.isLt
      · have silent := ready.silent.trans (silent_ruleAction (i := k) (r := r) (e := .line n up x) releases cut
          fun z ha => by rw [ready.resolver]; exact room z ha)
        have closes : Silent s (closeGroup g { line := n, sample := x, rule := k } (ruleAction k r (.line n up x) a y)) :=
          silent.trans ⟨rfl, rfl, rfl, keepsLine_of_port rfl⟩
        rw [carryOut_open group (opened' g opened), won_report a x g n up k s] at taken_
        rw [taken_]
        have told := ((recorded_emit closes).keeps (keepsLine_arbitrate _)).first (r :=
          { aboutNone .won a.selector (toBytes 1 (g.val + 1) ++ toBytes 1 n.val ++ [if up then 0 else 1] ++ toBytes 1 k) s with
            time := x.setWidth 32 })
        cases a <;> exact told
      · have locks := taken_.trans (carryOut_closed group (by rw [ready.groups]; exact closed))
        have port := portOnly_arbitrate (evaluateRules n up x 0 s.trigger.rules y)
        refine ⟨?_, ?_, ?_, ?_⟩
        · rw [port.trigger, locks, emit_trigger, ready.groups]
        · rw [port.resolver, locks, emit_resolver, ready.resolver]
        · refine (voicesAlike_of_voices ?_).trans port.2
          rw [locks, emit_voices, ready.voices]
        · rw [locks]
          have told := ((recorded_emit (r := groupReport .lockedOut a x (toBytes 1 (g.val + 1) ++ toBytes 1 n.val ++ toBytes 1 k
            ++ toBytes 1 w.line.val ++ toBytes 2 (saturate 65535 (x - w.sample).toNat))) ready.silent).keeps
              (keepsLine_arbitrate _)).first
          cases a <;> exact told
    · obtain ⟨u, hu⟩ : ∃ u, u = carryOut n up x k r a y := ⟨_, rfl⟩
      have placed : u = { y with resolver := { y.resolver with lines := y.resolver.lines ++
          [{ source := .rule, origin := k, selector := z, level := r.level, frame := r.frame }] } } := by
        rw [hu, carryOut_free group, hz]
        exact placeLineFire_room (by rw [ready.resolver]; omega)
      have passes₂ : ruleMatches (k + 1) r₂ n up u = true := by
        have test := tests u (by rw [placed]; exact ready.armed) (by rw [placed]; exact vars)
        exact (Bool.and_eq_true_iff.mp ((test (k + 1) r₂).trans pass₂)).2
      obtain ⟨more, rest⟩ : ∃ more, s.trigger.rules.drop (k + 1) = r₂ :: more :=
        ⟨_, List.drop_eq_getElem?_toList_append.trans (by rw [hr₂]; rfl)⟩
      rw [goesOn, if_pos rfl, ← hu, rest, evaluateRules_take ha₂ passes₂, last₂, if_neg Bool.false_ne_true,
        carryOut_free group₂] at taken_
      have lines : u.resolver.lines = s.resolver.lines ++
          [{ source := .rule, origin := k, selector := z, level := r.level, frame := r.frame }] := by
        rw [placed, ready.resolver]
      have fires := placeLineFire_room (f := { source := .rule, origin := k + 1, selector := z', level := r₂.level, frame := r₂.frame })
        (e := .line n up x) (n := k + 1) (s := u) (by
          rw [lines, List.length_append]
          exact Nat.succ_lt_succ room)
      rw [(portOnly_arbitrate _).resolver, taken_, ruleAction_fire, fires, lines, placed, ready.resolver, List.append_assoc]
      rfl

end Sys2Proof.Machine
end

section
/-! What the events due at a sample leave alone: show memory, show time, and what the qualifiers have seen (R20, R119). -/

namespace Sys2Proof.Machine

/-- What no event at a sample touches: show memory, show time, the reference level seen, and the inputs' qualifiers. -/
structure Senses where
  mem : List Host.Cell
  showTime : Time
  refSeen : Bool
  qualify : Vector Nat 16
  lines : Vector Qualifier 16
  keys : Vector Qualifier 8

def Quiet.senses (q : Quiet) : Senses :=
  { mem := q.mem, showTime := q.clock.showTime, refSeen := q.clock.refSeen, qualify := q.qualify, lines := q.lines, keys := q.keys }

def State.senses (s : State) : Senses := s.quiet.senses

theorem senses_of_quiet {s t : State} (h : t.quiet = s.quiet) : t.senses = s.senses := congrArg Quiet.senses h

theorem senses_of_spared {s t : State} (h : t.spared = s.spared) : t.senses = s.senses := by
  have same : t.spared.senses = s.spared.senses := congrArg Quiet.senses h
  exact same

theorem senses_foldl {α : Type} (f : State → α → State) (h : ∀ t a, (f t a).senses = t.senses) (l : List α) :
    ∀ s, (l.foldl f s).senses = s.senses := by
  induction l with
  | nil => exact fun _ => rfl
  | cons a l ih => exact fun s => (ih _).trans (h s a)

@[simp] theorem senses_emit (r : Report) (s : State) : (emit r s).senses = s.senses := senses_of_quiet (quiet_emit r s)

@[simp] theorem senses_giveResult (i : Nat) (c : ResultCode) (d : List Byte) (s : State) : (giveResult i c d s).senses = s.senses :=
  senses_of_quiet (quiet_giveResult i c d s)

@[simp] theorem senses_claim (r : ClaimRequest) (l : Option Word) (s : State) : (claim r l s).senses = s.senses :=
  senses_of_quiet (quiet_claim r l s)

/-! ### Boundaries -/

theorem senses_changeLock (new : LockState) (cause : RefCause) (s : State) : (changeLock new cause s).senses = s.senses := by
  unfold changeLock
  dsimp only
  split
  · exact senses_emit _ _
  · rfl

theorem senses_scheduleWalk (s : State) : (scheduleWalk s).senses = s.senses := by
  have prime : ∀ (t : State) (e : Entry), (primeEntry t e).senses = t.senses := fun t e => by
    unfold primeEntry
    dsimp only
    split
    · exact senses_claim _ _ t
    · split
      · exact senses_claim _ _ t
      · exact senses_emit _ t
  unfold scheduleWalk
  dsimp only
  split
  · exact senses_foldl _ (fun t e => senses_emit _ t) _ _
  · exact senses_foldl _ prime _ _

theorem senses_makeBoundary (cause : BoundaryCause) (s : State) : (makeBoundary cause s).senses = s.senses := by
  have clips : ∀ t, (closeClips t).senses = t.senses := fun t => by
    unfold closeClips
    dsimp only
    split
    · exact senses_emit _ _
    · rfl
  have meter : ∀ t, (closeMeter t).senses = t.senses := fun t => by
    unfold closeMeter
    split
    · split
      · exact senses_emit _ _
      · rfl
    · rfl
  have reports : ∀ t, (boundaryReports t).senses = t.senses := fun t => by
    unfold boundaryReports readReturnedTo
    split
    · split <;> rfl
    · rfl
  have slate : ∀ t, (boundarySlate t).senses = t.senses := fun t => by
    have scan : (startScan t).senses = t.senses := by
      unfold startScan
      split <;> rfl
    have mirror_ : ∀ u, (mirror u).senses = u.senses := fun u => by
      unfold mirror
      dsimp only
      split <;> rfl
    unfold boundarySlate
    split
    · exact (mirror_ _).trans scan
    · rfl
  have schedule : ∀ t, (boundarySchedule t).senses = t.senses := fun t => by
    unfold boundarySchedule
    split
    · exact senses_scheduleWalk t
    · rfl
  have voices : ∀ t, (allVoices.foldl boundaryVoice t).senses = t.senses :=
    senses_foldl _ (fun t v => senses_of_quiet (quiet_boundaryVoice t v)) allVoices
  unfold makeBoundary
  dsimp only
  rw [schedule, voices, slate, reports, meter, clips]
  rfl

theorem senses_predictedBoundary (s : State) : (predictedBoundary s).senses = s.senses := by
  unfold predictedBoundary
  split
  · rw [senses_makeBoundary]
    unfold Clock.reduce
    split <;> rfl
  · rfl

theorem senses_reEpoch (s : State) : (reEpoch s).senses = s.senses := by
  unfold reEpoch
  dsimp only
  split
  · rfl
  · exact senses_makeBoundary _ _

theorem senses_takePulse (s : State) : (takePulse s).senses = s.senses := by
  unfold takePulse
  split
  · unfold judgePulse
    split
    · exact (senses_reEpoch _).trans (senses_changeLock _ _ _)
    · split
      · rfl
      · unfold strayPulse
        split
        · exact senses_changeLock _ _ _
        · rfl
    · split
      · exact senses_changeLock _ _ _
      · exact (senses_reEpoch _).trans (senses_changeLock _ _ _)
  · rfl

theorem senses_closeWindow (s : State) : (closeWindow s).senses = s.senses := by
  unfold closeWindow
  split
  · unfold missedWindow
    dsimp only
    split
    · exact senses_changeLock _ _ _
    · rfl
  · rfl

/-! ### The resolver and the requests -/

theorem senses_beginPass (r : Resolution) (s : State) : (beginPass r s).senses = s.senses := by
  have ends : ∀ c, (endResolution r c s).senses = s.senses := fun c => by
    unfold endResolution
    dsimp only
    split
    · exact senses_giveResult _ _ _ _
    · exact senses_emit _ _
  unfold beginPass
  split
  · exact ends _
  · split
    · exact ends _
    · rfl

theorem senses_takeItem (s : State) : (takeItem s).senses = s.senses := by
  unfold takeItem
  split
  · split
    · exact senses_beginPass _ _
    · split
      · exact senses_beginPass _ _
      · rfl
  · rfl

section
variable (t : Taken) (s : State)

theorem senses_withVoice (v : Nat) (act : Fin 24 → State → State) (h : ∀ w, (act w s).senses = s.senses) :
    (withVoice t v act s).senses = s.senses := by
  unfold withVoice
  split
  · exact h _
  · exact senses_giveResult _ _ _ s

theorem senses_goVoice (frame : Bool) (v : Fin 24) : (goVoice t frame v s).senses = s.senses := by
  unfold goVoice
  dsimp only
  split
  · exact senses_giveResult _ _ _ s
  · split
    · rw [senses_giveResult]
      split
      · exact senses_of_quiet (quiet_arm _ _ s)
      · exact senses_of_quiet (quiet_enterSounding _ _ _ _ s)
    · exact senses_giveResult _ _ _ _
    · exact senses_giveResult _ _ _ s

theorem senses_releaseRequest (r : EndReason) (f : Playing → Nat) (v : Fin 24) : (releaseRequest t r f v s).senses = s.senses := by
  unfold releaseRequest
  split
  · exact senses_giveResult _ _ _ s
  · exact (senses_giveResult _ _ _ _).trans (senses_of_quiet (quiet_releaseVoice _ _ _ _ s))

theorem senses_unloopRequest (v : Fin 24) : (unloopRequest t v s).senses = s.senses := by
  have voided : ∀ (p : Playing) (c : Playing → Content) (u : State), (unloopVoice v p c u).senses = u.senses := fun p c u => by
    unfold unloopVoice realign
    dsimp only
    exact (senses_of_quiet (quiet_placeRefill _ v)).trans ((senses_of_quiet (quiet_testFollow v _)).trans rfl)
  have entered : (completeEntry v s).senses = s.senses := senses_of_quiet (quiet_completeEntry v s)
  unfold unloopRequest unloopNow
  split
  · rw [senses_giveResult, voided, entered]
  · rw [senses_giveResult, voided, entered]
  · rw [senses_giveResult, entered]

theorem senses_requestCancel (tag : Half) : (requestCancel t tag s).senses = s.senses := by
  have link : ∀ (a : Nat × State) (v : Fin 24), (cancelLink tag a v).2.senses = a.2.senses := fun a v => by
    unfold cancelLink
    split
    · split
      · split
        · exact (senses_emit _ _).trans (senses_of_quiet ((quiet_withdraw v _).trans (quiet_clearLink v a.2)))
        · exact senses_of_quiet (quiet_clearLink v a.2)
      · rfl
    · rfl
  have links : ∀ (l : List (Fin 24)) (a : Nat × State), (l.foldl (cancelLink tag) a).2.senses = a.2.senses := fun l => by
    induction l with
    | nil => exact fun _ => rfl
    | cons v l ih => exact fun a => (ih _).trans (link a v)
  unfold requestCancel
  dsimp only
  rw [senses_giveResult, links]
  rfl

theorem senses_requestPin (x : Word × ClipFormat) : (requestPin t x s).senses = s.senses := by
  unfold requestPin
  split
  · exact senses_giveResult _ _ _ s
  · split
    · split <;> exact senses_giveResult _ _ _ s
    · split
      · exact senses_giveResult _ _ _ s
      · rfl

theorem senses_requestUnpin (x : Word × ClipFormat) : (requestUnpin t x s).senses = s.senses := by
  unfold requestUnpin
  split
  · exact senses_giveResult _ _ _ s
  · split
    · exact senses_giveResult _ _ _ _
    · split
      · exact senses_giveResult _ _ _ s
      · unfold unpinPending
        split
        · exact senses_giveResult _ _ _ _
        · exact (senses_giveResult _ _ _ _).trans (senses_giveResult _ _ _ _)

theorem senses_enterHold (d : Depth) (r : HoldRelease) (tag : Half) : (enterHold d r tag s).senses = s.senses := by
  have schedule : ∀ u, (deepHoldSchedule u).senses = u.senses := fun u =>
    senses_foldl (fun u e => emit (cancelledEntry e (now32 u)) u) (fun u e => senses_emit _ u) _ _
  have cache : ∀ u, (deepHoldCache u).senses = u.senses := fun u =>
    senses_foldl (fun t i => giveResult i .abandoned [] t) (fun u i => senses_giveResult _ _ _ u) _ _
  unfold enterHold
  dsimp only
  split
  · exact senses_emit _ _
  · rw [cache, senses_of_quiet (quiet_deepHoldVoices _), schedule, senses_emit]
    rfl

theorem senses_requestHold (a : Depth × Option Nat) : (requestHold t a s).senses = s.senses := by
  have judge : ∀ d r, (judgeHold t d r s).senses = s.senses := fun d r => by
    unfold judgeHold
    dsimp only
    split
    · exact senses_giveResult _ _ _ s
    · split
      · exact senses_giveResult _ _ _ _
      · split
        · exact senses_giveResult _ _ _ s
        · exact (senses_giveResult _ _ _ _).trans (senses_enterHold s _ _ _)
  unfold requestHold
  split
  · exact judge _ _
  · split
    · exact judge _ _
    · exact senses_giveResult _ _ _ s

theorem senses_requestSetRate (code : Nat) : (requestSetRate t code s).senses = s.senses := by
  unfold requestSetRate
  split
  · split
    · rw [senses_giveResult]
      unfold changeRate
      dsimp only
      split
      · rfl
      · exact senses_changeLock _ _ _
    · exact senses_giveResult _ _ _ s
  · exact senses_giveResult _ _ _ s

theorem senses_ownerActs (r : Request) : (ownerActs t r s).senses = s.senses := by
  cases r with
  | fire x o start => exact senses_beginPass _ s
  | prime x o => exact senses_beginPass _ s
  | probe x => exact senses_beginPass _ s
  | go v frame => exact senses_withVoice t s _ _ fun w => senses_goVoice t s _ w
  | setVar v op x =>
    unfold ownerActs requestSetVar
    dsimp only
    split
    · exact (senses_giveResult _ _ _ _).trans (senses_of_spared (spared_setVariable _ _ s))
    · exact senses_giveResult _ _ _ s
  | release v flag l => exact senses_withVoice t s _ _ fun w => senses_releaseRequest t s _ _ w
  | cut v => exact senses_withVoice t s _ _ fun w => senses_releaseRequest t s _ _ w
  | cutLast =>
    unfold ownerActs requestCutLast
    dsimp only
    split
    · exact (senses_giveResult _ _ _ _).trans (senses_of_quiet (quiet_cutVoice _ s))
    · exact senses_giveResult _ _ _ _
  | unloop v => exact senses_withVoice t s _ _ fun w => senses_unloopRequest t s w
  | releaseGroup g =>
    unfold ownerActs requestReleaseGroup
    dsimp only
    split
    · exact (senses_giveResult _ _ _ _).trans (senses_of_quiet (quiet_releaseGroup g s))
    · exact senses_giveResult _ _ _ s
  | cancel tag => exact senses_requestCancel t s tag
  | armRules m => exact senses_giveResult _ _ _ _
  | disarmRules m => exact senses_giveResult _ _ _ _
  | reopen m => exact senses_giveResult _ _ _ _
  | pin a f => exact senses_requestPin t s _
  | unpin a f => exact senses_requestUnpin t s _
  | trim b l =>
    unfold ownerActs requestTrim
    dsimp only
    split
    · exact senses_giveResult _ _ _ _
    · exact senses_giveResult _ _ _ s
  | hold d l => exact senses_requestHold t s _
  | resume =>
    unfold ownerActs requestResume
    dsimp only
    split
    · exact senses_giveResult _ _ _ s
    · exact (senses_giveResult _ _ _ _).trans (senses_emit _ _)
  | scene i =>
    unfold ownerActs requestScene
    dsimp only
    split
    · exact senses_giveResult _ _ _ s
    · split
      · exact senses_giveResult _ _ _ s
      · rfl
  | linesWrite m x => exact senses_giveResult _ _ _ _
  | linesModify x y => exact senses_giveResult _ _ _ _
  | setRate c => exact senses_requestSetRate t s c
  | ackFault => exact (senses_giveResult _ _ _ _).trans (senses_of_quiet (quiet_placeFaultRecord _))

end

theorem senses_settleQueue (l : List Taken) : ∀ s, (settleQueue l s).senses = s.senses := by
  induction l with
  | nil => exact fun _ => rfl
  | cons t l ih =>
    intro s
    unfold settleQueue
    split
    · rfl
    · exact (ih _).trans (senses_giveResult _ _ _ s)

theorem senses_takeWaiting (n : Nat) : ∀ s, (takeWaiting n s).senses = s.senses := by
  have head : ∀ s, (headTaken s).senses = s.senses := fun s => by
    unfold headTaken
    split
    · rfl
    · split
      · rfl
      · exact (senses_settleQueue _ _).trans (senses_ownerActs _ (popHead s) _)
  induction n with
  | zero => exact fun _ => rfl
  | succ n ih => exact fun s => (ih _).trans ((head _).trans (senses_takeItem s))

theorem senses_endStopping (s : State) : (endStopping s).senses = s.senses := by
  unfold endStopping
  dsimp only
  split <;> rfl

end Sys2Proof.Machine
end

section
/-! The word clock advances (R20, R24, R119, R120, R176). -/

namespace Sys2Proof.Machine

/-! ### The edges still due at the sample that ends -/

/-- A qualifier whose edge, if it is still due, has been taken. -/
def Qualifier.settled (x : Qualifier) : Qualifier := if x.due then x.take else x

/-- The sample after an edge still due has been taken. -/
theorem tick_settled (q : Nat) (l : Bool) (x : Qualifier) : x.settled.tick q l = qualified q l x := by
  obtain ⟨level, seen, count, due⟩ := x
  unfold Qualifier.settled Qualifier.tick Qualifier.take qualified
  cases due <;> cases l <;> cases level <;> cases seen <;> simp

/-- The senses of the state with other lines. -/
def Senses.withLines (x : Vector Qualifier 16) (q : Senses) : Senses := { q with lines := x }

/-- The senses of the state with other keys. -/
def Senses.withKeys (x : Vector Qualifier 8) (q : Senses) : Senses := { q with keys := x }

theorem senses_raiseEvent (e : Event) (s : State) : (raiseEvent e s).senses = s.senses := by
  obtain ⟨q, hq⟩ := spared_raiseEvent e s
  have same : (raiseEvent e s).spared.senses = { s.spared with events := q }.senses := congrArg Quiet.senses hq
  exact same

theorem senses_takeQueued (s : State) : (takeQueued s).senses = s.senses := by
  unfold takeQueued
  split
  · split
    · rfl
    · exact (senses_of_spared (spared_takeEvent _ _)).trans rfl
  · rfl

theorem senses_lineEdge (n : Fin 16) (s : State) :
    (lineEdge n s).senses = s.senses.withLines (s.trigger.lines.set n s.trigger.lines[n].settled) := by
  cases h : s.trigger.lines[n].due with
  | false =>
    have still : lineEdge n s = s := by
      unfold lineEdge
      exact if_neg (by rw [h]; exact Bool.false_ne_true)
    have same : s.trigger.lines.set n s.trigger.lines[n].settled = s.trigger.lines := by
      unfold Qualifier.settled
      rw [h, if_neg Bool.false_ne_true]
      exact Vector.set_getElem_self n.isLt
    rw [still, same]
    rfl
  | true =>
    have held : ∀ t, (holdEdge n s.trigger.lines[n].seen t).senses = t.senses := fun t => by
      unfold holdEdge
      split
      · exact senses_emit _ _
      · rfl
    rw [lineEdge_due h, senses_raiseEvent]
    unfold edgeHeard Qualifier.settled
    rw [held, h, if_pos rfl]
    rfl

theorem senses_keyEdge (k : Fin 8) (s : State) :
    (keyEdge k s).senses = s.senses.withKeys (s.trigger.keys.set k s.trigger.keys[k].settled) := by
  cases h : s.trigger.keys[k].due with
  | false =>
    have still : keyEdge k s = s := by
      unfold keyEdge
      exact if_neg (by rw [h]; exact Bool.false_ne_true)
    have same : s.trigger.keys.set k s.trigger.keys[k].settled = s.trigger.keys := by
      unfold Qualifier.settled
      rw [h, if_neg Bool.false_ne_true]
      exact Vector.set_getElem_self k.isLt
    rw [still, same]
    rfl
  | true =>
    rw [keyEdge_due h, senses_raiseEvent]
    unfold Qualifier.settled
    rw [h, if_pos rfl]
    rfl

/-- The qualifiers behind the edges that were due at the inputs of a list, one after another. -/
def settleIn {m : Nat} (l : List (Fin m)) (x : Vector Qualifier m) : Vector Qualifier m :=
  l.foldl (fun (y : Vector Qualifier m) (n : Fin m) => y.set n y[n].settled) x

theorem settleIn_getElem {m : Nat} (l : List (Fin m)) (hl : l.Nodup) : ∀ (x : Vector Qualifier m) (i : Fin m),
    (settleIn l x)[i] = if i ∈ l then x[i].settled else x[i] := by
  unfold settleIn
  induction l with
  | nil => exact fun x i => rfl
  | cons n l ih =>
    intro x i
    obtain ⟨fresh, hl⟩ := List.nodup_cons.mp hl
    rw [List.foldl_cons, ih hl]
    by_cases same : i = n
    · subst same
      simp [fresh]
    · have ne : (n : Nat) ≠ i := fun h => same (Fin.ext h.symm)
      simp [same, Vector.getElem_set_ne, ne]

theorem senses_lineEdges (l : List (Fin 16)) : ∀ s : State, (l.foldl (fun t n => lineEdge n t) s).senses =
    s.senses.withLines (settleIn l s.trigger.lines) := by
  induction l with
  | nil => exact fun _ => rfl
  | cons n l ih =>
    intro s
    have lines : (lineEdge n s).trigger.lines = s.trigger.lines.set n s.trigger.lines[n].settled :=
      congrArg Senses.lines (senses_lineEdge n s)
    rw [List.foldl_cons, ih, senses_lineEdge, lines]
    rfl

theorem senses_keyEdges (l : List (Fin 8)) : ∀ s : State, (l.foldl (fun t k => keyEdge k t) s).senses =
    s.senses.withKeys (settleIn l s.trigger.keys) := by
  induction l with
  | nil => exact fun _ => rfl
  | cons k l ih =>
    intro s
    have keys : (keyEdge k s).trigger.keys = s.trigger.keys.set k s.trigger.keys[k].settled :=
      congrArg Senses.keys (senses_keyEdge k s)
    rw [List.foldl_cons, ih, senses_keyEdge, keys]
    rfl

/-- Behind the events of a sample, every edge that was due has been taken, and show time and memory stand as before. -/
theorem senses_settle (s : State) : (settle s).senses = (s.senses.withLines
    (settleIn (List.finRange 16) s.trigger.lines)).withKeys
      (settleIn (List.finRange 8) s.trigger.keys) := by
  obtain ⟨a, ha⟩ : ∃ a, a = takeQueued (closeWindow (predictedBoundary (takePulse
      ((List.finRange 4).foldl (fun t g => duckStep g t) s)))) := ⟨_, rfl⟩
  have before : a.senses = s.senses := by
    rw [ha, senses_takeQueued, senses_closeWindow, senses_predictedBoundary, senses_takePulse]
    exact senses_foldl _ (fun t g => senses_of_quiet (quiet_duckStep g t)) _ s
  obtain ⟨b, hb⟩ : ∃ b, b = (List.finRange 16).foldl (fun t n => lineEdge n t) a := ⟨_, rfl⟩
  obtain ⟨c, hc⟩ : ∃ c, c = (List.finRange 8).foldl (fun t k => keyEdge k t) b := ⟨_, rfl⟩
  have lined : b.senses = s.senses.withLines (settleIn (List.finRange 16) s.trigger.lines) := by
    rw [hb, senses_lineEdges, before, show a.trigger.lines = s.trigger.lines from congrArg Senses.lines before]
  have keyed : c.senses = (s.senses.withLines (settleIn (List.finRange 16) s.trigger.lines)).withKeys
      (settleIn (List.finRange 8) s.trigger.keys) := by
    have keys : b.trigger.keys = s.trigger.keys := congrArg Senses.keys lined
    rw [hc, senses_keyEdges, lined, keys]
  have ends : ∀ t : State, (if stoppingEnds t then endStopping t else t).senses = t.senses := fun t => by
    split
    · exact senses_endStopping t
    · rfl
  rw [← keyed]
  unfold settle
  dsimp only
  rw [← ha, ← hb, ← hc, senses_of_quiet (quiet_placeRefills _), senses_takeWaiting, ends,
    senses_foldl _ fun t v => senses_of_quiet (quiet_exactStart v t),
    senses_foldl _ fun t v => senses_of_quiet (quiet_handoverFadeEnd v t),
    senses_foldl _ fun t v => senses_of_quiet (quiet_releaseComplete v t),
    senses_foldl _ fun t v => senses_of_quiet (quiet_naturalEnd v t),
    senses_foldl _ fun t v => senses_of_quiet (quiet_followRequest v t)]

/-! ### The new sample -/

/-- What a SAMPLE leaves of the quiet part: that of the new sample, behind the events of the sample that ends. -/
theorem quiet_sample (p : Pins) (s : State) : (arbitrate (sampleTick p s)).quiet =
    (newSample p (allVoices.foldl playVoice (mixBuses (contributions (settle s)) (settle s)))).quiet := by
  unfold sampleTick
  rw [quiet_arbitrate, quiet_placeRefills, quiet_completeEntries]

theorem senses_played (s : State) : (allVoices.foldl playVoice (mixBuses (contributions s) s)).senses = s.senses :=
  (senses_foldl _ (fun t v => senses_of_quiet (quiet_playVoice t v)) allVoices _).trans rfl

/-- Settles O12. -/
theorem sampleAdvancesTime : Obligations.SampleAdvancesTime := by
  intro p s
  obtain ⟨w, hw⟩ : ∃ w, w = allVoices.foldl playVoice (mixBuses (contributions (settle s)) (settle s)) := ⟨_, rfl⟩
  have senses : w.senses = _ := (congrArg State.senses hw).trans ((senses_played (settle s)).trans (senses_settle s))
  have time : w.clock.showTime = s.clock.showTime := congrArg Senses.showTime senses
  have seen : w.clock.refSeen = s.clock.refSeen := congrArg Senses.refSeen senses
  have counts : w.trigger.qualify = s.trigger.qualify := congrArg Senses.qualify senses
  have lines : w.trigger.lines = settleIn (List.finRange 16) s.trigger.lines := congrArg Senses.lines senses
  have keys : w.trigger.keys = settleIn (List.finRange 8) s.trigger.keys := congrArg Senses.keys senses
  have mem : w.mem = s.mem := congrArg Senses.mem senses
  obtain ⟨t, ht⟩ : ∃ t, t = arbitrate (sampleTick p s) := ⟨_, rfl⟩
  obtain ⟨n, hn⟩ : ∃ n, n = newSample p w := ⟨_, rfl⟩
  have quiet : t.quiet = n.quiet := by rw [ht, hn, hw, quiet_sample]
  have clock : t.clock = n.clock := congrArg Quiet.clock quiet
  have ticks : n.clock = w.clock.tick p.reference := by
    rw [hn]
    unfold newSample
    rw [mapDucks_clock]
    rfl
  have seesLine : ∀ i : Fin 16, n.trigger.lines[i] = w.trigger.lines[i].tick w.trigger.qualify[i] (p.lines.getLsbD i) := fun i => by
    rw [hn]
    exact Vector.getElem_ofFn _
  have seesKey : ∀ i : Fin 8, n.trigger.keys[i] = w.trigger.keys[i].tick 240 (p.keys.getLsbD i) := fun i => by
    rw [hn]
    exact Vector.getElem_ofFn _
  refine ⟨t, congrArg Host.Outcome.next ht.symm, ?_, ?_, ?_, ?_, ?_, ?_, fun i => ?_, fun i => ?_⟩
  · rw [clock, ticks, ← time]
    rfl
  · rw [show t.mem = n.mem from congrArg Quiet.mem quiet, ← mem, hn]
    rfl
  · rw [clock, ticks]
    rfl
  · rw [clock, ticks, ← seen]
    rfl
  · rw [show t.tally = n.tally from congrArg Quiet.tally quiet, hn]
    rfl
  · rw [show t.trigger.qualify = n.trigger.qualify from congrArg Quiet.qualify quiet, ← counts, hn]
    rfl
  · rw [show t.trigger.lines = n.trigger.lines from congrArg Quiet.lines quiet, seesLine, counts, lines,
      settleIn_getElem _ (List.nodup_finRange 16), if_pos (List.mem_finRange i), tick_settled]
  · rw [show t.trigger.keys = n.trigger.keys from congrArg Quiet.keys quiet, seesKey, keys,
      settleIn_getElem _ (List.nodup_finRange 8), if_pos (List.mem_finRange i), tick_settled]

end Sys2Proof.Machine
end

section
/-! One sample of the voices: each record plays on by itself, and the first frame that a claim lacks gives UNDERRUN (R86, R88). -/

namespace Sys2Proof.Machine

/-! ### One voice -/

section
variable {s t : State} {v : Fin 24}

theorem setVoice_same (v : Fin 24) (s : State) : setVoice v (s.voice v) s = s := by
  unfold setVoice State.voice
  rw [show s.voices.set v s.voices[v] = s.voices from Vector.set_getElem_self v.isLt]

/-- Hand on a report, if there is one. -/
def emitAny : Option Report → State → State
  | some r, s => emit r s
  | none, s => s

/-- The UNDERRUN report of a claim that plays in SOUNDING or RELEASING, if it gives one. -/
def underrunOf (s : State) (v : Fin 24) (p : Playing) : Option Report :=
  if p.fromNext = false ∧ (s.voice v).stream = [] ∧ p.underrun = false ∧ p.quiet = false then
    some (aboutClaim .underrun v p.claim (toBytes 2 p.claim.number.toNat ++ [0, 0] ++ toBytes 3 p.position) s)
  else none

theorem underrunHere_of {p : Playing} (h : (s.voice v).content = .sounding p ∨ (s.voice v).content = .releasing p) :
    underrunHere s v = underrunOf s v p := by
  unfold underrunHere
  rcases h with h | h
  · rw [h]
    rfl
  · rw [h]
    rfl

theorem underrunOf_kind {p : Playing} {r : Report} (h : underrunOf s v p = some r) : r.kind = .underrun := by
  obtain ⟨_, e⟩ := Option.ite_none_right_eq_some.mp h
  cases e
  rfl

theorem underrunHere_kind {r : Report} (h : underrunHere s v = some r) : r.kind = .underrun := by
  cases hc : (s.voice v).content with
  | sounding p => exact underrunOf_kind ((underrunHere_of (.inl hc)).symm.trans h)
  | releasing p => exact underrunOf_kind ((underrunHere_of (.inr hc)).symm.trans h)
  | _ =>
    unfold underrunHere at h
    rw [hc] at h
    cases h

theorem underrunOf_waits {p : Playing} (next : p.fromNext = true) : underrunOf s v p = none :=
  if_neg fun h => Bool.noConfusion (next.symm.trans h.1)

theorem reportUnderrun_eq {p : Playing} (next : p.fromNext = false) (s u : State) (clock : u.clock = s.clock) :
    reportUnderrun v p (s.voice v).stream.isEmpty u = emitAny (underrunOf s v p) u := by
  have report : underrunReport v p (now32 u) =
      aboutClaim .underrun v p.claim (toBytes 2 p.claim.number.toNat ++ [0, 0] ++ toBytes 3 p.position) s := by
    unfold now32
    rw [clock]
    rfl
  unfold reportUnderrun tell underrunOf
  rw [report, next]
  cases (s.voice v).stream <;> cases p.underrun <;> cases p.quiet <;> rfl

/-- A voice plays a sample: its own record changes, and its UNDERRUN is handed on. -/
theorem playVoice_eq (s : State) (v : Fin 24) :
    playVoice s v = emitAny (underrunHere s v) (setVoice v (s.voice v).played s) := by
  unfold playVoice Voice.played
  dsimp only
  cases hc : (s.voice v).content with
  | sounding p =>
    rw [underrunHere_of (.inl hc)]
    dsimp only
    cases next : p.fromNext with
    | true =>
      rw [underrunOf_waits next]
      rfl
    | false => exact reportUnderrun_eq next s _ rfl
  | releasing p =>
    rw [underrunHere_of (.inr hc)]
    dsimp only
    cases next : p.fromNext with
    | true =>
      rw [underrunOf_waits next]
      rfl
    | false => exact reportUnderrun_eq next s _ rfl
  | handover p i l =>
    have none_ : underrunHere s v = none := by
      unfold underrunHere
      rw [hc]
    rw [none_]
    dsimp only
    cases next : p.fromNext <;> rfl
  | _ =>
    have none_ : underrunHere s v = none := by
      unfold underrunHere
      rw [hc]
    rw [none_]
    exact (setVoice_same v s).symm

theorem underrunHere_congr (voice : t.voice v = s.voice v) (clock : t.clock = s.clock) : underrunHere t v = underrunHere s v := by
  unfold underrunHere aboutClaim
  rw [voice, clock]

end

/-! ### All voices -/

/-- What the playing of voices leaves alone. -/
structure PlayKeeps (s t : State) : Prop where
  clock : t.clock = s.clock
  slate : t.slate = s.slate
  resolver : t.resolver = s.resolver
  startOrder : t.startOrder = s.startOrder
  mix : t.mix = s.mix
  part : t.regs.part = s.regs.part
  run : t.run = s.run

theorem PlayKeeps.refl (s : State) : PlayKeeps s s := ⟨rfl, rfl, rfl, rfl, rfl, rfl, rfl⟩

theorem PlayKeeps.trans {s t u : State} (h : PlayKeeps s t) (h' : PlayKeeps t u) : PlayKeeps s u :=
  ⟨h'.clock.trans h.clock, h'.slate.trans h.slate, h'.resolver.trans h.resolver, h'.startOrder.trans h.startOrder,
    h'.mix.trans h.mix, h'.part.trans h.part, h'.run.trans h.run⟩

theorem playKeeps_playVoice (s : State) (v : Fin 24) : PlayKeeps s (playVoice s v) := by
  rw [playVoice_eq]
  cases underrunHere s v with
  | none => exact ⟨rfl, rfl, rfl, rfl, rfl, rfl, rfl⟩
  | some r =>
    exact ⟨emit_clock _ _, emit_slate _ _, emit_resolver _ _, emit_startOrder _ _, emit_mix _ _, emit_part _ _, emit_run _ _⟩

theorem told_playVoice (s : State) (v : Fin 24) : Told (underrunHere s v).toList s (playVoice s v) := by
  have silent : Silent s (setVoice v (s.voice v).played s) := ⟨rfl, rfl, rfl, keepsLine_of_port rfl⟩
  rw [playVoice_eq]
  cases h : underrunHere s v with
  | none => exact .of_silent silent
  | some r =>
    exact (Told.of_silent silent).trans (.emit _ (by rw [underrunHere_kind h]; rfl))

theorem playVoice_still {s : State} {v : Fin 24} (h : underrunHere s v = none) :
    (playVoice s v).reports = s.reports ∧ (playVoice s v).port = s.port := by
  rw [playVoice_eq, h]
  exact ⟨rfl, rfl⟩

/-- The voices of a list play, one after another. -/
theorem foldl_playVoice (l : List (Fin 24)) (hl : l.Nodup) : ∀ s : State, PlayKeeps s (l.foldl playVoice s)
    ∧ Told (l.filterMap (underrunHere s)) s (l.foldl playVoice s)
    ∧ (l.filterMap (underrunHere s) = [] →
      (l.foldl playVoice s).reports = s.reports ∧ (l.foldl playVoice s).port = s.port) := by
  induction l with
  | nil => exact fun s => ⟨.refl s, .of_silent (.refl s), fun _ => ⟨rfl, rfl⟩⟩
  | cons v l ih =>
    intro s
    obtain ⟨fresh, hl⟩ := List.nodup_cons.mp hl
    have here := playKeeps_playVoice s v
    obtain ⟨keeps, told, still⟩ := ih hl (playVoice s v)
    have same : l.filterMap (underrunHere (playVoice s v)) = l.filterMap (underrunHere s) := by
      refine List.filterMap_congr fun w hw => underrunHere_congr ?_ here.clock
      have ne : w ≠ v := fun e => fresh (e ▸ hw)
      rw [playVoice_voice, if_neg ne]
    rw [same] at told still
    have first := told_playVoice s v
    refine ⟨here.trans keeps, ?_, fun none_ => ?_⟩
    · rw [List.filterMap_cons]
      cases h : underrunHere s v with
      | none =>
        rw [h] at first
        exact first.trans told
      | some r =>
        rw [h] at first
        exact first.trans told
    · rw [List.filterMap_cons] at none_
      cases h : underrunHere s v with
      | some r =>
        rw [h] at none_
        cases none_
      | none =>
        rw [h] at none_
        obtain ⟨reports, port⟩ := playVoice_still h
        obtain ⟨reports', port'⟩ := still none_
        exact ⟨reports'.trans reports, port'.trans port⟩

end Sys2Proof.Machine
end

section
/-! A SAMPLE at which nothing is due (R82, R86, R88, R101, R151 to R154, R157, R159 to R161). -/

namespace Sys2Proof.Machine

/-! ### The entries still to come -/

/-- Behind `t`, no voice but `v` is SOUNDING with another cue than before. -/
def soundsAsBefore (v : Fin 24) (s t : State) : Prop :=
  ∀ w q, w ≠ v → (t.voice w).content = .sounding q → (s.voice w).content = .sounding q

section
variable {v : Fin 24} {s t u : State}

theorem soundsAsBefore_of_voices (h : t.voices = s.voices) : soundsAsBefore v s t := fun w q _ hq => by
  rw [← voice_of_voices h]
  exact hq

theorem soundsAsBefore.trans (h : soundsAsBefore v s t) (h' : soundsAsBefore v t u) : soundsAsBefore v s u :=
  fun w q ne hq => h w q ne (h' w q ne hq)

theorem soundsAsBefore_foldl {α : Type} (f : State → α → State) (h : ∀ t a, soundsAsBefore v t (f t a)) (l : List α) :
    ∀ s, soundsAsBefore v s (l.foldl f s) := by
  induction l with
  | nil => exact fun _ _ _ _ hq => hq
  | cons a l ih => exact fun s => (h s a).trans (ih _)

theorem soundsAsBefore_setVoice (x : Voice) (s : State) : soundsAsBefore v s (setVoice v x s) := fun w q ne hq => by
  rw [setVoice_at, if_neg ne] at hq
  exact hq

theorem afterWithdraw_sounding {c : Content} {q : Playing} (h : c.afterWithdraw = .sounding q) : c = .sounding q := by
  cases c with
  | priming i => cases h
  | armed i => cases h
  | handover p i l => cases h
  | _ => exact h

/-- A kick leaves no other cue SOUNDING. -/
theorem soundsAsBefore_kick (g : Nat) (s : State) (w : Fin 24) : soundsAsBefore v s (kick v g s w) := by
  unfold kick
  split
  · exact fun _ _ _ hq => hq
  · cases hc : (s.voice w).content with
    | sounding p =>
      dsimp only
      split
      · intro x q _ hq
        rw [releaseSounding_voice] at hq
        split at hq
        · unfold Voice.stopped at hq
          split at hq <;> cases hq
        · rcases cancelled_content (v := w) (n := p.claim.number) (x := s.voice x) with same | gone
          · rw [← same]
            exact hq
          · rw [gone] at hq
            exact afterWithdraw_sounding hq
      · exact fun _ _ _ hq => hq
    | _ => exact fun _ _ _ hq => hq

theorem soundsAsBefore_completeEntry (v : Fin 24) (s : State) : soundsAsBefore v s (completeEntry v s) := by
  by_cases entry : ∃ p l, (s.voice v).content = .sounding p ∧ p.entry = some l
  · obtain ⟨p, l, hp, hl⟩ := entry
    rw [completeEntry_enters hp hl]
    unfold entryEffects
    dsimp only
    obtain ⟨x, hx⟩ : ∃ x, x = (s.voice v).takeUpHead p := ⟨_, rfl⟩
    rw [← hx]
    have joins : soundsAsBefore v s { setVoice v x s with startOrder := (setVoice v x s).startOrder ++ [v] } :=
      soundsAsBefore_setVoice x s
    have kicks : ∀ t, soundsAsBefore v t (kickOthers v p.sound.group t) := fun t => by
      unfold kickOthers
      split
      · exact fun _ _ _ hq => hq
      · exact soundsAsBefore_foldl _ (fun t w => soundsAsBefore_kick _ t w) allVoices t
    have keys : ∀ t, soundsAsBefore v t (keyDucks v p.sound.duck t) := fun t =>
      fun w q _ hq => by rw [keyDucks_voice] at hq; exact hq
    have follows : ∀ t, soundsAsBefore v t (testFollow v t) := fun t => by
      rcases testFollow_cases v t with same | ⟨y, f, _, same⟩
      · rw [same]
        exact fun _ _ _ hq => hq
      · rw [same]
        exact soundsAsBefore_setVoice _ t
    exact ((((joins.trans (kicks _)).trans (keys _)).trans (soundsAsBefore_of_voices (emit_voices _ _))).trans
      (soundsAsBefore_of_voices (emitLate_voices _ _ _ _ _))).trans (follows _)
  · rw [completeEntry_of_entered fun q hq => ?_]
    · exact fun _ _ _ hq => hq
    · cases hl : q.entry with
      | none => rfl
      | some l => exact absurd ⟨q, l, hq, hl⟩ entry

theorem foldl_completeEntry_entered (l : List (Fin 24)) : ∀ s : State,
    (∀ w ∈ l, ∀ q, (s.voice w).content = .sounding q → q.entry = none) →
      l.foldl (fun t w => if (fun _ => true) (t.voice w).content then completeEntry w t else t) s = s := by
  induction l with
  | nil => exact fun _ _ => rfl
  | cons w l ih =>
    intro s h
    have here : completeEntry w s = s := completeEntry_of_entered (h w List.mem_cons_self)
    rw [List.foldl_cons, if_pos rfl, here]
    exact ih s fun x hx => h x (List.mem_cons_of_mem _ hx)

/-- The entries still to come, when one voice at most has one. -/
theorem completeEntries_one (others : ∀ w q, w ≠ v → (s.voice w).content = .sounding q → q.entry = none) :
    completeEntries (fun _ => true) s = completeEntry v s := by
  obtain ⟨before, after, split⟩ := List.append_of_mem (List.mem_finRange v)
  have nodup := List.nodup_finRange 24
  rw [split] at nodup
  obtain ⟨_, tail, apart⟩ := List.nodup_append.mp nodup
  obtain ⟨fresh, _⟩ := List.nodup_cons.mp tail
  have stands : allVoices = before ++ v :: after := split
  unfold completeEntries
  rw [stands, List.foldl_append, foldl_completeEntry_entered before s fun w hw q hq =>
      others w q (fun e => apart w hw v List.mem_cons_self e) hq, List.foldl_cons, if_pos rfl]
  exact foldl_completeEntry_entered after _ fun w hw q hq =>
    others w q (fun e => fresh (e ▸ hw)) (soundsAsBefore_completeEntry v s w q (fun e => fresh (e ▸ hw)) hq)

end

/-! ### The refill tests behind the sample -/

theorem portOnly_placeRefills (s : State) : portOnly s (placeRefills s) := by
  have one : ∀ (t : State) (v : Fin 24), portOnly t (placeRefill t v) := fun t v => by
    rw [placeRefill_eq]
    cases refillOf t v with
    | none => exact portOnly_refl t
    | some j => exact (portOnly_voice v true t).trans (portOnly_place j _)
  have all : ∀ (l : List (Fin 24)) (t : State), portOnly t (l.foldl placeRefill t) := fun l => by
    induction l with
    | nil => exact portOnly_refl
    | cons v l ih => exact fun t => (one t v).trans (ih _)
  exact all allVoices s

theorem keepsLine_placeRefills (s : State) : keepsLine s (placeRefills s) := by
  refine keepsLine_foldl _ (fun t v => ?_) allVoices s
  rw [placeRefill_eq]
  cases refillOf t v with
  | none => exact keepsLine_refl t
  | some j => exact (keepsLine_of_port rfl).trans (keepsLine_place j _)

theorem recordsStay_placeRefills (s : State) : recordsStay s (placeRefills s) := fun _ _ _ hj =>
  (refilled_all allVoices (List.nodup_finRange 24) s).kept _ hj

/-! ### The records of the voices -/

/-- The record of a voice that has played a sample is the one of the statement (R86, R88, R89). -/
theorem sampled_of {x y : Voice} (h : { y with refillPending := x.refillPending } = x.played) : sampled x y := by
  have content : y.content = x.played.content := by
    rw [← h]
  have stream : y.stream = x.played.stream := by
    rw [← h]
  have moved : ∀ (p : Playing) (m : Bool), p.play m = { p with
      position := match p.sound.loop with
        | some l => if p.loopActive = true ∧ p.position + 1 = l.stop then l.start else p.position + 1
        | none => p.position + 1
      fade := match p.fade with
        | .fadeIn n => .fadeIn (min (n + 1) p.sound.fadeIn)
        | .release f l m => .release f l (m + 1)
      underrun := p.underrun || m } := fun p m => by
    unfold Playing.play Playing.advanced Fade.advance
    cases p.sound.loop <;> cases p.fade <;> rfl
  have waited : ∀ p : Playing, p.wait = { p with fromNext := false, fade := match p.fade with
      | .fadeIn n => .fadeIn n
      | .release f l m => .release f l (m + 1) } := fun p => by
    unfold Playing.wait
    cases p.fade <;> rfl
  unfold sampled
  unfold Voice.played at content stream h
  cases hc : x.content with
  | sounding p =>
    rw [hc] at content stream
    dsimp only at content stream ⊢
    by_cases next : p.fromNext = true
    · rw [if_pos next] at content stream
      exact ⟨content.trans (congrArg Content.sounding ((waited p).trans (if_pos next).symm)), stream.trans (if_pos next).symm⟩
    · rw [if_neg next] at content stream
      exact ⟨content.trans (congrArg Content.sounding ((moved p _).trans (if_neg next).symm)), stream.trans (if_neg next).symm⟩
  | releasing p =>
    rw [hc] at content stream
    dsimp only at content stream ⊢
    by_cases next : p.fromNext = true
    · rw [if_pos next] at content stream
      exact ⟨content.trans (congrArg Content.releasing ((waited p).trans (if_pos next).symm)), stream.trans (if_pos next).symm⟩
    · rw [if_neg next] at content stream
      exact ⟨content.trans (congrArg Content.releasing ((moved p _).trans (if_neg next).symm)), stream.trans (if_neg next).symm⟩
  | handover p i l =>
    rw [hc] at content stream
    dsimp only at content stream ⊢
    by_cases next : p.fromNext = true
    · rw [if_pos next] at content stream
      exact ⟨content.trans (congrArg (fun p => Content.handover p i l) ((waited p).trans (if_pos next).symm)), stream.trans (if_pos next).symm⟩
    · rw [if_neg next] at content stream
      exact ⟨content.trans (congrArg (fun p => Content.handover p i l) ((moved p false).trans (if_neg next).symm)), stream.trans (if_neg next).symm⟩
  | _ =>
    rw [hc] at h
    exact h

theorem played_sounding {x : Voice} {q : Playing} (h : x.played.content = .sounding q) :
    ∃ q', x.content = .sounding q' ∧ q.entry = q'.entry := by
  unfold Voice.played at h
  cases hc : x.content with
  | sounding p =>
    rw [hc] at h
    dsimp only at h
    split at h <;> cases h <;> exact ⟨p, rfl, rfl⟩
  | releasing p =>
    rw [hc] at h
    dsimp only at h
    split at h <;> cases h
  | handover p i l =>
    rw [hc] at h
    dsimp only at h
    split at h <;> cases h
  | _ =>
    rw [hc] at h
    cases hc.symm.trans h

theorem played_head (x : Voice) : x.played.head = x.head := by
  unfold Voice.played
  repeat' split
  all_goals rfl

/-! ### The sample as a whole -/

/-- The state in which the voices have been mixed and have played their sample. -/
def playedState (s : State) : State := allVoices.foldl playVoice (mixBuses (contributions s) s)

section
variable {s : State}

theorem told_playedState (s : State) : Told (underruns s) s (playedState s)
    ∧ (underruns s = [] → (playedState s).reports = s.reports ∧ (playedState s).port = s.port) := by
  obtain ⟨_, told, still⟩ := foldl_playVoice allVoices (List.nodup_finRange 24) (mixBuses (contributions s) s)
  have same : allVoices.filterMap (underrunHere (mixBuses (contributions s) s)) = underruns s :=
    List.filterMap_congr fun _ _ => underrunHere_congr rfl rfl
  rw [same] at told still
  have silent : Silent s (mixBuses (contributions s) s) := ⟨rfl, rfl, rfl, keepsLine_of_port rfl⟩
  exact ⟨(Told.of_silent silent).trans told, still⟩

theorem playedState_voice (s : State) (v : Fin 24) : (playedState s).voice v = (s.voice v).played := playVoices_voice _ v

theorem playedState_quiet (s : State) : (playedState s).quiet = (mixBuses (contributions s) s).quiet :=
  quiet_foldl _ (fun t v => quiet_playVoice t v) allVoices _

/-- A bus behind the sample is what R159 to R161 make of the exact sums. -/
theorem mixed_bus {u : State} (h : u.mix.buses = (mixBuses (contributions s) s).mix.buses) (b : Fin 4) {l r : Int}
    (hl : l = sumOf s b Frame.left) (hr : r = sumOf s b Frame.right) :
    u.mix.buses[b].left = clamped l ∧ u.mix.buses[b].right = clamped r
      ∧ (u.mix.buses[b].clipFlag = true ↔ s.mix.buses[b].clipFlag = true ∨ clamped l ≠ l ∨ clamped r ≠ r)
      ∧ u.mix.buses[b].peak = max s.mix.buses[b].peak (max (clamped l).natAbs (clamped r).natAbs)
      ∧ u.mix.buses[b].trim = s.mix.buses[b].trim ∧ u.mix.buses[b].clipCount = s.mix.buses[b].clipCount := by
  have sides : busSum s b (contributions s) = (l, r) := by rw [busSum_eq, hl, hr]
  have bus : u.mix.buses[b] = mixBus s (contributions s) b := by
    rw [h]
    exact Vector.getElem_ofFn _
  rw [bus]
  unfold mixBus
  dsimp only
  rw [sides]
  refine ⟨rfl, rfl, ?_, rfl, rfl, rfl⟩
  rw [Bool.or_eq_true, Bool.or_eq_true, decide_eq_true_eq, decide_eq_true_eq, or_assoc]
  rfl

end

/-- Settles O13. -/
theorem quietSamplePlays : Obligations.QuietSamplePlays := by
  intro p s still
  obtain ⟨m, hm⟩ : ∃ m, m = playedState s := ⟨_, rfl⟩
  obtain ⟨u, hu⟩ : ∃ u, u = newSample p m := ⟨_, rfl⟩
  obtain ⟨w, hw⟩ : ∃ w, w = completeEntries (fun _ => true) u := ⟨_, rfl⟩
  obtain ⟨t, ht⟩ : ∃ t, t = arbitrate (placeRefills w) := ⟨_, rfl⟩
  have act : exec (.sample p) s = .next t := by
    have ticks : sampleTick p s = placeRefills w := by
      rw [sampleTick_quiet still, hw, hu, hm]
      rfl
    exact (congrArg (fun t => Host.Outcome.next (arbitrate t)) ticks).trans (by rw [ht])
  have port : portOnly w t := by
    rw [ht]
    exact (portOnly_placeRefills w).trans (portOnly_arbitrate _)
  have records : recordsStay w t := fun n r x hj => by
    rw [ht]
    exact recordsStay_arbitrate _ n r x (recordsStay_placeRefills w n r x hj)
  have line : keepsLine w t := by
    rw [ht]
    exact (keepsLine_placeRefills w).trans (keepsLine_arbitrate _)
  have keeps : PlayKeeps (mixBuses (contributions s) s) m := hm ▸ (foldl_playVoice allVoices (List.nodup_finRange 24) _).1
  have quiet : w.quiet = u.quiet := by rw [hw, quiet_completeEntries]
  obtain ⟨told, told_none⟩ := told_playedState s
  rw [← hm] at told told_none
  have silent : Silent m u := by
    rw [hu]
    exact ⟨rfl, rfl, rfl, keepsLine_of_port rfl⟩
  have mquiet : m.quiet = (mixBuses (contributions s) s).quiet := hm ▸ playedState_quiet s
  have buses : u.mix.buses = (mixBuses (contributions s) s).mix.buses := by
    rw [← keeps.mix, hu]
    rfl
  have ducks : ∀ g : Fin 4, u.mix.ducks[g] = counted s.mix.ducks[g] := fun g => by
    have same : m.mix.ducks = s.mix.ducks := by
      rw [keeps.mix]
      rfl
    rw [← same, hu]
    exact Vector.getElem_ofFn _
  have voice : ∀ v, u.voice v = (s.voice v).played := fun v => by
    rw [← playedState_voice s v, ← hm, hu]
    rfl
  have order : u.startOrder = s.startOrder := by
    rw [hu]
    exact keeps.startOrder
  have resolver : u.resolver = s.resolver := by
    rw [hu]
    exact keeps.resolver
  have entries : ∀ v, (∀ q, (s.voice v).content = .sounding q → q.entry = none) →
      ∀ q, (u.voice v).content = .sounding q → q.entry = none := fun v h q hq => by
    rw [voice] at hq
    obtain ⟨q', hq', same⟩ := played_sounding hq
    exact same.trans (h q' hq')
  have clock : u.clock = m.clock.tick p.reference := by
    rw [hu]
    unfold newSample
    rw [mapDucks_clock]
    rfl
  have bused : t.mix.buses = u.mix.buses := by
    rw [port.mix]
    exact congrArg Quiet.buses quiet
  have inOrder := (told.silent silent).inOrder (keepsLine_refl u)
  have unreported : underruns s = [] → u.reports = s.reports ∧ u.port = s.port := fun none_ => by
    rw [hu]
    exact told_none none_
  refine ⟨⟨t, act, fun b l r hl hr => mixed_bus (bused.trans buses) b hl hr, ?_, ?_, ?_, fun none_ => ?_⟩,
    fun v q l hq next entry others => ?_⟩
  · rw [port.clock, show w.clock = u.clock from congrArg Quiet.clock quiet, clock,
      show m.clock = s.clock from keeps.clock]
    rfl
  · rw [port.cache, show w.cache = u.cache from congrArg Quiet.cache quiet, hu]
    exact (congrArg Quiet.cache mquiet).trans rfl
  · rw [port.run, show w.run = u.run from congrArg Quiet.run quiet, hu]
    exact keeps.run
  · have same : w = u := by
      rw [hw]
      exact completeEntries_entered fun v => entries v (none_ v)
    rw [same] at port line
    refine ⟨fun v => sampled_of ?_, port.startOrder.trans order, port.resolver.trans resolver, fun g => ?_, ?_, fun quiet_ => ?_⟩
    · have alike := port.2 v
      rw [voice, played_refillPending] at alike
      exact alike
    · rw [port.mix]
      exact ducks g
    · exact (told.silent silent).inOrder line
    · exact port.reports.trans (unreported quiet_).1
  · have one : w = completeEntry v u := by
      rw [hw]
      exact completeEntries_one fun x q' ne => entries x (fun q => others x q ne) q'
    have content : (u.voice v).content = .sounding q.wait := by
      rw [voice]
      unfold Voice.played
      rw [hq]
      dsimp only
      rw [next]
      rfl
    have enters : entersSounding v q.wait u w := by
      rw [one, completeEntry_enters content entry]
      exact entryEffects_enters entry
    refine ⟨t, u, q.wait, act, content, enters.answered port records, ?_, order, ?_, ?_, fun x => sampled_of ?_, bused.symm, ?_,
      resolver, ?_, ducks, inOrder, unreported⟩
    · rw [clock, keeps.clock]
      rfl
    · rw [hu]
      exact keeps.part
    · rw [voice, played_head]
    · have alike : { (s.voice x).played with refillPending := (s.voice x).played.refillPending } = (s.voice x).played := rfl
      rw [played_refillPending] at alike
      rw [voice]
      exact alike
    · rw [hu]
      exact keeps.slate
    · rw [hu]
      exact keeps.run

end Sys2Proof.Machine
end
